-- ==== Sys2Proof/Word.lean ====
section
/-! DEFINITION. The word types of the Tarulo G9 and the sparse map that holds its register files and memories. -/

namespace Sys2Proof

/-- One byte. -/
abbrev Byte := BitVec 8

/-- A lane word: 32 bits (02 R33). -/
abbrev W32 := BitVec 32

/-- A scalar word: 64 bits (01 R12). -/
abbrev W64 := BitVec 64

/-- A sparse map from natural keys: pairs with strictly rising keys, no pair holding the default.
The operations that keep this form are `mapGet` and `mapSet` of Machine/Map.lean. -/
abbrev SMap (α : Type) := List (Nat × α)

end Sys2Proof
end

