-- ==== Sys2Proof/Syntax.lean ====
section
/-! DEFINITION. The abstract syntax: one constructor of `Instr` for each row of spec/opcode_table.json
(05 R73, R75; 95_what_each_step_holds.md), after the shapes its operands take. -/

namespace Sys2Proof

/-- The literal words of an SLIT, by kind (06 R88): kind 0 sign-extends, kind 1 zero-extends, kind 2 is 64 bits. -/
inductive Literal where
  | signed (w0 : W32)
  | unsigned (w0 : W32)
  | full (w0 w1 : W32)
  deriving DecidableEq, Repr

/-- The byte form in which a lane instruction stands in memory (03 R58). -/
inductive Form where
  | short
  | f80
  | f81
  | f82
  | f83
  deriving DecidableEq, Repr

/-- The length in bytes of each form (03 R58). -/
def Form.length : Form → Nat
  | .short => 4
  | .f80 => 8
  | .f81 => 8
  | .f82 => 12
  | .f83 => 13

/-- The fields of the internal lane word, less its opcode (03 R56), with the byte form it stood in. -/
structure LaneWord where
  form : Form
  la   : BitVec 4
  pred : BitVec 4
  mod  : BitVec 5
  d    : BitVec 11
  a    : BitVec 11
  b    : BitVec 11
  c    : BitVec 11
  imm  : BitVec 31
  deriving DecidableEq, Repr

/-- One half of a pair word (03 R59): bits [43:37], [36:33], [32:24], [23:15], [14:6]; bits [5:0] are zero. -/
structure PairHalf where
  op  : BitVec 7
  mod : BitVec 4
  d   : BitVec 9
  a   : BitVec 9
  b   : BitVec 9
  deriving DecidableEq, Repr

/-- The instructions and steps of the G9, one constructor for each row of the opcode table. Scalar constructors hold
the fields their word uses; lane constructors hold the fields of the internal lane word. The rows that have no
encoding (the steps of the device, its engines, its firmware and its host) come last and hold nothing: what a step
acts on stands in the state (`State.ev`), as a command stands in a mailbox. -/
inductive Instr where
  /-- SADD (R86). Writes the 64-bit sum of two scalar registers, wrapping modulo 2^64. -/
  | sadd (sd sa sb : BitVec 8)
  /-- SSUB (R86). Writes the 64-bit difference of two scalar registers, wrapping modulo 2^64. -/
  | ssub (sd sa sb : BitVec 8)
  /-- SMUL (R86). Writes bits [63:0] of the signed 128-bit product. -/
  | smul (sd sa sb : BitVec 8)
  /-- SMULH (R86). Writes bits [127:64] of the signed 128-bit product. -/
  | smulh (sd sa sb : BitVec 8)
  /-- SDIV (R86). Writes the signed quotient truncated towards zero; a zero divisor follows R33. -/
  | sdiv (sd sa sb : BitVec 8)
  /-- SDIVU (R86). Writes the unsigned quotient; a zero divisor follows R33. -/
  | sdivu (sd sa sb : BitVec 8)
  /-- SREM (R86). Writes the signed remainder, with the sign of the dividend. -/
  | srem (sd sa sb : BitVec 8)
  /-- SREMU (R86). Writes the unsigned remainder. -/
  | sremu (sd sa sb : BitVec 8)
  /-- SAND (R86). Writes the bitwise AND of two scalar registers. -/
  | sand (sd sa sb : BitVec 8)
  /-- SOR (R86). Writes the bitwise OR of two scalar registers. -/
  | sor (sd sa sb : BitVec 8)
  /-- SXOR (R86). Writes the bitwise XOR of two scalar registers. -/
  | sxor (sd sa sb : BitVec 8)
  /-- SANDN (R86). Writes a AND NOT b. -/
  | sandn (sd sa sb : BitVec 8)
  /-- SSHL (R86). Shifts left by b mod 64. -/
  | sshl (sd sa sb : BitVec 8)
  /-- SSHR (R86). Shifts logically right by b mod 64. -/
  | sshr (sd sa sb : BitVec 8)
  /-- SSRA (R86). Shifts arithmetically right by b mod 64. -/
  | ssra (sd sa sb : BitVec 8)
  /-- SROR (R86). Rotates right by b mod 64. -/
  | sror (sd sa sb : BitVec 8)
  /-- SSLT (R86). Writes 1 if a < b signed, else 0. -/
  | sslt (sd sa sb : BitVec 8)
  /-- SSLTU (R86). Writes 1 if a < b unsigned, else 0. -/
  | ssltu (sd sa sb : BitVec 8)
  /-- SSEQ (R86). Writes 1 if a = b, else 0. -/
  | sseq (sd sa sb : BitVec 8)
  /-- SSNE (R86). Writes 1 if a differs from b, else 0. -/
  | ssne (sd sa sb : BitVec 8)
  /-- SMIN (R86). Writes the signed minimum. -/
  | smin (sd sa sb : BitVec 8)
  /-- SMAX (R86). Writes the signed maximum. -/
  | smax (sd sa sb : BitVec 8)
  /-- SMINU (R86). Writes the unsigned minimum. -/
  | sminu (sd sa sb : BitVec 8)
  /-- SMAXU (R86). Writes the unsigned maximum. -/
  | smaxu (sd sa sb : BitVec 8)
  /-- SCLZ (R86). Writes the count of leading zeros of a. -/
  | sclz (sd sa : BitVec 8)
  /-- SCTZ (R86). Writes the count of trailing zeros of a, 64 for zero. -/
  | sctz (sd sa : BitVec 8)
  /-- SPOP (R86). Writes the ones count of a. -/
  | spop (sd sa : BitVec 8)
  /-- SBREV (R86). Writes the 64-bit bit reversal of a. -/
  | sbrev (sd sa : BitVec 8)
  /-- SADDI (R87). Adds a sign-extended immediate to a scalar register. -/
  | saddi (sd sa : BitVec 8) (imm : BitVec 10)
  /-- SANDI (R87). ANDs a sign-extended immediate. -/
  | sandi (sd sa : BitVec 8) (imm : BitVec 10)
  /-- SORI (R87). ORs a zero-extended immediate. -/
  | sori (sd sa : BitVec 8) (imm : BitVec 10)
  /-- SXORI (R87). XORs a sign-extended immediate. -/
  | sxori (sd sa : BitVec 8) (imm : BitVec 10)
  /-- SSHLI (R87). Shifts left by an immediate amount 0-63. -/
  | sshli (sd sa : BitVec 8) (imm : BitVec 6)
  /-- SSHRI (R87). Shifts logically right by an immediate amount. -/
  | sshri (sd sa : BitVec 8) (imm : BitVec 6)
  /-- SSRAI (R87). Shifts arithmetically right by an immediate amount. -/
  | ssrai (sd sa : BitVec 8) (imm : BitVec 6)
  /-- SSLTI (R87). Writes 1 if a is below a sign-extended immediate, signed. -/
  | sslti (sd sa : BitVec 8) (imm : BitVec 10)
  /-- SLI (R88). Loads a sign-extended 18-bit constant. -/
  | sli (sd : BitVec 8) (imm : BitVec 18)
  /-- SLIT (R88). Loads a 32- or 64-bit constant from the literal words that follow, by kind. -/
  | slit (sd : BitVec 8) (lit : Literal)
  /-- SLD (R92). Loads a 64-bit word from global memory through the L1. -/
  | sld (sd sa : BitVec 8) (imm : BitVec 10)
  /-- SLW (R92). Loads a 32-bit word, sign-extended. -/
  | slw (sd sa : BitVec 8) (imm : BitVec 10)
  /-- SLWU (R92). Loads a 32-bit word, zero-extended. -/
  | slwu (sd sa : BitVec 8) (imm : BitVec 10)
  /-- SST (R92). Stores a 64-bit word and counts it as unacknowledged. -/
  | sst (sd sa : BitVec 8) (imm : BitVec 10)
  /-- SSTW (R92). Stores the low 32 bits of a register. -/
  | sstw (sd sa : BitVec 8) (imm : BitVec 10)
  /-- SAADD (R93). Atomically adds to a 64-bit word at its home slice and returns the old value. -/
  | saadd (sd sa sb : BitVec 8)
  /-- SAMIN (R93). Atomic signed minimum on a 64-bit word. -/
  | samin (sd sa sb : BitVec 8)
  /-- SAMAX (R93). Atomic signed maximum on a 64-bit word. -/
  | samax (sd sa sb : BitVec 8)
  /-- SAXCHG (R93). Atomic exchange on a 64-bit word. -/
  | saxchg (sd sa sb : BitVec 8)
  /-- SAAND (R93). Atomic AND on a 64-bit word. -/
  | saand (sd sa sb : BitVec 8)
  /-- SAOR (R93). Atomic OR on a 64-bit word. -/
  | saor (sd sa sb : BitVec 8)
  /-- SAXOR (R93). Atomic XOR on a 64-bit word. -/
  | saxor (sd sa sb : BitVec 8)
  /-- SACAS (R93). Atomic compare-and-swap with S[sd] as the compare value. -/
  | sacas (sd sa sb : BitVec 8)
  /-- SBEQ (R94). Branches by a word offset when a = b. -/
  | sbeq (sa sb : BitVec 8) (off : BitVec 10)
  /-- SBNE (R94). Branches when a differs from b. -/
  | sbne (sa sb : BitVec 8) (off : BitVec 10)
  /-- SBLT (R94). Branches when a < b signed. -/
  | sblt (sa sb : BitVec 8) (off : BitVec 10)
  /-- SBGE (R94). Branches when a >= b signed. -/
  | sbge (sa sb : BitVec 8) (off : BitVec 10)
  /-- SBLTU (R94). Branches when a < b unsigned. -/
  | sbltu (sa sb : BitVec 8) (off : BitVec 10)
  /-- SBGEU (R94). Branches when a >= b unsigned. -/
  | sbgeu (sa sb : BitVec 8) (off : BitVec 10)
  /-- SJMP (R95). Jumps by a signed word offset. -/
  | sjmp (off : BitVec 26)
  /-- SCALL (R95). Writes PC + 4 to S255 and jumps by a signed word offset. -/
  | scall (off : BitVec 26)
  /-- SJR (R95). Jumps to the address in a register, checking alignment. -/
  | sjr (sa : BitVec 8)
  /-- SJALR (R95). Jumps to a register address and writes the link into sd. -/
  | sjalr (sd sa : BitVec 8)
  /-- SMOV (R89). Moves one of S0-S1023 to another. -/
  | smov (sd sa : BitVec 10)
  /-- SRD (R90). Reads a special register by number into a scalar register. -/
  | srd (sd num : BitVec 10)
  /-- SWR (R90). Writes a scalar register to a special register under its access rules. -/
  | swr (num sa : BitVec 10)
  /-- LCALL (R96). Joins any outstanding call, snapshots scalars and starts a lane call at a byte offset from LANEBASE. -/
  | lcall (off : BitVec 26)
  /-- LCALLR (R96). Starts a lane call at the byte offset held in a register. -/
  | lcallr (sa : BitVec 8)
  /-- LJOIN (R97). Waits until every split has stopped and results have landed, then publishes lane-written registers and flags. -/
  | ljoin
  /-- LTEST (R97). Writes 1 if no lane call is outstanding or it has stopped in every split. -/
  | ltest (sd : BitVec 8)
  /-- SPAWN (R99). Checks operands, joins, releases and creates n task records or a child grid counted in the group frame. -/
  | spawn (sd sa sb : BitVec 8)
  /-- AWAITG (R100). Waits until the group frame's join count is zero, then acquires. -/
  | awaitg
  /-- TEXIT (R101). Drains counters, releases resources, ends held tasks and ends the group. -/
  | texit
  /-- YIELD (R102). Asks the scheduler to prefer other ready groups for one round. -/
  | yield
  /-- BAR (R103). Arrives at the team barrier as a release and departs as an acquire when all members arrive. -/
  | bar
  /-- BARL (R103). Team barrier that writes 1 in the named last-arriver group and 0 elsewhere. -/
  | barl (sd : BitVec 8)
  /-- CBAR (R103). Barrier across every group of every team of the cluster. -/
  | cbar
  /-- CBARL (R103). Cluster barrier that names one group. -/
  | cbarl (sd : BitVec 8)
  /-- FPUT (R104). Releases, fills a future word and wakes its deferred-read list with the value. -/
  | fput (sa sb : BitVec 8)
  /-- FGET (R104). Waits until a future word is full, reads it and acquires. -/
  | fget (sd sa : BitVec 8)
  /-- FTRY (R104). Reads a full future word with acquire, or returns a default. -/
  | ftry (sd sa sb : BitVec 8)
  /-- FCLR (R104). Empties a future word and zeroes its value. -/
  | fclr (sa : BitVec 8)
  /-- CPY (R107). Starts a copy-engine operation of n bytes. -/
  | cpy (h : BitVec 4) (sa sb sc : BitVec 6) (rel : Bool)
  /-- CPYB (R107). Starts a copy from global memory into the B-store. -/
  | cpyb (h : BitVec 4) (sa sb sc : BitVec 6) (rel : Bool)
  /-- GATH (R107). Starts a gather of indexed elements into a contiguous destination. -/
  | gath (h : BitVec 4) (sa sb sc : BitVec 6) (rel : Bool)
  /-- SCAT (R107). Starts a scatter of contiguous elements to indexed addresses. -/
  | scat (h : BitVec 4) (sa sb sc : BitVec 6) (rel : Bool)
  /-- XKICK (R108). Kicks a number of request blocks on a transform ring as one transform operation. -/
  | xkick (h : BitVec 4) (sa sb : BitVec 6) (rel : Bool)
  /-- COLL (R108). Starts the collective described by a 64-byte descriptor. -/
  | coll (h : BitVec 4) (sa : BitVec 6) (rel : Bool)
  /-- WAITC (R110). Waits until an engine class counter is at most n, then acquires and reports a latched error. -/
  | waitc (cls : BitVec 2) (n : BitVec 6)
  /-- WAITH (R111). Waits while a handle is pending, then frees it with acquire or traps on error. -/
  | waith (h : BitVec 4)
  /-- TESTH (R111). Writes a handle's state and error code without changing it. -/
  | testh (sd : BitVec 8) (h : BitVec 4)
  /-- CANCH (R111). Asks a pending operation to stop before its next 64-byte unit. -/
  | canch (h : BitVec 4)
  /-- HMOV (R111). Moves a handle's state to another handle and frees the source. -/
  | hmov (hd ha : BitVec 4)
  /-- VACQ (R112). Joins, then waits for and grants n extended register blocks at once. -/
  | vacq (n : BitVec 2)
  /-- VREL (R112). Keeps blocks 1 to n and returns the rest to the pool. -/
  | vrel (n : BitVec 2)
  /-- TACQ (R112). Waits for and grants n tile registers. -/
  | tacq (n : BitVec 3)
  /-- TREL (R112). Keeps tiles T0 to T(n-1) and releases the rest. -/
  | trel (n : BitVec 3)
  /-- BANKCFG (R113). Switches one bank of the core between cache way, scratchpad and FIFO, writing a status. -/
  | bankcfg (sa : BitVec 8)
  /-- QCLAIM (R114). Waits for and takes the lowest free FIFO slot, returning its window offset. -/
  | qclaim (sd sa : BitVec 8)
  /-- QPUB (R114). Joins, releases and publishes a taken slot, launching a consumer or queueing it. -/
  | qpub (sa sb : BitVec 8)
  /-- QFREE (R114). Makes a FIFO slot free whatever its state. -/
  | qfree (sa sb : BitVec 8)
  /-- QPOP (R114). Waits for the oldest published slot and acquires its publisher's release. -/
  | qpop (sd sa : BitVec 8)
  /-- TRAP (R115). Raises trap 0x0A with a number, returning to PC + 4. -/
  | trap (n : BitVec 8)
  /-- SYSC (R115). Raises trap 0x0B with a number, returning to PC + 4. -/
  | sysc (n : BitVec 8)
  /-- ERET (R290). Drains, rereads the record and restores the interrupted state, lowering the trap depth. -/
  | eret
  /-- BKPT (R115). Raises trap 0x0C with a number, returning to PC. -/
  | bkpt (n : BitVec 8)
  /-- TLBINV (R116). Privileged; drops every cached translation overlapping a range and waits for completion. -/
  | tlbinv (sa sb : BitVec 8)
  /-- ICINV (R65). Drops a range from every instruction cache and waits for completion. -/
  | icinv (sa sb : BitVec 8)
  /-- HALT (R116). Stops the group at once, abandons the lane call and posts a HALT context error. -/
  | halt
  /-- SCMOVN (R89). Moves a to d when b is nonzero. -/
  | scmovn (sd sa sb : BitVec 8)
  /-- SCMOVZ (R89). Moves a to d when b is zero. -/
  | scmovz (sd sa sb : BitVec 8)
  /-- VADD (R122). Lane integer add, wrapping or saturating. -/
  | vadd (f : LaneWord)
  /-- VSUB (R122). Lane integer subtract. -/
  | vsub (f : LaneWord)
  /-- VMUL (R122). Lane integer multiply. -/
  | vmul (f : LaneWord)
  /-- VMULH (R122). High half of the signed 64-bit product. -/
  | vmulh (f : LaneWord)
  /-- VMULHU (R122). High half of the unsigned 64-bit product. -/
  | vmulhu (f : LaneWord)
  /-- VMAD (R122). Multiply-add, clamped once on the exact value. -/
  | vmad (f : LaneWord)
  /-- VABSD (R122). Absolute difference. -/
  | vabsd (f : LaneWord)
  /-- VAND (R122). Lane bitwise AND. -/
  | vand (f : LaneWord)
  /-- VOR (R122). Lane bitwise OR. -/
  | vor (f : LaneWord)
  /-- VXOR (R122). Lane bitwise XOR. -/
  | vxor (f : LaneWord)
  /-- VANDN (R122). Lane a AND NOT b. -/
  | vandn (f : LaneWord)
  /-- VSHL (R122). Lane shift left by b mod 32. -/
  | vshl (f : LaneWord)
  /-- VSHR (R122). Lane logical shift right. -/
  | vshr (f : LaneWord)
  /-- VSRA (R122). Lane arithmetic shift right. -/
  | vsra (f : LaneWord)
  /-- VROR (R122). Lane rotate right. -/
  | vror (f : LaneWord)
  /-- VMIN (R122). Lane signed minimum. -/
  | vmin (f : LaneWord)
  /-- VMAX (R122). Lane signed maximum. -/
  | vmax (f : LaneWord)
  /-- VMINU (R122). Lane unsigned minimum. -/
  | vminu (f : LaneWord)
  /-- VMAXU (R122). Lane unsigned maximum. -/
  | vmaxu (f : LaneWord)
  /-- VCLZ (R122). Lane leading-zero count. -/
  | vclz (f : LaneWord)
  /-- VPOP (R122). Lane ones count. -/
  | vpop (f : LaneWord)
  /-- VBREV (R122). Lane 32-bit bit reversal. -/
  | vbrev (f : LaneWord)
  /-- VBFX (R123). Extracts a bit field, zero- or sign-extended. -/
  | vbfx (f : LaneWord)
  /-- VBFI (R123). Inserts a bit field from c into a. -/
  | vbfi (f : LaneWord)
  /-- VSEL (R122). Selects a where c is nonzero, else b. -/
  | vsel (f : LaneWord)
  /-- VCMP (R122). Writes 1 where an integer condition holds. -/
  | vcmp (f : LaneWord)
  /-- VMOV (R122). Lane register move. -/
  | vmov (f : LaneWord)
  /-- VMOVI (R122). Writes a sign-extended immediate. -/
  | vmovi (f : LaneWord)
  /-- VADDC (R122). Writes the carry out of the unsigned sum. -/
  | vaddc (f : LaneWord)
  /-- VDIV (R124). Microcoded signed division in every active lane or none. -/
  | vdiv (f : LaneWord)
  /-- VREM (R124). Microcoded signed remainder. -/
  | vrem (f : LaneWord)
  /-- FADD (R125). FP32 add, rounded once. -/
  | fadd (f : LaneWord)
  /-- FSUB (R125). FP32 subtract. -/
  | fsub (f : LaneWord)
  /-- FMUL (R125). FP32 multiply. -/
  | fmul (f : LaneWord)
  /-- FFMA (R125). FP32 fused multiply-add. -/
  | ffma (f : LaneWord)
  /-- FMIN (R126). FP32 minimum with defined zero and NaN handling. -/
  | fmin (f : LaneWord)
  /-- FMAX (R126). FP32 maximum. -/
  | fmax (f : LaneWord)
  /-- FCMP (R126). FP32 comparison writing 1 or 0. -/
  | fcmp (f : LaneWord)
  /-- FRND (R125). Rounds to an integral value in a given direction. -/
  | frnd (f : LaneWord)
  /-- FRCP (R125). Reciprocal rounded RNE from the exact value. -/
  | frcp (f : LaneWord)
  /-- FRSQ (R125). Reciprocal square root. -/
  | frsq (f : LaneWord)
  /-- FSQRT (R125). Square root under the instruction's rounding. -/
  | fsqrt (f : LaneWord)
  /-- FEXP2 (R125). Base-2 exponential. -/
  | fexp2 (f : LaneWord)
  /-- FLOG2 (R125). Base-2 logarithm. -/
  | flog2 (f : LaneWord)
  /-- FSIN (R125). Sine of an argument in revolutions. -/
  | fsin (f : LaneWord)
  /-- FCOS (R125). Cosine of an argument in revolutions. -/
  | fcos (f : LaneWord)
  /-- FCLASS (R127). Writes a one-hot class mask of an FP32 value. -/
  | fclass (f : LaneWord)
  /-- HADD2 (R128). Packed BF16 or FP16 add. -/
  | hadd2 (f : LaneWord)
  /-- HMUL2 (R128). Packed 16-bit multiply. -/
  | hmul2 (f : LaneWord)
  /-- HFMA2 (R128). Packed 16-bit fused multiply-add. -/
  | hfma2 (f : LaneWord)
  /-- QDOT4 (R129). Four-element 8-bit FP dot product into FP32, rounded once. -/
  | qdot4 (f : LaneWord)
  /-- IDOT4 (R129). Four-element INT8 dot product into I32. -/
  | idot4 (f : LaneWord)
  /-- CVT (R130). Converts one element between the listed types. -/
  | cvt (f : LaneWord)
  /-- QBLK (R131). Quantises eight FP32 values into one FB4 block and scale. -/
  | qblk (f : LaneWord)
  /-- UNBLK (R132). Expands an FB4 block into eight FP32 values. -/
  | unblk (f : LaneWord)
  /-- FDIV (R125). Microcoded FP32 division, rounded once. -/
  | fdiv (f : LaneWord)
  /-- VCOPY (R152). Microcoded per-lane byte copy that can be trapped and resumed between steps. -/
  | vcopy (f : LaneWord)
  /-- VRAND (R134). Writes a Philox word from the latched key and per-lane counter. -/
  | vrand (f : LaneWord)
  /-- VDEC (R135). Decodes one bit-stream field per lane from global memory. -/
  | vdec (f : LaneWord)
  /-- VSHFL (R136). Reads a value from an indexed lane of the tile. -/
  | vshfl (f : LaneWord)
  /-- VSHUP (R136). Reads from the lane b places below within the tile. -/
  | vshup (f : LaneWord)
  /-- VSHDN (R136). Reads from the lane b places above within the tile. -/
  | vshdn (f : LaneWord)
  /-- VSHX (R136). Reads from the XOR-indexed lane of the tile. -/
  | vshx (f : LaneWord)
  /-- VBCAST (R136). Broadcasts the lowest active lane's value over the tile. -/
  | vbcast (f : LaneWord)
  /-- VVOTE (R137). Combines a condition over each tile's active lanes. -/
  | vvote (f : LaneWord)
  /-- VMATCH (R138). Writes the mask of tile lanes holding an equal value. -/
  | vmatch (f : LaneWord)
  /-- VRED (R139). Reduces over the tile in the fixed pairwise tree. -/
  | vred (f : LaneWord)
  /-- VSCAN (R139). Inclusive or exclusive prefix over the tile. -/
  | vscan (f : LaneWord)
  /-- VSAMPLE (R140). Chooses one lane per tile with probability proportional to its weight. -/
  | vsample (f : LaneWord)
  /-- KAND (R141). Mask register AND. -/
  | kand (f : LaneWord)
  /-- KOR (R141). Mask register OR. -/
  | kor (f : LaneWord)
  /-- KXOR (R141). Mask register XOR. -/
  | kxor (f : LaneWord)
  /-- KNOT (R141). Mask register NOT. -/
  | knot (f : LaneWord)
  /-- KMOV (R141). Sets mask bits of the split's lanes from a nonzero test. -/
  | kmov (f : LaneWord)
  /-- KPOP (R141). Writes the popcount of a mask register. -/
  | kpop (f : LaneWord)
  /-- KFFS (R141). Writes the index of a mask's lowest set bit. -/
  | kffs (f : LaneWord)
  /-- VEXT (R136). Reads the value of an indexed lane regardless of TILEW. -/
  | vext (f : LaneWord)
  /-- VINS (R136). Writes each active lane's value into an indexed lane. -/
  | vins (f : LaneWord)
  /-- VLD (R145). Lane 32-bit global load through the L1, optionally split on miss. -/
  | vld (f : LaneWord)
  /-- VST (R145). Lane 32-bit global store written through the L1. -/
  | vst (f : LaneWord)
  /-- VLDS (R145). Lane scratchpad or FIFO-window load. -/
  | vlds (f : LaneWord)
  /-- VSTS (R145). Lane scratchpad or FIFO-window store. -/
  | vsts (f : LaneWord)
  /-- VATOM (R149). Returning global atomic per lane at the home slice. -/
  | vatom (f : LaneWord)
  /-- VATOMN (R149). No-return global atomic counted as an unacknowledged store. -/
  | vatomn (f : LaneWord)
  /-- VATOMS (R149). Scratchpad atomic returning the old value. -/
  | vatoms (f : LaneWord)
  /-- VPREF (R151). Prefetches lines into the L1 and last-level cache without faulting. -/
  | vpref (f : LaneWord)
  /-- CADD (R216). Raises a cruise counter by a weight with probabilistic steps. -/
  | cadd (f : LaneWord)
  /-- CRD (R218). Reads a cruise counter's level or estimate at its home slice. -/
  | crd (f : LaneWord)
  /-- CMRG (R217). Adds a source counter's estimate into a target counter atomically. -/
  | cmrg (f : LaneWord)
  /-- CSET (R218). Writes a cruise counter level, clamped to Lmax. -/
  | cset (f : LaneWord)
  /-- LBR (R157). Conditional lane branch that may divide the split. -/
  | lbr (f : LaneWord)
  /-- LJMP (R157). Moves the whole split to a PC-relative target. -/
  | ljmp (f : LaneWord)
  /-- LBRX (R157). Indirect lane branch dividing by target. -/
  | lbrx (f : LaneWord)
  /-- LCALLX (R157). Indirect lane call writing the return offset to V127. -/
  | lcallx (f : LaneWord)
  /-- LRET (R157). Returns each lane to the offset in its V127. -/
  | lret (f : LaneWord)
  /-- LRECONV (R159). Holds a split at its token and merges splits once no blocker remains. -/
  | lreconv (f : LaneWord)
  /-- LMELD (R162). Opens a melded region, loading a renaming table and snapshotting the path mask. -/
  | lmeld (f : LaneWord)
  /-- LMEND (R164). Closes the melded region and frees the meld state. -/
  | lmend (f : LaneWord)
  /-- LSTOP (R161). Marks the split STOPPED and combines stopped entries. -/
  | lstop (f : LaneWord)
  /-- LSPAWN (R165). Releases and creates one task per active lane counted in its wait frame. -/
  | lspawn (f : LaneWord)
  /-- LAWAIT (R166). Saves continuation state in the lane's wait frame and leaves the split. -/
  | lawait (f : LaneWord)
  /-- LEXIT (R167). Ends the task of each active lane. -/
  | lexit (f : LaneWord)
  /-- LTRAP (R168). Raises trap 0x0A when any lane is active. -/
  | ltrap (f : LaneWord)
  /-- LNOP (R168). Lane no-operation counted in lookahead windows. -/
  | lnop (f : LaneWord)
  /-- MMA (R177). Issues a matrix multiply-accumulate into a tile on the array for 8 clocks. -/
  | mma (f : LaneWord)
  /-- TZERO (R180). Writes +0 to the split's rows of a tile. -/
  | tzero (f : LaneWord)
  /-- TRD (R181). Reads one tile column into a V register. -/
  | trd (f : LaneWord)
  /-- TWR (R181). Writes one tile column from a V register. -/
  | twr (f : LaneWord)
  /-- TST (R183). Stores whole 512-byte tile rows to memory. -/
  | tst (f : LaneWord)
  /-- TLD (R183). Loads whole tile rows from memory. -/
  | tld (f : LaneWord)
  /-- TSCL (R182). Scales tile rows by a per-lane FP32 value. -/
  | tscl (f : LaneWord)
  /-- GBOX (R198). Tests a ray against every child of a box and orders the hits. -/
  | gbox (f : LaneWord)
  /-- GTRI (R199). Exact ray-triangle test writing a hit record. -/
  | gtri (f : LaneWord)
  /-- GDOWN (R193). Carries a ray or eye record exactly into a child frame. -/
  | gdown (f : LaneWord)
  /-- GTILE (R201). Computes 8x8 tile coverage of a triangle. -/
  | gtile (f : LaneWord)
  /-- GQNT (R202). Quantises FP32 local coordinates into a vertex word. -/
  | gqnt (f : LaneWord)
  /-- GUPD (R203). Moves one vertex by a root-unit delta and widens bounds. -/
  | gupd (f : LaneWord)
  /-- GREFIT (R204). Recomputes a box's occupancy bounds. -/
  | grefit (f : LaneWord)
  /-- GDESKEW (R205). Applies a scratchpad slice transform to a sensor point. -/
  | gdeskew (f : LaneWord)
  /-- GHIT (R200). Writes the better of two hit records. -/
  | ghit (f : LaneWord)
  /-- PAIR_WORD (R59). Issues two pairable lane halves together in one slot. -/
  | pairWord (raw : Bool) (h0 h1 : PairHalf)
  /-- ILLEGAL_SCALAR_WORD (R55). Executing an illegal scalar word raises trap 0x01 at the word's address. -/
  | illegalScalarWord (w : W32)
  /-- ILLEGAL_WORD (R60). An undefined lane word traps 0x01 at its lane PC when executed. -/
  | illegalWord
  /-- LOAD_LANDING (R62). A long-latency result lands as one whole-register write with its tag. -/
  | loadLanding
  /-- MMA_COMPLETE (R178). At the end of the eighth clock the MMA writes its rows and frees the array. -/
  | mmaComplete
  /-- STORE_ACK (R21). The last-level cache acknowledges a store or no-return operation and the store counter falls. -/
  | storeAck
  /-- BLAZE_MARKER (R240). A destination slice gathers a release's markers from every path and acknowledges. -/
  | blazeMarker
  /-- REPLICA_PROPAGATE (R241). A write at the home copy of a replicated page reaches the other dies' copies. -/
  | replicaPropagate
  /-- CORE_STAMP_WRAP (R228). An advance past 255 invalidates the L1 and resets every stamp to 0. -/
  | coreStampWrap
  /-- ENGINE_COMPLETION (R106). An engine operation completes, lowering its class counter and setting its handle or latch. -/
  | engineCompletion
  /-- LZ4C (R304). Transform request compressing SRC into one LZ4 block. -/
  | lz4c
  /-- LZ4D (R304). Transform request decoding an LZ4 block. -/
  | lz4d
  /-- REPACK (R304). Transform request converting an FP32 matrix into the FB4 arrays. -/
  | repack
  /-- CONVERT (R304). Transform request converting packed elements between types. -/
  | convert
  /-- FILL (R304). Transform request filling a range with a pattern, optionally rewriting line records. -/
  | fill
  /-- FLUSH (R304). Transform request writing back and dropping cached copies of a physical range. -/
  | flush
  /-- DIGEST (R304). Transform request writing a SHAKE256 digest of a range. -/
  | digest
  /-- TRANSFORM_REQUEST_COMPLETE (R305). A finished request posts its completion record by FPUT and advances CONS. -/
  | transformRequestComplete
  /-- ALLREDUCE (R306). Collective giving every DST the reduction of all contributions. -/
  | allreduce
  /-- REDUCESCATTER (R306). Collective giving rank r segment r of the reduction. -/
  | reducescatter
  /-- ALLGATHER (R306). Collective giving every DST every contribution in rank order. -/
  | allgather
  /-- BROADCAST (R306). Collective giving every DST the root's contribution. -/
  | broadcast
  /-- FLIT_RETRANSMIT (R308). A flit or beat that fails its CRC is retransmitted on its link. -/
  | flitRetransmit
  /-- LINK_FAILURE (R309). A failed link's unacknowledged packets and markers are resent on other paths in order. -/
  | linkFailure
  /-- FABRIC_TIMEOUT (R311). An unreachable device's accesses end with zeros, drops and error records. -/
  | fabricTimeout
  /-- PAGE_WALK (R261). A TLB miss walks the three-level page table at the point of coherence. -/
  | pageWalk
  /-- TRANSLATION_RESTART (R286). Firmware maps the page and the suspended instruction re-executes, or declines and delivers trap 0x04. -/
  | translationRestart
  /-- TRAP_TAKE (R287). Stops other streams, fills the trap frame and enters the handler at depth + 1. -/
  | trapTake
  /-- GROUP_END_IN_ERROR (R288). A halted group abandons its call, cancels and drains engines, releases resources and ends. -/
  | groupEndInError
  /-- EVENT_THRESHOLD (R53). An event count exceeding THRESH fires its action once and closes the window. -/
  | eventThreshold
  /-- EVENT_WINDOW_CLOSE (R25). An event window of WINDOW clocks closes and its count restarts. -/
  | eventWindowClose
  /-- TASK_END_REPORT (R167). A task's held end is reported to its parent frame, binning a continuation when a join reaches zero. -/
  | taskEndReport
  /-- TASK_GROUP_LAUNCH (R278). A full bin launches its records as a one-group task team on its core. -/
  | taskGroupLaunch
  /-- BIN_TIMER_EXPIRE (R278). A bin's timer expires and the bin launches a task group. -/
  | binTimerExpire
  /-- BIN_LAUNCH_TIMEOUT (R278). A launch that waited a further period moves the bin's records to the pool. -/
  | binLaunchTimeout
  /-- POOL_PULL (R279). A core with room takes the oldest pool record and same-entry records as a task group. -/
  | poolPull
  /-- TEAM_ADMIT (R273). A waiting team is admitted to a core with room and scratchpad banks. -/
  | teamAdmit
  /-- TEAM_RESIDENCY (R282). A ready team is granted slots, base blocks and tiles in priority order. -/
  | teamResidency
  /-- TEAM_PARK (R28). A blocked team drains and its state is saved to its park region. -/
  | teamPark
  /-- TEAM_UNPARK (R29). A parked team's state is restored on its core as an acquire. -/
  | teamUnpark
  /-- PARKT_EXPIRE (R281). A WAITC or WAITH waiting longer than PARKT makes its team parkable. -/
  | parktExpire
  /-- PRIORITY_AGE (R282). Each AGE clocks a ready team's effective priority rises by one, capped at 7. -/
  | priorityAge
  /-- TIME_SLICE_EXPIRE (R284). A context's slice expires and its resident teams are parked for the next context. -/
  | timeSliceExpire
  /-- DOORBELL (R321). A host doorbell write gives the count of packets written to a queue, or stops it. -/
  | doorbell
  /-- LAUNCH (R322). A launch packet is checked and launches a grid. -/
  | launch
  /-- GRID_COMPLETION (R323). When a grid's last team ends its completion record is FPUT to DONE and MSI-X raised. -/
  | gridCompletion
  /-- CONTEXT_CREATE (R325). A mailbox command creates a context and returns CTXID or a status. -/
  | contextCreate
  /-- QUEUE_PRIORITY_CHANGE (R271). Firmware changes a queue's priority for undistributed and parked teams. -/
  | queuePriorityChange
  /-- CODE_OBJECT_LOAD (R66). Firmware checks a code object header and maps its sections into a context. -/
  | codeObjectLoad
  /-- BANK_TABLE_APPLY (R332). Firmware applies a code object's bank table on a core once no team is admitted there. -/
  | bankTableApply
  /-- SHADOW_REGION_CLEAR (R317). Firmware clears the conflict-detection shadow region at creation and before instance numbers wrap. -/
  | shadowRegionClear
  /-- DEVICE_RESET (R326). Destroys every context, completes DONE words with STATUS 3 and runs the boot ROM. -/
  | deviceReset
  /-- CONTEXT_RESET (R326). Halts a context's teams, cancels its engine work and completes unlaunched packets. -/
  | contextReset
  /-- TELEMETRY (R326). Returns temperatures, power, clocks and error counts. -/
  | telemetry
  /-- FIRMWARE_LOAD (R326). Offers a firmware image to the boot ROM over the management port. -/
  | firmwareLoad
  /-- ATTEST (R330). Returns the measurement register and nonce signed with the device key. -/
  | attest
  /-- BOOT_ROM_START (R328). The boot ROM verifies, measures and starts the stored image or waits for one. -/
  | bootRomStart
  /-- IMAGE_OFFER (R328). An image from the host mailbox or NVMe/TCP is verified, stored and started or discarded. -/
  | imageOffer
  /-- RAISE_SECURITY_FLOOR (R329). Firmware raises the fused security version floor by command. -/
  | raiseSecurityFloor
  /-- POWER_LIMIT (R327). Module power above 2,400 W over 1 ms steps core clocks down. -/
  | powerLimit
  /-- JUNCTION_THROTTLE (R327). A junction above 105 C steps clocks down on the hot die. -/
  | junctionThrottle
  /-- THERMAL_TRIP (R327). A junction above 115 C stops every core and raises an alert. -/
  | thermalTrip
  /-- HOST_MEMORY_ACCESS (R324). A host read or write of device memory over PCIe through BAR2, or a CXL.mem write, is performed at the point of coherence. -/
  | hostMemoryAccess
  /-- PEER_PAGE_ACCESS (R242). An access, atomic, cruise or future operation from another device arrives over the fabric and is performed at this device's home slice. -/
  | peerPageAccess
  /-- POOL_GROW (R276). Firmware grows the context's frame pool or task pool, letting a spawn that waited for a free frame or record proceed. -/
  | poolGrow
  /-- POWER_LOSS (R328). Loss of power stops the device, and loss while the firmware store is being written leaves an image that fails verification. -/
  | powerLoss
  deriving DecidableEq, Repr

end Sys2Proof
end

