-- ==== Sys2Proof/Machine/Legal.lean ====
section
/-! DEFINITION. Which fields, immediates and modifiers each lane opcode takes, and so which lane words and pair words
are legal (03 R56, R57, R59 to R61; 05 R77 to R82; 07 R120, R130; 09 R175, R183; 10 R190). -/

namespace Sys2Proof.Machine

/-- What an operand field of a lane opcode may hold (05 R77; 03 R57). -/
inductive Fld where
  | zero                     -- unused: must be zero (R56)
  | src                      -- any source code of R57
  | dst                      -- any destination code of R57
  | zeroReg                  -- the code 0x244 (R123)
  | mask                     -- a mask number 0 to 15
  | token                    -- a token 0 to 1023
  | splitToken               -- VLD: a token under .sm, otherwise zero (R145)
  | base                     -- a scalar code, or a V or L pair (R142)
  | scalar                   -- a scalar code only
  | range (n align : Nat)    -- n consecutive V registers from a multiple of align (R120)
  | tile                     -- T0 to T3
  | mmaScale                 -- MMA's b: 8 V registers under .fb4, otherwise zero (R175)
  | mmaBand                  -- MMA's c: a scalar code under .fb4, otherwise zero (R175)
  deriving DecidableEq, Repr

/-- What imm31 of a lane opcode may hold (05 R77, R78). -/
inductive ImmKind where
  | none                     -- zero
  | any
  | below (n : Nat)          -- a plain number below n
  | viaB                     -- zero, unless b is 0x244 (R78)
  | cvt                      -- the two type codes (R80, R130)
  | vdec                     -- form and width (R135)
  | reduce                   -- a rounding code under .add.f32, otherwise zero (R78)
  | mma                      -- the B-store address (R175)
  deriving DecidableEq, Repr

/-- Which MOD values a lane opcode defines (05 R78). -/
inductive ModKind where
  | upto (n : Nat)           -- 0 to n
  | flagged (n : Nat)        -- [3:0] 0 to n, [4] free
  | packed                   -- [0] format, [3:1] rounding code 0 to 4
  | noReturn                 -- VATOMN: 0 to 10 less 8 and 9
  | matrix                   -- MMA: [2:0] 0 to 4, [3] with .i8 only
  deriving DecidableEq, Repr

/-- The encoding row of one lane opcode: fields, immediate, MOD, whether a predicate and a lookahead are legal,
and whether it is a cross-lane instruction, which names no L operand (07 R121). -/
structure OpRow where
  d : Fld
  a : Fld
  b : Fld
  c : Fld
  imm : ImmKind
  mod : ModKind
  pred : Bool
  la : Bool
  cross : Bool
  deriving DecidableEq, Repr

/-- The V codes (03 R57). -/
def isV (n : Nat) : Bool := n < 0x200
/-- The L codes (03 R57). -/
def isL (n : Nat) : Bool := 0x200 ≤ n && n ≤ 0x23F
/-- The tile codes (03 R57). -/
def isT (n : Nat) : Bool := 0x300 ≤ n && n ≤ 0x303
/-- The scalar codes (03 R57). -/
def isS (n : Nat) : Bool := 0x400 ≤ n && n ≤ 0x7FF
/-- The codes R57 allows as a source of an instruction that is no matrix instruction. -/
def srcCode (n : Nat) : Bool := n ≤ 0x244 || isS n
/-- The codes R57 allows as a destination of an instruction that is no matrix instruction. -/
def dstCode (n : Nat) : Bool := n ≤ 0x23F || (0x700 ≤ n && n ≤ 0x7FF)

/-- Whether a field holds a legal code, given MOD. -/
def Fld.ok (mod : Nat) : Fld → Nat → Bool
  | .zero, n => n == 0
  | .src, n => srcCode n
  | .dst, n => dstCode n
  | .zeroReg, n => n == 0x244
  | .mask, n => n ≤ 15
  | .token, n => n ≤ 1023
  | .splitToken, n => if 16 ≤ mod then n ≤ 1023 else n == 0
  | .base, n => isS n || n < 0x1FF || (0x200 ≤ n && n < 0x23F)
  | .scalar, n => isS n
  | .range k al, n => n % al == 0 && n + k ≤ 0x200
  | .tile, n => isT n
  | .mmaScale, n => if mod % 8 == 0 then n + 8 ≤ 0x200 else n == 0
  | .mmaBand, n => if mod % 8 == 0 then isS n else n == 0

/-- Whether MOD is a value the table gives (05 R78). -/
def ModKind.ok : ModKind → Nat → Bool
  | .upto k, m => m ≤ k
  | .flagged k, m => m % 16 ≤ k
  | .packed, m => m < 16 && m / 2 ≤ 4
  | .noReturn, m => m ≤ 10 && m != 8 && m != 9
  | .matrix, m => m < 16 && m % 8 ≤ 4 && (m < 8 || m == 11)

/-- The rows of R130: for a pair of types (source, destination), the largest rounding code and whether .sat is taken. -/
def cvtRow (src dst : Nat) : Option (Nat × Bool) :=
  match src, dst with
  | 4, 2 => some (0, false) | 3, 2 => some (0, false) | 5, 2 => some (0, false)
  | 6, 2 => some (0, false) | 7, 2 => some (0, false)
  | 5, 4 => some (0, false) | 6, 4 => some (0, false) | 7, 4 => some (0, false)
  | 5, 3 => some (0, false) | 6, 3 => some (0, false) | 7, 3 => some (0, false)
  | 2, 4 => some (4, true)
  | 2, 3 => some (1, true) | 2, 5 => some (1, true) | 2, 6 => some (1, true)
  | 2, 7 => some (1, false)
  | 2, 0 => some (4, false) | 4, 0 => some (4, false) | 3, 0 => some (4, false)
  | 2, 1 => some (4, false) | 4, 1 => some (4, false) | 3, 1 => some (4, false)
  | 0, 2 => some (4, false) | 1, 2 => some (4, false)
  | 0, 8 => some (0, true) | 1, 9 => some (0, true)
  | _, _ => none

/-- Whether the type pair, the rounding code and .sat of a CVT are a row of R130. -/
def cvtOk (imm mod : Nat) : Bool :=
  imm < 256 &&
  match cvtRow (imm % 16) (imm / 16) with
  | some (r, sat) => mod % 8 ≤ r && (mod < 8 || sat)
  | none => false

/-- Whether imm31 is legal, given MOD and b. The immediate is read as an unsigned number of 31 bits. -/
def ImmKind.ok (mod b : Nat) : ImmKind → Nat → Bool
  | .none, i => i == 0
  | .any, _ => true
  | .below n, i => i < n
  | .viaB, i => i == 0 || b == 0x244
  | .cvt, i => cvtOk i mod
  | .vdec, i => i < 128 && i % 4 != 3 && (i % 4 != 2 || i / 4 == 0)
  | .reduce, i => if mod % 16 == 1 then i ≤ 4 else i == 0
  | .mma, i => i ≤ (if mod % 8 == 0 then 32688 else 32704)

/-- The encoding rows of the lane opcodes (05 R75, R77, R78). KMOV's a ('V for KMOV') and the d of KPOP and KFFS ('V result')
take every source or destination code of 03 R57, and the one register that is the d of GUPD or GREFIT takes the V codes
alone, as 10 R190 says of register ranges (DESIGN CHOICE). -/
def laneRow : Nat → Option OpRow
  | 0x01 => some ⟨.dst, .src, .src, .zero, .viaB, .upto 2, true, false, false⟩  -- VADD
  | 0x02 => some ⟨.dst, .src, .src, .zero, .viaB, .upto 2, true, false, false⟩  -- VSUB
  | 0x03 => some ⟨.dst, .src, .src, .zero, .viaB, .upto 2, true, false, false⟩  -- VMUL
  | 0x04 => some ⟨.dst, .src, .src, .zero, .viaB, .upto 0, true, false, false⟩  -- VMULH
  | 0x05 => some ⟨.dst, .src, .src, .zero, .viaB, .upto 0, true, false, false⟩  -- VMULHU
  | 0x06 => some ⟨.dst, .src, .src, .src, .viaB, .upto 2, true, false, false⟩  -- VMAD
  | 0x07 => some ⟨.dst, .src, .src, .zero, .viaB, .upto 2, true, false, false⟩  -- VABSD
  | 0x08 => some ⟨.dst, .src, .src, .zero, .viaB, .upto 0, true, false, false⟩  -- VAND
  | 0x09 => some ⟨.dst, .src, .src, .zero, .viaB, .upto 0, true, false, false⟩  -- VOR
  | 0x0A => some ⟨.dst, .src, .src, .zero, .viaB, .upto 0, true, false, false⟩  -- VXOR
  | 0x0B => some ⟨.dst, .src, .src, .zero, .viaB, .upto 0, true, false, false⟩  -- VANDN
  | 0x0C => some ⟨.dst, .src, .src, .zero, .viaB, .upto 0, true, false, false⟩  -- VSHL
  | 0x0D => some ⟨.dst, .src, .src, .zero, .viaB, .upto 0, true, false, false⟩  -- VSHR
  | 0x0E => some ⟨.dst, .src, .src, .zero, .viaB, .upto 0, true, false, false⟩  -- VSRA
  | 0x0F => some ⟨.dst, .src, .src, .zero, .viaB, .upto 0, true, false, false⟩  -- VROR
  | 0x10 => some ⟨.dst, .src, .src, .zero, .viaB, .upto 0, true, false, false⟩  -- VMIN
  | 0x11 => some ⟨.dst, .src, .src, .zero, .viaB, .upto 0, true, false, false⟩  -- VMAX
  | 0x12 => some ⟨.dst, .src, .src, .zero, .viaB, .upto 0, true, false, false⟩  -- VMINU
  | 0x13 => some ⟨.dst, .src, .src, .zero, .viaB, .upto 0, true, false, false⟩  -- VMAXU
  | 0x14 => some ⟨.dst, .src, .zero, .zero, .none, .upto 0, true, false, false⟩  -- VCLZ
  | 0x15 => some ⟨.dst, .src, .zero, .zero, .none, .upto 0, true, false, false⟩  -- VPOP
  | 0x16 => some ⟨.dst, .src, .zero, .zero, .none, .upto 0, true, false, false⟩  -- VBREV
  | 0x17 => some ⟨.dst, .src, .zero, .zero, .below 1024, .upto 1, true, false, false⟩  -- VBFX
  | 0x18 => some ⟨.dst, .src, .zeroReg, .src, .below 1024, .upto 0, true, false, false⟩  -- VBFI
  | 0x19 => some ⟨.dst, .src, .src, .src, .viaB, .upto 0, true, false, false⟩  -- VSEL
  | 0x1A => some ⟨.dst, .src, .src, .zero, .viaB, .upto 9, true, false, false⟩  -- VCMP
  | 0x1B => some ⟨.dst, .src, .zero, .zero, .none, .upto 0, true, false, false⟩  -- VMOV
  | 0x1C => some ⟨.dst, .zero, .zero, .zero, .any, .upto 0, true, false, false⟩  -- VMOVI
  | 0x1D => some ⟨.dst, .src, .src, .zero, .viaB, .upto 0, true, false, false⟩  -- VADDC
  | 0x1E => some ⟨.dst, .src, .src, .zero, .viaB, .upto 0, true, false, false⟩  -- VDIV
  | 0x1F => some ⟨.dst, .src, .src, .zero, .viaB, .upto 0, true, false, false⟩  -- VREM
  | 0x20 => some ⟨.dst, .src, .src, .zero, .none, .upto 4, true, false, false⟩  -- FADD
  | 0x21 => some ⟨.dst, .src, .src, .zero, .none, .upto 4, true, false, false⟩  -- FSUB
  | 0x22 => some ⟨.dst, .src, .src, .zero, .none, .upto 4, true, false, false⟩  -- FMUL
  | 0x23 => some ⟨.dst, .src, .src, .src, .none, .upto 4, true, false, false⟩  -- FFMA
  | 0x24 => some ⟨.dst, .src, .src, .zero, .none, .upto 0, true, false, false⟩  -- FMIN
  | 0x25 => some ⟨.dst, .src, .src, .zero, .none, .upto 0, true, false, false⟩  -- FMAX
  | 0x26 => some ⟨.dst, .src, .src, .zero, .none, .upto 7, true, false, false⟩  -- FCMP
  | 0x27 => some ⟨.dst, .src, .zero, .zero, .none, .upto 4, true, false, false⟩  -- FRND
  | 0x28 => some ⟨.dst, .src, .zero, .zero, .none, .upto 0, true, false, false⟩  -- FRCP
  | 0x29 => some ⟨.dst, .src, .zero, .zero, .none, .upto 0, true, false, false⟩  -- FRSQ
  | 0x2A => some ⟨.dst, .src, .zero, .zero, .none, .upto 4, true, false, false⟩  -- FSQRT
  | 0x2B => some ⟨.dst, .src, .zero, .zero, .none, .upto 0, true, false, false⟩  -- FEXP2
  | 0x2C => some ⟨.dst, .src, .zero, .zero, .none, .upto 0, true, false, false⟩  -- FLOG2
  | 0x2D => some ⟨.dst, .src, .zero, .zero, .none, .upto 0, true, false, false⟩  -- FSIN
  | 0x2E => some ⟨.dst, .src, .zero, .zero, .none, .upto 0, true, false, false⟩  -- FCOS
  | 0x2F => some ⟨.dst, .src, .zero, .zero, .none, .upto 0, true, false, false⟩  -- FCLASS
  | 0x30 => some ⟨.dst, .src, .src, .zero, .none, .packed, true, false, false⟩  -- HADD2
  | 0x31 => some ⟨.dst, .src, .src, .zero, .none, .packed, true, false, false⟩  -- HMUL2
  | 0x32 => some ⟨.dst, .src, .src, .src, .none, .packed, true, false, false⟩  -- HFMA2
  | 0x33 => some ⟨.dst, .src, .src, .src, .none, .packed, true, false, false⟩  -- QDOT4
  | 0x34 => some ⟨.dst, .src, .src, .src, .none, .upto 3, true, false, false⟩  -- IDOT4
  | 0x35 => some ⟨.dst, .src, .zero, .zero, .cvt, .upto 15, true, false, false⟩  -- CVT
  | 0x36 => some ⟨.dst, (.range 8 1), .dst, .zero, .none, .upto 0, true, false, false⟩  -- QBLK
  | 0x37 => some ⟨(.range 8 1), .src, .src, .zero, .none, .upto 0, true, false, false⟩  -- UNBLK
  | 0x38 => some ⟨.dst, .src, .src, .zero, .none, .upto 4, true, false, false⟩  -- FDIV
  | 0x39 => some ⟨.zero, (.range 2 1), (.range 2 1), (.range 1 1), .none, .upto 0, true, false, false⟩  -- VCOPY
  | 0x3A => some ⟨.dst, .src, .src, .src, .below 4, .upto 0, true, false, false⟩  -- VRAND
  | 0x3B => some ⟨(.range 2 1), .scalar, .src, .src, .vdec, .upto 0, true, true, false⟩  -- VDEC
  | 0x40 => some ⟨.dst, .src, .src, .zero, .none, .upto 0, true, false, true⟩  -- VSHFL
  | 0x41 => some ⟨.dst, .src, .src, .zero, .none, .upto 0, true, false, true⟩  -- VSHUP
  | 0x42 => some ⟨.dst, .src, .src, .zero, .none, .upto 0, true, false, true⟩  -- VSHDN
  | 0x43 => some ⟨.dst, .src, .src, .zero, .none, .upto 0, true, false, true⟩  -- VSHX
  | 0x44 => some ⟨.dst, .src, .zero, .zero, .none, .upto 0, true, false, true⟩  -- VBCAST
  | 0x45 => some ⟨.dst, .src, .zero, .zero, .none, .upto 3, true, false, true⟩  -- VVOTE
  | 0x46 => some ⟨.dst, .src, .zero, .zero, .none, .upto 0, true, false, true⟩  -- VMATCH
  | 0x47 => some ⟨.dst, .src, .zero, .zero, .reduce, .upto 10, true, false, true⟩  -- VRED
  | 0x48 => some ⟨.dst, .src, .zero, .zero, .reduce, (.flagged 10), true, false, true⟩  -- VSCAN
  | 0x49 => some ⟨.dst, .src, .src, .zero, .none, .upto 0, true, false, true⟩  -- VSAMPLE
  | 0x50 => some ⟨.mask, .mask, .mask, .zero, .none, .upto 0, false, false, false⟩  -- KAND
  | 0x51 => some ⟨.mask, .mask, .mask, .zero, .none, .upto 0, false, false, false⟩  -- KOR
  | 0x52 => some ⟨.mask, .mask, .mask, .zero, .none, .upto 0, false, false, false⟩  -- KXOR
  | 0x53 => some ⟨.mask, .mask, .zero, .zero, .none, .upto 0, false, false, false⟩  -- KNOT
  | 0x54 => some ⟨.mask, .src, .zero, .zero, .none, .upto 0, false, false, false⟩  -- KMOV
  | 0x55 => some ⟨.dst, .mask, .zero, .zero, .none, .upto 0, false, false, false⟩  -- KPOP
  | 0x56 => some ⟨.dst, .mask, .zero, .zero, .none, .upto 0, false, false, false⟩  -- KFFS
  | 0x57 => some ⟨.dst, .src, .src, .zero, .none, .upto 0, true, false, true⟩  -- VEXT
  | 0x58 => some ⟨.dst, .src, .src, .zero, .none, .upto 0, true, false, true⟩  -- VINS
  | 0x60 => some ⟨.dst, .base, .src, .splitToken, .any, (.flagged 12), true, true, false⟩  -- VLD
  | 0x61 => some ⟨.zero, .base, .src, .src, .any, .upto 12, true, false, false⟩  -- VST
  | 0x62 => some ⟨.dst, .src, .src, .zero, .any, (.flagged 12), true, true, false⟩  -- VLDS
  | 0x63 => some ⟨.zero, .src, .src, .src, .any, (.flagged 12), true, false, false⟩  -- VSTS
  | 0x64 => some ⟨.dst, .base, .src, .src, .any, .upto 10, true, true, false⟩  -- VATOM
  | 0x65 => some ⟨.zero, .base, .src, .src, .any, .noReturn, true, false, false⟩  -- VATOMN
  | 0x66 => some ⟨.dst, .src, .src, .src, .any, (.flagged 10), true, true, false⟩  -- VATOMS
  | 0x67 => some ⟨.zero, .base, .src, .zero, .any, .upto 0, true, false, false⟩  -- VPREF
  | 0x68 => some ⟨.zero, .scalar, .src, .src, .none, .upto 1, true, false, false⟩  -- CADD
  | 0x69 => some ⟨.dst, .scalar, .src, .zero, .none, .upto 1, true, true, false⟩  -- CRD
  | 0x6A => some ⟨.zero, .scalar, .src, .src, .none, .upto 0, true, false, false⟩  -- CMRG
  | 0x6B => some ⟨.zero, .scalar, .src, .src, .none, .upto 0, true, false, false⟩  -- CSET
  | 0x70 => some ⟨.zero, .src, .zero, .token, .any, .upto 1, false, false, false⟩  -- LBR
  | 0x71 => some ⟨.zero, .zero, .zero, .zero, .any, .upto 0, false, false, false⟩  -- LJMP
  | 0x72 => some ⟨.zero, .src, .zero, .token, .none, .upto 1, false, false, false⟩  -- LBRX
  | 0x73 => some ⟨.zero, .src, .zero, .token, .none, .upto 1, false, false, false⟩  -- LCALLX
  | 0x74 => some ⟨.zero, .zero, .zero, .zero, .none, .upto 0, false, false, false⟩  -- LRET
  | 0x75 => some ⟨.zero, .zero, .zero, .zero, .below 1024, .upto 0, false, false, false⟩  -- LRECONV
  | 0x76 => some ⟨.zero, .scalar, .zero, .zero, .none, .upto 0, true, false, false⟩  -- LMELD
  | 0x77 => some ⟨.zero, .zero, .zero, .zero, .none, .upto 0, false, false, false⟩  -- LMEND
  | 0x78 => some ⟨.zero, .zero, .zero, .zero, .none, .upto 0, false, false, false⟩  -- LSTOP
  | 0x79 => some ⟨.zero, .scalar, .src, .src, .none, .upto 0, true, false, false⟩  -- LSPAWN
  | 0x7A => some ⟨.zero, .zero, .zero, .zero, .none, .upto 0, false, false, false⟩  -- LAWAIT
  | 0x7B => some ⟨.zero, .zero, .zero, .zero, .none, .upto 0, true, false, false⟩  -- LEXIT
  | 0x7C => some ⟨.zero, .zero, .zero, .zero, .below 256, .upto 0, true, false, false⟩  -- LTRAP
  | 0x7D => some ⟨.zero, .zero, .zero, .zero, .none, .upto 0, false, false, false⟩  -- LNOP
  | 0x80 => some ⟨.tile, (.range 32 1), .mmaScale, .mmaBand, .mma, .matrix, true, false, false⟩  -- MMA
  | 0x81 => some ⟨.tile, .zero, .zero, .zero, .none, .upto 1, false, false, false⟩  -- TZERO
  | 0x82 => some ⟨(.range 1 1), .tile, .src, .zero, .none, .upto 0, true, true, false⟩  -- TRD
  | 0x83 => some ⟨.tile, .src, .src, .zero, .none, .upto 1, true, false, false⟩  -- TWR
  | 0x84 => some ⟨.tile, .scalar, .src, .zero, .any, .upto 1, false, false, false⟩  -- TST
  | 0x85 => some ⟨.tile, .scalar, .src, .zero, .any, .upto 1, false, false, false⟩  -- TLD
  | 0x86 => some ⟨.tile, .tile, .src, .zero, .none, .upto 4, true, false, false⟩  -- TSCL
  | 0x90 => some ⟨(.range 4 1), (.range 16 16), .base, .zero, .none, .upto 0, true, true, false⟩  -- GBOX
  | 0x91 => some ⟨(.range 6 1), (.range 16 16), (.range 4 1), .zero, .none, .upto 0, true, true, false⟩  -- GTRI
  | 0x92 => some ⟨(.range 17 16), (.range 16 16), .base, .zero, .none, .upto 0, true, false, false⟩  -- GDOWN
  | 0x93 => some ⟨(.range 3 1), (.range 16 16), (.range 9 1), (.range 4 1), .none, .upto 0, true, false, false⟩  -- GTILE
  | 0x94 => some ⟨(.range 2 1), (.range 3 1), .zero, .zero, .none, .upto 0, true, false, false⟩  -- GQNT
  | 0x95 => some ⟨(.range 1 1), (.range 4 1), (.range 3 1), .src, .none, .upto 0, true, false, false⟩  -- GUPD
  | 0x96 => some ⟨(.range 1 1), .base, .zero, .zero, .none, .upto 0, true, false, false⟩  -- GREFIT
  | 0x97 => some ⟨(.range 3 1), (.range 3 1), .src, .zero, .none, .upto 0, true, false, false⟩  -- GDESKEW
  | 0x98 => some ⟨(.range 6 1), (.range 6 1), (.range 6 1), .zero, .none, .upto 0, true, false, false⟩  -- GHIT
  | _ => none

/-- Whether the internal word of opcode `op` with fields `f` is a defined single instruction (03 R60). -/
def laneLegal (op : Nat) (f : LaneWord) : Bool :=
  match laneRow op with
  | none => false
  | some r =>
    let m := f.mod.toNat
    (r.la || f.la == 0) && (r.pred || f.pred == 0) && r.mod.ok m &&
    r.d.ok m f.d.toNat && r.a.ok m f.a.toNat && r.b.ok m f.b.toNat && r.c.ok m f.c.toNat &&
    r.imm.ok m f.b.toNat f.imm.toNat &&
    !(r.cross && (isL f.d.toNat || isL f.a.toNat || isL f.b.toNat))

/-- Whether the byte form can carry the fields (03 R58). -/
def formFits (op : Nat) (f : LaneWord) : Bool :=
  match f.form with
  | .short => op < 0x80 && f.la == 0 && f.pred == 0 && f.mod == 0 && f.c == 0 && f.imm == 0 &&
      f.d.toNat < 256 && f.a.toNat < 256 && f.b.toNat < 256
  | .f80 => f.c == 0 && f.imm == 0
  | .f81 => f.b == 0 && f.c == 0 && (f.imm.extractLsb' 0 13).signExtend 31 == f.imm
  | .f82 => (f.imm.extractLsb' 0 23).signExtend 31 == f.imm
  | .f83 => true

/-- The pairable set of R59 and R82. -/
def pairable (op : Nat) : Bool :=
  (1 ≤ op && op ≤ 0x1D && op != 7) || (0x20 ≤ op && op ≤ 0x27) || (0x30 ≤ op && op ≤ 0x32)

/-- Whether a half reads b9 as its immediate (03 R59). -/
def immHalf (op : Nat) : Bool := op == 0x17 || op == 0x18 || op == 0x1C

/-- Whether the single form of a pairable opcode reads c, so that the half reads its old d (03 R59). -/
def readsC (op : Nat) : Bool := op == 0x06 || op == 0x18 || op == 0x19 || op == 0x23 || op == 0x32

/-- The single form whose effect a half has: c is the half's own d where the single form reads c, and b9 is the
immediate of VMOVI, VBFX and VBFI (03 R59). -/
def halfSingle (h : PairHalf) : LaneWord :=
  let op := h.op.toNat
  { form := .f83, la := 0, pred := 0, mod := h.mod.zeroExtend 5,
    d := h.d.zeroExtend 11, a := h.a.zeroExtend 11,
    b := if immHalf op then (if op == 0x18 then 0x244 else 0) else h.b.zeroExtend 11,
    c := if readsC op then h.d.zeroExtend 11 else 0,
    imm := if immHalf op then h.b.signExtend 31 else 0 }

/-- The V registers a half reads, d included where it is read as c (03 R59). -/
def halfReads (h : PairHalf) : List Nat :=
  let op := h.op.toNat
  (if op == 0x1C then [] else [h.a.toNat]) ++
  (if immHalf op then [] else
    match laneRow op with
    | some r => if r.b == .src then [h.b.toNat] else []
    | none => []) ++
  (if readsC op then [h.d.toNat] else [])

/-- Whether two halves make a legal pair (03 R59, conditions 1 to 4 and 6; condition 5 is the decoder's). -/
def pairLegal (h0 h1 : PairHalf) : Bool :=
  let rs := (halfReads h0 ++ halfReads h1).eraseDups
  pairable h0.op.toNat && pairable h1.op.toNat &&
  rs.length ≤ 3 &&
  (List.range 4).all (fun k => (rs.filter (fun r => r % 4 == k)).length ≤ 2) &&
  h0.d.toNat % 4 != h1.d.toNat % 4 &&
  laneLegal h0.op.toNat (halfSingle h0) && laneLegal h1.op.toNat (halfSingle h1)

end Sys2Proof.Machine
end

