-- ==== Sys2Proof/WellFormed.lean ====
section
/-! DEFINITION. Which instructions are well formed: scalar numbers within the ranges of 06 R110 to R112 and R107, lane
words legal under 03 R60 in a byte form that can carry them (R58). -/

namespace Sys2Proof

open Sys2Proof.Machine

/-- The check of each instruction. A step of the table that has no encoding holds nothing to
check. -/
def Instr.wf : Instr → Bool
  | .gath _ _ _ sc _ => sc.toNat ≤ 61
  | .scat _ _ _ sc _ => sc.toNat ≤ 61
  | .vacq n => n != 0
  | .tacq n => n != 0 && n.toNat ≤ 4
  | .trel n => n.toNat ≤ 4
  | .pairWord _ h0 h1 => pairLegal h0 h1
  | .vadd f => laneLegal 0x01 f && formFits 0x01 f
  | .vsub f => laneLegal 0x02 f && formFits 0x02 f
  | .vmul f => laneLegal 0x03 f && formFits 0x03 f
  | .vmulh f => laneLegal 0x04 f && formFits 0x04 f
  | .vmulhu f => laneLegal 0x05 f && formFits 0x05 f
  | .vmad f => laneLegal 0x06 f && formFits 0x06 f
  | .vabsd f => laneLegal 0x07 f && formFits 0x07 f
  | .vand f => laneLegal 0x08 f && formFits 0x08 f
  | .vor f => laneLegal 0x09 f && formFits 0x09 f
  | .vxor f => laneLegal 0x0A f && formFits 0x0A f
  | .vandn f => laneLegal 0x0B f && formFits 0x0B f
  | .vshl f => laneLegal 0x0C f && formFits 0x0C f
  | .vshr f => laneLegal 0x0D f && formFits 0x0D f
  | .vsra f => laneLegal 0x0E f && formFits 0x0E f
  | .vror f => laneLegal 0x0F f && formFits 0x0F f
  | .vmin f => laneLegal 0x10 f && formFits 0x10 f
  | .vmax f => laneLegal 0x11 f && formFits 0x11 f
  | .vminu f => laneLegal 0x12 f && formFits 0x12 f
  | .vmaxu f => laneLegal 0x13 f && formFits 0x13 f
  | .vclz f => laneLegal 0x14 f && formFits 0x14 f
  | .vpop f => laneLegal 0x15 f && formFits 0x15 f
  | .vbrev f => laneLegal 0x16 f && formFits 0x16 f
  | .vbfx f => laneLegal 0x17 f && formFits 0x17 f
  | .vbfi f => laneLegal 0x18 f && formFits 0x18 f
  | .vsel f => laneLegal 0x19 f && formFits 0x19 f
  | .vcmp f => laneLegal 0x1A f && formFits 0x1A f
  | .vmov f => laneLegal 0x1B f && formFits 0x1B f
  | .vmovi f => laneLegal 0x1C f && formFits 0x1C f
  | .vaddc f => laneLegal 0x1D f && formFits 0x1D f
  | .vdiv f => laneLegal 0x1E f && formFits 0x1E f
  | .vrem f => laneLegal 0x1F f && formFits 0x1F f
  | .fadd f => laneLegal 0x20 f && formFits 0x20 f
  | .fsub f => laneLegal 0x21 f && formFits 0x21 f
  | .fmul f => laneLegal 0x22 f && formFits 0x22 f
  | .ffma f => laneLegal 0x23 f && formFits 0x23 f
  | .fmin f => laneLegal 0x24 f && formFits 0x24 f
  | .fmax f => laneLegal 0x25 f && formFits 0x25 f
  | .fcmp f => laneLegal 0x26 f && formFits 0x26 f
  | .frnd f => laneLegal 0x27 f && formFits 0x27 f
  | .frcp f => laneLegal 0x28 f && formFits 0x28 f
  | .frsq f => laneLegal 0x29 f && formFits 0x29 f
  | .fsqrt f => laneLegal 0x2A f && formFits 0x2A f
  | .fexp2 f => laneLegal 0x2B f && formFits 0x2B f
  | .flog2 f => laneLegal 0x2C f && formFits 0x2C f
  | .fsin f => laneLegal 0x2D f && formFits 0x2D f
  | .fcos f => laneLegal 0x2E f && formFits 0x2E f
  | .fclass f => laneLegal 0x2F f && formFits 0x2F f
  | .hadd2 f => laneLegal 0x30 f && formFits 0x30 f
  | .hmul2 f => laneLegal 0x31 f && formFits 0x31 f
  | .hfma2 f => laneLegal 0x32 f && formFits 0x32 f
  | .qdot4 f => laneLegal 0x33 f && formFits 0x33 f
  | .idot4 f => laneLegal 0x34 f && formFits 0x34 f
  | .cvt f => laneLegal 0x35 f && formFits 0x35 f
  | .qblk f => laneLegal 0x36 f && formFits 0x36 f
  | .unblk f => laneLegal 0x37 f && formFits 0x37 f
  | .fdiv f => laneLegal 0x38 f && formFits 0x38 f
  | .vcopy f => laneLegal 0x39 f && formFits 0x39 f
  | .vrand f => laneLegal 0x3A f && formFits 0x3A f
  | .vdec f => laneLegal 0x3B f && formFits 0x3B f
  | .vshfl f => laneLegal 0x40 f && formFits 0x40 f
  | .vshup f => laneLegal 0x41 f && formFits 0x41 f
  | .vshdn f => laneLegal 0x42 f && formFits 0x42 f
  | .vshx f => laneLegal 0x43 f && formFits 0x43 f
  | .vbcast f => laneLegal 0x44 f && formFits 0x44 f
  | .vvote f => laneLegal 0x45 f && formFits 0x45 f
  | .vmatch f => laneLegal 0x46 f && formFits 0x46 f
  | .vred f => laneLegal 0x47 f && formFits 0x47 f
  | .vscan f => laneLegal 0x48 f && formFits 0x48 f
  | .vsample f => laneLegal 0x49 f && formFits 0x49 f
  | .kand f => laneLegal 0x50 f && formFits 0x50 f
  | .kor f => laneLegal 0x51 f && formFits 0x51 f
  | .kxor f => laneLegal 0x52 f && formFits 0x52 f
  | .knot f => laneLegal 0x53 f && formFits 0x53 f
  | .kmov f => laneLegal 0x54 f && formFits 0x54 f
  | .kpop f => laneLegal 0x55 f && formFits 0x55 f
  | .kffs f => laneLegal 0x56 f && formFits 0x56 f
  | .vext f => laneLegal 0x57 f && formFits 0x57 f
  | .vins f => laneLegal 0x58 f && formFits 0x58 f
  | .vld f => laneLegal 0x60 f && formFits 0x60 f
  | .vst f => laneLegal 0x61 f && formFits 0x61 f
  | .vlds f => laneLegal 0x62 f && formFits 0x62 f
  | .vsts f => laneLegal 0x63 f && formFits 0x63 f
  | .vatom f => laneLegal 0x64 f && formFits 0x64 f
  | .vatomn f => laneLegal 0x65 f && formFits 0x65 f
  | .vatoms f => laneLegal 0x66 f && formFits 0x66 f
  | .vpref f => laneLegal 0x67 f && formFits 0x67 f
  | .cadd f => laneLegal 0x68 f && formFits 0x68 f
  | .crd f => laneLegal 0x69 f && formFits 0x69 f
  | .cmrg f => laneLegal 0x6A f && formFits 0x6A f
  | .cset f => laneLegal 0x6B f && formFits 0x6B f
  | .lbr f => laneLegal 0x70 f && formFits 0x70 f
  | .ljmp f => laneLegal 0x71 f && formFits 0x71 f
  | .lbrx f => laneLegal 0x72 f && formFits 0x72 f
  | .lcallx f => laneLegal 0x73 f && formFits 0x73 f
  | .lret f => laneLegal 0x74 f && formFits 0x74 f
  | .lreconv f => laneLegal 0x75 f && formFits 0x75 f
  | .lmeld f => laneLegal 0x76 f && formFits 0x76 f
  | .lmend f => laneLegal 0x77 f && formFits 0x77 f
  | .lstop f => laneLegal 0x78 f && formFits 0x78 f
  | .lspawn f => laneLegal 0x79 f && formFits 0x79 f
  | .lawait f => laneLegal 0x7A f && formFits 0x7A f
  | .lexit f => laneLegal 0x7B f && formFits 0x7B f
  | .ltrap f => laneLegal 0x7C f && formFits 0x7C f
  | .lnop f => laneLegal 0x7D f && formFits 0x7D f
  | .mma f => laneLegal 0x80 f && formFits 0x80 f
  | .tzero f => laneLegal 0x81 f && formFits 0x81 f
  | .trd f => laneLegal 0x82 f && formFits 0x82 f
  | .twr f => laneLegal 0x83 f && formFits 0x83 f
  | .tst f => laneLegal 0x84 f && formFits 0x84 f
  | .tld f => laneLegal 0x85 f && formFits 0x85 f
  | .tscl f => laneLegal 0x86 f && formFits 0x86 f
  | .gbox f => laneLegal 0x90 f && formFits 0x90 f
  | .gtri f => laneLegal 0x91 f && formFits 0x91 f
  | .gdown f => laneLegal 0x92 f && formFits 0x92 f
  | .gtile f => laneLegal 0x93 f && formFits 0x93 f
  | .gqnt f => laneLegal 0x94 f && formFits 0x94 f
  | .gupd f => laneLegal 0x95 f && formFits 0x95 f
  | .grefit f => laneLegal 0x96 f && formFits 0x96 f
  | .gdeskew f => laneLegal 0x97 f && formFits 0x97 f
  | .ghit f => laneLegal 0x98 f && formFits 0x98 f
  | _ => true

end Sys2Proof
end

