-- ==== Sys2Proof/Decode.lean ====
section
/-! DEFINITION. The decoder of scalar words (03 R54, R55; 05 R73, R74) and of the lane byte stream (03 R56 to R60;
05 R75 to R82), and after it the encoder written from the same tables. -/

namespace Sys2Proof

open Sys2Proof.Machine

/-- A scalar word as an instruction (03 R54; 05 R73). `w1` and `w2` are the words after it, which only SLIT reads
(06 R88). A word that is illegal under R55 is `illegalScalarWord`. -/
def decodeScalar (w w1 w2 : W32) : Instr :=
  let sd := w.extractLsb' 18 8
  let sa := w.extractLsb' 10 8
  let sb := w.extractLsb' 2 8
  let fn := w.extractLsb' 0 2
  let imm := w.extractLsb' 0 10
  match (w.extractLsb' 26 6).toNat with
  | 0x01 => match fn.toNat with
    | 0 => .sadd sd sa sb
    | 1 => .ssub sd sa sb
    | 2 => .smul sd sa sb
    | 3 => .smulh sd sa sb
    | _ => .illegalScalarWord w
  | 0x02 => match fn.toNat with
    | 0 => .sdiv sd sa sb
    | 1 => .sdivu sd sa sb
    | 2 => .srem sd sa sb
    | 3 => .sremu sd sa sb
    | _ => .illegalScalarWord w
  | 0x03 => match fn.toNat with
    | 0 => .sand sd sa sb
    | 1 => .sor sd sa sb
    | 2 => .sxor sd sa sb
    | 3 => .sandn sd sa sb
    | _ => .illegalScalarWord w
  | 0x04 => match fn.toNat with
    | 0 => .sshl sd sa sb
    | 1 => .sshr sd sa sb
    | 2 => .ssra sd sa sb
    | 3 => .sror sd sa sb
    | _ => .illegalScalarWord w
  | 0x05 => match fn.toNat with
    | 0 => .sslt sd sa sb
    | 1 => .ssltu sd sa sb
    | 2 => .sseq sd sa sb
    | 3 => .ssne sd sa sb
    | _ => .illegalScalarWord w
  | 0x06 => match fn.toNat with
    | 0 => .smin sd sa sb
    | 1 => .smax sd sa sb
    | 2 => .sminu sd sa sb
    | 3 => .smaxu sd sa sb
    | _ => .illegalScalarWord w
  | 0x07 => match fn.toNat with
    | 0 => if sb == 0 then .sclz sd sa else .illegalScalarWord w
    | 1 => if sb == 0 then .sctz sd sa else .illegalScalarWord w
    | 2 => if sb == 0 then .spop sd sa else .illegalScalarWord w
    | 3 => if sb == 0 then .sbrev sd sa else .illegalScalarWord w
    | _ => .illegalScalarWord w
  | 0x08 => .saddi sd sa imm
  | 0x09 => .sandi sd sa imm
  | 0x0A => .sori sd sa imm
  | 0x0B => .sxori sd sa imm
  | 0x0C => if imm.toNat < 64 then .sshli sd sa (imm.setWidth 6) else .illegalScalarWord w
  | 0x0D => if imm.toNat < 64 then .sshri sd sa (imm.setWidth 6) else .illegalScalarWord w
  | 0x0E => if imm.toNat < 64 then .ssrai sd sa (imm.setWidth 6) else .illegalScalarWord w
  | 0x0F => .sslti sd sa imm
  | 0x10 => .sli sd (w.extractLsb' 0 18)
  | 0x11 =>
    if w.extractLsb' 0 16 != 0 then .illegalScalarWord w else
    match (w.extractLsb' 16 2).toNat with
    | 0 => .slit sd (.signed w1)
    | 1 => .slit sd (.unsigned w1)
    | 2 => .slit sd (.full w1 w2)
    | _ => .illegalScalarWord w
  | 0x12 => .sld sd sa imm
  | 0x13 => .slw sd sa imm
  | 0x14 => .slwu sd sa imm
  | 0x15 => .sst sd sa imm
  | 0x16 => .sstw sd sa imm
  | 0x17 => match fn.toNat with
    | 0 => .saadd sd sa sb
    | 1 => .samin sd sa sb
    | 2 => .samax sd sa sb
    | 3 => .saxchg sd sa sb
    | _ => .illegalScalarWord w
  | 0x18 => match fn.toNat with
    | 0 => .saand sd sa sb
    | 1 => .saor sd sa sb
    | 2 => .saxor sd sa sb
    | 3 => .sacas sd sa sb
    | _ => .illegalScalarWord w
  | 0x19 => .sbeq sd sa imm
  | 0x1A => .sbne sd sa imm
  | 0x1B => .sblt sd sa imm
  | 0x1C => .sbge sd sa imm
  | 0x1D => .sbltu sd sa imm
  | 0x1E => .sbgeu sd sa imm
  | 0x1F => .sjmp (w.extractLsb' 0 26)
  | 0x20 => .scall (w.extractLsb' 0 26)
  | 0x21 => match fn.toNat with
    | 0 => if sd == 0 && sb == 0 then .sjr sa else .illegalScalarWord w
    | 1 => if sb == 0 then .sjalr sd sa else .illegalScalarWord w
    | _ => .illegalScalarWord w
  | 0x22 => match (w.extractLsb' 0 6).toNat with
    | 0 => .smov (w.extractLsb' 16 10) (w.extractLsb' 6 10)
    | 1 => .srd (w.extractLsb' 16 10) (w.extractLsb' 6 10)
    | 2 => .swr (w.extractLsb' 16 10) (w.extractLsb' 6 10)
    | _ => .illegalScalarWord w
  | 0x23 => .lcall (w.extractLsb' 0 26)
  | 0x24 => match fn.toNat with
    | 0 => if sd == 0 && sb == 0 then .lcallr sa else .illegalScalarWord w
    | _ => .illegalScalarWord w
  | 0x25 => match fn.toNat with
    | 0 => if sd == 0 && sa == 0 && sb == 0 then .ljoin else .illegalScalarWord w
    | 1 => if sa == 0 && sb == 0 then .ltest sd else .illegalScalarWord w
    | _ => .illegalScalarWord w
  | 0x26 => match fn.toNat with
    | 0 => .spawn sd sa sb
    | _ => .illegalScalarWord w
  | 0x27 => match fn.toNat with
    | 0 => if sd == 0 && sa == 0 && sb == 0 then .awaitg else .illegalScalarWord w
    | 1 => if sd == 0 && sa == 0 && sb == 0 then .texit else .illegalScalarWord w
    | 2 => if sd == 0 && sa == 0 && sb == 0 then .yield else .illegalScalarWord w
    | _ => .illegalScalarWord w
  | 0x28 => match fn.toNat with
    | 0 => if sd == 0 && sa == 0 && sb == 0 then .bar else .illegalScalarWord w
    | 1 => if sa == 0 && sb == 0 then .barl sd else .illegalScalarWord w
    | 2 => if sd == 0 && sa == 0 && sb == 0 then .cbar else .illegalScalarWord w
    | 3 => if sa == 0 && sb == 0 then .cbarl sd else .illegalScalarWord w
    | _ => .illegalScalarWord w
  | 0x29 => match fn.toNat with
    | 0 => if sd == 0 then .fput sa sb else .illegalScalarWord w
    | 1 => if sb == 0 then .fget sd sa else .illegalScalarWord w
    | 2 => .ftry sd sa sb
    | 3 => if sd == 0 && sb == 0 then .fclr sa else .illegalScalarWord w
    | _ => .illegalScalarWord w
  | 0x2A => if w.getLsbD 1 then .illegalScalarWord w else match (w.extractLsb' 20 2).toNat with
    | 0 => .cpy (w.extractLsb' 22 4) (w.extractLsb' 14 6) (w.extractLsb' 8 6) (w.extractLsb' 2 6) (w.getLsbD 0)
    | 1 => .cpyb (w.extractLsb' 22 4) (w.extractLsb' 14 6) (w.extractLsb' 8 6) (w.extractLsb' 2 6) (w.getLsbD 0)
    | 2 => if (w.extractLsb' 2 6).toNat ≤ 61 then .gath (w.extractLsb' 22 4) (w.extractLsb' 14 6) (w.extractLsb' 8 6) (w.extractLsb' 2 6) (w.getLsbD 0) else .illegalScalarWord w
    | _ => if (w.extractLsb' 2 6).toNat ≤ 61 then .scat (w.extractLsb' 22 4) (w.extractLsb' 14 6) (w.extractLsb' 8 6) (w.extractLsb' 2 6) (w.getLsbD 0) else .illegalScalarWord w
  | 0x2B => if w.getLsbD 1 || w.extractLsb' 2 6 != 0 then .illegalScalarWord w else match (w.extractLsb' 20 2).toNat with
    | 0 => .xkick (w.extractLsb' 22 4) (w.extractLsb' 14 6) (w.extractLsb' 8 6) (w.getLsbD 0)
    | 1 => if w.extractLsb' 8 6 == 0 then .coll (w.extractLsb' 22 4) (w.extractLsb' 14 6) (w.getLsbD 0) else .illegalScalarWord w
    | _ => .illegalScalarWord w
  | 0x2C => if sa == 0 && sd.toNat < 4 && imm.toNat < 64 then .waitc (sd.setWidth 2) (imm.setWidth 6) else .illegalScalarWord w
  | 0x2D => match fn.toNat with
    | 0 => if sd == 0 && sa.toNat < 16 && sb == 0 then .waith (sa.setWidth 4) else .illegalScalarWord w
    | 1 => if sa == 0 && sb.toNat < 16 then .testh sd (sb.setWidth 4) else .illegalScalarWord w
    | 2 => if sd == 0 && sa.toNat < 16 && sb == 0 then .canch (sa.setWidth 4) else .illegalScalarWord w
    | 3 => if sd.toNat < 16 && sa.toNat < 16 && sb == 0 then .hmov (sd.setWidth 4) (sa.setWidth 4) else .illegalScalarWord w
    | _ => .illegalScalarWord w
  | 0x2E => match sd.toNat with
    | 0 => if sa == 0 && 1 ≤ imm.toNat && imm.toNat ≤ 3 then .vacq (imm.setWidth 2) else .illegalScalarWord w
    | 1 => if sa == 0 && imm.toNat ≤ 3 then .vrel (imm.setWidth 2) else .illegalScalarWord w
    | 2 => if sa == 0 && 1 ≤ imm.toNat && imm.toNat ≤ 4 then .tacq (imm.setWidth 3) else .illegalScalarWord w
    | 3 => if sa == 0 && imm.toNat ≤ 4 then .trel (imm.setWidth 3) else .illegalScalarWord w
    | 4 => if imm == 0 then .bankcfg sa else .illegalScalarWord w
    | _ => .illegalScalarWord w
  | 0x2F => match fn.toNat with
    | 0 => if sd == 0 && sb == 0 then .trap sa else .illegalScalarWord w
    | 1 => if sd == 0 && sb == 0 then .sysc sa else .illegalScalarWord w
    | 2 => if sd == 0 && sa == 0 && sb == 0 then .eret else .illegalScalarWord w
    | 3 => if sd == 0 && sb == 0 then .bkpt sa else .illegalScalarWord w
    | _ => .illegalScalarWord w
  | 0x30 => match fn.toNat with
    | 0 => if sd == 0 then .tlbinv sa sb else .illegalScalarWord w
    | 1 => if sd == 0 then .icinv sa sb else .illegalScalarWord w
    | 2 => if sd == 0 && sa == 0 && sb == 0 then .halt else .illegalScalarWord w
    | _ => .illegalScalarWord w
  | 0x31 => match fn.toNat with
    | 0 => if sb == 0 then .qclaim sd sa else .illegalScalarWord w
    | 1 => if sd == 0 then .qpub sa sb else .illegalScalarWord w
    | 2 => if sd == 0 then .qfree sa sb else .illegalScalarWord w
    | 3 => if sb == 0 then .qpop sd sa else .illegalScalarWord w
    | _ => .illegalScalarWord w
  | 0x32 => match fn.toNat with
    | 0 => .scmovn sd sa sb
    | 1 => .scmovz sd sa sb
    | _ => .illegalScalarWord w
  | _ => .illegalScalarWord w

/-- The number of 32-bit words a scalar instruction stands in (03 R54). -/
def scalarWords : Instr → Nat
  | .slit _ (.full _ _) => 3
  | .slit _ _ => 2
  | _ => 1

/-- The single lane instruction of an opcode (05 R75). -/
def mkLane (op : Nat) (f : LaneWord) : Option Instr :=
  match op with
  | 0x01 => some (.vadd f)
  | 0x02 => some (.vsub f)
  | 0x03 => some (.vmul f)
  | 0x04 => some (.vmulh f)
  | 0x05 => some (.vmulhu f)
  | 0x06 => some (.vmad f)
  | 0x07 => some (.vabsd f)
  | 0x08 => some (.vand f)
  | 0x09 => some (.vor f)
  | 0x0A => some (.vxor f)
  | 0x0B => some (.vandn f)
  | 0x0C => some (.vshl f)
  | 0x0D => some (.vshr f)
  | 0x0E => some (.vsra f)
  | 0x0F => some (.vror f)
  | 0x10 => some (.vmin f)
  | 0x11 => some (.vmax f)
  | 0x12 => some (.vminu f)
  | 0x13 => some (.vmaxu f)
  | 0x14 => some (.vclz f)
  | 0x15 => some (.vpop f)
  | 0x16 => some (.vbrev f)
  | 0x17 => some (.vbfx f)
  | 0x18 => some (.vbfi f)
  | 0x19 => some (.vsel f)
  | 0x1A => some (.vcmp f)
  | 0x1B => some (.vmov f)
  | 0x1C => some (.vmovi f)
  | 0x1D => some (.vaddc f)
  | 0x1E => some (.vdiv f)
  | 0x1F => some (.vrem f)
  | 0x20 => some (.fadd f)
  | 0x21 => some (.fsub f)
  | 0x22 => some (.fmul f)
  | 0x23 => some (.ffma f)
  | 0x24 => some (.fmin f)
  | 0x25 => some (.fmax f)
  | 0x26 => some (.fcmp f)
  | 0x27 => some (.frnd f)
  | 0x28 => some (.frcp f)
  | 0x29 => some (.frsq f)
  | 0x2A => some (.fsqrt f)
  | 0x2B => some (.fexp2 f)
  | 0x2C => some (.flog2 f)
  | 0x2D => some (.fsin f)
  | 0x2E => some (.fcos f)
  | 0x2F => some (.fclass f)
  | 0x30 => some (.hadd2 f)
  | 0x31 => some (.hmul2 f)
  | 0x32 => some (.hfma2 f)
  | 0x33 => some (.qdot4 f)
  | 0x34 => some (.idot4 f)
  | 0x35 => some (.cvt f)
  | 0x36 => some (.qblk f)
  | 0x37 => some (.unblk f)
  | 0x38 => some (.fdiv f)
  | 0x39 => some (.vcopy f)
  | 0x3A => some (.vrand f)
  | 0x3B => some (.vdec f)
  | 0x40 => some (.vshfl f)
  | 0x41 => some (.vshup f)
  | 0x42 => some (.vshdn f)
  | 0x43 => some (.vshx f)
  | 0x44 => some (.vbcast f)
  | 0x45 => some (.vvote f)
  | 0x46 => some (.vmatch f)
  | 0x47 => some (.vred f)
  | 0x48 => some (.vscan f)
  | 0x49 => some (.vsample f)
  | 0x50 => some (.kand f)
  | 0x51 => some (.kor f)
  | 0x52 => some (.kxor f)
  | 0x53 => some (.knot f)
  | 0x54 => some (.kmov f)
  | 0x55 => some (.kpop f)
  | 0x56 => some (.kffs f)
  | 0x57 => some (.vext f)
  | 0x58 => some (.vins f)
  | 0x60 => some (.vld f)
  | 0x61 => some (.vst f)
  | 0x62 => some (.vlds f)
  | 0x63 => some (.vsts f)
  | 0x64 => some (.vatom f)
  | 0x65 => some (.vatomn f)
  | 0x66 => some (.vatoms f)
  | 0x67 => some (.vpref f)
  | 0x68 => some (.cadd f)
  | 0x69 => some (.crd f)
  | 0x6A => some (.cmrg f)
  | 0x6B => some (.cset f)
  | 0x70 => some (.lbr f)
  | 0x71 => some (.ljmp f)
  | 0x72 => some (.lbrx f)
  | 0x73 => some (.lcallx f)
  | 0x74 => some (.lret f)
  | 0x75 => some (.lreconv f)
  | 0x76 => some (.lmeld f)
  | 0x77 => some (.lmend f)
  | 0x78 => some (.lstop f)
  | 0x79 => some (.lspawn f)
  | 0x7A => some (.lawait f)
  | 0x7B => some (.lexit f)
  | 0x7C => some (.ltrap f)
  | 0x7D => some (.lnop f)
  | 0x80 => some (.mma f)
  | 0x81 => some (.tzero f)
  | 0x82 => some (.trd f)
  | 0x83 => some (.twr f)
  | 0x84 => some (.tst f)
  | 0x85 => some (.tld f)
  | 0x86 => some (.tscl f)
  | 0x90 => some (.gbox f)
  | 0x91 => some (.gtri f)
  | 0x92 => some (.gdown f)
  | 0x93 => some (.gtile f)
  | 0x94 => some (.gqnt f)
  | 0x95 => some (.gupd f)
  | 0x96 => some (.grefit f)
  | 0x97 => some (.gdeskew f)
  | 0x98 => some (.ghit f)
  | _ => none

/-- The opcode and fields of a lane instruction (05 R75). -/
def laneOp : Instr → Option (Nat × LaneWord)
  | .vadd f => some (0x01, f)
  | .vsub f => some (0x02, f)
  | .vmul f => some (0x03, f)
  | .vmulh f => some (0x04, f)
  | .vmulhu f => some (0x05, f)
  | .vmad f => some (0x06, f)
  | .vabsd f => some (0x07, f)
  | .vand f => some (0x08, f)
  | .vor f => some (0x09, f)
  | .vxor f => some (0x0A, f)
  | .vandn f => some (0x0B, f)
  | .vshl f => some (0x0C, f)
  | .vshr f => some (0x0D, f)
  | .vsra f => some (0x0E, f)
  | .vror f => some (0x0F, f)
  | .vmin f => some (0x10, f)
  | .vmax f => some (0x11, f)
  | .vminu f => some (0x12, f)
  | .vmaxu f => some (0x13, f)
  | .vclz f => some (0x14, f)
  | .vpop f => some (0x15, f)
  | .vbrev f => some (0x16, f)
  | .vbfx f => some (0x17, f)
  | .vbfi f => some (0x18, f)
  | .vsel f => some (0x19, f)
  | .vcmp f => some (0x1A, f)
  | .vmov f => some (0x1B, f)
  | .vmovi f => some (0x1C, f)
  | .vaddc f => some (0x1D, f)
  | .vdiv f => some (0x1E, f)
  | .vrem f => some (0x1F, f)
  | .fadd f => some (0x20, f)
  | .fsub f => some (0x21, f)
  | .fmul f => some (0x22, f)
  | .ffma f => some (0x23, f)
  | .fmin f => some (0x24, f)
  | .fmax f => some (0x25, f)
  | .fcmp f => some (0x26, f)
  | .frnd f => some (0x27, f)
  | .frcp f => some (0x28, f)
  | .frsq f => some (0x29, f)
  | .fsqrt f => some (0x2A, f)
  | .fexp2 f => some (0x2B, f)
  | .flog2 f => some (0x2C, f)
  | .fsin f => some (0x2D, f)
  | .fcos f => some (0x2E, f)
  | .fclass f => some (0x2F, f)
  | .hadd2 f => some (0x30, f)
  | .hmul2 f => some (0x31, f)
  | .hfma2 f => some (0x32, f)
  | .qdot4 f => some (0x33, f)
  | .idot4 f => some (0x34, f)
  | .cvt f => some (0x35, f)
  | .qblk f => some (0x36, f)
  | .unblk f => some (0x37, f)
  | .fdiv f => some (0x38, f)
  | .vcopy f => some (0x39, f)
  | .vrand f => some (0x3A, f)
  | .vdec f => some (0x3B, f)
  | .vshfl f => some (0x40, f)
  | .vshup f => some (0x41, f)
  | .vshdn f => some (0x42, f)
  | .vshx f => some (0x43, f)
  | .vbcast f => some (0x44, f)
  | .vvote f => some (0x45, f)
  | .vmatch f => some (0x46, f)
  | .vred f => some (0x47, f)
  | .vscan f => some (0x48, f)
  | .vsample f => some (0x49, f)
  | .kand f => some (0x50, f)
  | .kor f => some (0x51, f)
  | .kxor f => some (0x52, f)
  | .knot f => some (0x53, f)
  | .kmov f => some (0x54, f)
  | .kpop f => some (0x55, f)
  | .kffs f => some (0x56, f)
  | .vext f => some (0x57, f)
  | .vins f => some (0x58, f)
  | .vld f => some (0x60, f)
  | .vst f => some (0x61, f)
  | .vlds f => some (0x62, f)
  | .vsts f => some (0x63, f)
  | .vatom f => some (0x64, f)
  | .vatomn f => some (0x65, f)
  | .vatoms f => some (0x66, f)
  | .vpref f => some (0x67, f)
  | .cadd f => some (0x68, f)
  | .crd f => some (0x69, f)
  | .cmrg f => some (0x6A, f)
  | .cset f => some (0x6B, f)
  | .lbr f => some (0x70, f)
  | .ljmp f => some (0x71, f)
  | .lbrx f => some (0x72, f)
  | .lcallx f => some (0x73, f)
  | .lret f => some (0x74, f)
  | .lreconv f => some (0x75, f)
  | .lmeld f => some (0x76, f)
  | .lmend f => some (0x77, f)
  | .lstop f => some (0x78, f)
  | .lspawn f => some (0x79, f)
  | .lawait f => some (0x7A, f)
  | .lexit f => some (0x7B, f)
  | .ltrap f => some (0x7C, f)
  | .lnop f => some (0x7D, f)
  | .mma f => some (0x80, f)
  | .tzero f => some (0x81, f)
  | .trd f => some (0x82, f)
  | .twr f => some (0x83, f)
  | .tst f => some (0x84, f)
  | .tld f => some (0x85, f)
  | .tscl f => some (0x86, f)
  | .gbox f => some (0x90, f)
  | .gtri f => some (0x91, f)
  | .gdown f => some (0x92, f)
  | .gtile f => some (0x93, f)
  | .gqnt f => some (0x94, f)
  | .gupd f => some (0x95, f)
  | .grefit f => some (0x96, f)
  | .gdeskew f => some (0x97, f)
  | .ghit f => some (0x98, f)
  | _ => none

/-- The instruction of an expanded single word: the illegal word unless it is a defined instruction (03 R60). -/
def laneInstr (op : Nat) (f : LaneWord) : Instr :=
  if laneLegal op f then (mkLane op f).getD .illegalWord else .illegalWord

/-- One 44-bit half of a pair (03 R59): `none` when its zero bits are not zero. -/
def decodeHalf (v : BitVec 44) : Option PairHalf :=
  if v.extractLsb' 0 6 == 0 then
    some ⟨v.extractLsb' 37 7, v.extractLsb' 33 4, v.extractLsb' 24 9, v.extractLsb' 15 9, v.extractLsb' 6 9⟩
  else none

/-- The pair word of 88 bits (03 R59). -/
def decodePair (raw : Bool) (v : BitVec 88) : Instr :=
  match decodeHalf (v.extractLsb' 44 44), decodeHalf (v.extractLsb' 0 44) with
  | some h0, some h1 => if pairLegal h0 h1 then .pairWord raw h0 h1 else .illegalWord
  | _, _ => .illegalWord

/-- Bytes read as one big-endian number (03 R58). -/
def bigEndian : List Byte → Nat
  | [] => 0
  | b :: bs => b.toNat * 256 ^ bs.length + bigEndian bs

/-- The expansion of a form 0x80 body of 48 bits (03 R58). -/
def expand80 (op : Byte) (v : BitVec 48) : Instr :=
  if v.extractLsb' 0 2 == 0 && op != 0xFE then
    laneInstr op.toNat ⟨.f80, v.extractLsb' 44 4, v.extractLsb' 40 4, v.extractLsb' 35 5, v.extractLsb' 24 11,
      v.extractLsb' 13 11, v.extractLsb' 2 11, 0, 0⟩
  else .illegalWord

/-- The expansion of a form 0x81 body of 48 bits (03 R58). -/
def expand81 (op : Byte) (v : BitVec 48) : Instr :=
  if op != 0xFE then
    laneInstr op.toNat ⟨.f81, v.extractLsb' 44 4, v.extractLsb' 40 4, v.extractLsb' 35 5, v.extractLsb' 24 11,
      v.extractLsb' 13 11, 0, 0, (v.extractLsb' 0 13).signExtend 31⟩
  else .illegalWord

/-- The expansion of a form 0x82 body of 80 bits (03 R58). -/
def expand82 (op : Byte) (v : BitVec 80) : Instr :=
  if op != 0xFE then
    laneInstr op.toNat ⟨.f82, v.extractLsb' 76 4, v.extractLsb' 72 4, v.extractLsb' 67 5, v.extractLsb' 56 11,
      v.extractLsb' 45 11, v.extractLsb' 34 11, v.extractLsb' 23 11, (v.extractLsb' 0 23).signExtend 31⟩
  else .illegalWord

/-- A raw internal word of form 0x83: a pair when its opcode is 0xFE, checked as from form 0x84 (03 R58). -/
def expand83 (op : Byte) (v : BitVec 88) : Instr :=
  if op == 0xFE then decodePair true v else
    laneInstr op.toNat ⟨.f83, v.extractLsb' 84 4, v.extractLsb' 80 4, v.extractLsb' 75 5, v.extractLsb' 64 11,
      v.extractLsb' 53 11, v.extractLsb' 42 11, v.extractLsb' 31 11, v.extractLsb' 0 31⟩

/-- The number of bytes of the instruction a prefix byte opens (03 R58): filler and the illegal prefixes have one. -/
def prefixLength (p : Byte) : Nat :=
  if p.toNat < 0x80 then 4 else
  match p.toNat with
  | 0x80 => 8 | 0x81 => 8 | 0x82 => 12 | 0x83 => 13 | 0x84 => 12
  | _ => 1

/-- The lane instruction at the head of a byte stream (03 R58), with the filler bytes before it skipped;
`none` when the stream ends before the instruction does. -/
def decodeLane : List Byte → Option Instr
  | [] => none
  | p :: rest =>
    if p = 0xFF then decodeLane rest
    else if prefixLength p - 1 ≤ rest.length then
      let body := rest.take (prefixLength p - 1)
      let v := bigEndian body
      let op := BitVec.ofNat 8 (v / 256 ^ (body.length - 1))
      some <|
        if p.toNat < 0x80 then
          laneInstr p.toNat ⟨.short, 0, 0, 0, (BitVec.ofNat 8 (v / 65536)).zeroExtend 11,
            (BitVec.ofNat 8 (v / 256)).zeroExtend 11, (BitVec.ofNat 8 v).zeroExtend 11, 0, 0⟩
        else match p.toNat with
          | 0x80 => expand80 op (BitVec.ofNat 48 v)
          | 0x81 => expand81 op (BitVec.ofNat 48 v)
          | 0x82 => expand82 op (BitVec.ofNat 80 v)
          | 0x83 => expand83 op (BitVec.ofNat 88 v)
          | 0x84 => decodePair false (BitVec.ofNat 88 v)
          | _ => .illegalWord
    else none

/-- Little-endian words of bytes, the first word at the lowest address (03 R54). -/
def wordBytes (w : W32) : List Byte :=
  [w.extractLsb' 0 8, w.extractLsb' 8 8, w.extractLsb' 16 8, w.extractLsb' 24 8]

/-- The instruction the decoder reads from an instruction whose bits are `w`, bit 0 the least significant bit of the
first word, the bits above `nbits` zero. A row of 32 bits is a scalar word; any other row is lane bytes. -/
def decodeTableWord (nbits w : Nat) : Option Instr :=
  if nbits == 32 then some (decodeScalar (BitVec.ofNat 32 w) (BitVec.ofNat 32 (w >>> 32)) (BitVec.ofNat 32 (w >>> 64)))
  else decodeLane ((List.range 13).map (fun i => BitVec.ofNat 8 (w >>> (8 * i))))

/-! ### The encoder -/

/-- An SR word (03 R54). -/
def srWord (maj : BitVec 6) (sd sa sb : BitVec 8) (fn : BitVec 2) : W32 := maj ++ sd ++ sa ++ sb ++ fn
/-- An SI word, and an SB word, whose fields stand in the same places (03 R54). -/
def siWord (maj : BitVec 6) (sd sa : BitVec 8) (imm : BitVec 10) : W32 := maj ++ sd ++ sa ++ imm
/-- An SL word (03 R54). -/
def slWord (maj : BitVec 6) (sd : BitVec 8) (imm : BitVec 18) : W32 := maj ++ sd ++ imm
/-- An SJ word (03 R54). -/
def sjWord (maj : BitVec 6) (off : BitVec 26) : W32 := maj ++ off
/-- An SW word, major 0x22 (03 R54). -/
def swWord (x y : BitVec 10) (fn : BitVec 6) : W32 := (0x22 : BitVec 6) ++ x ++ y ++ fn
/-- An SE word (03 R54). -/
def seWord (maj : BitVec 6) (h : BitVec 4) (fn : BitVec 2) (a b c : BitVec 6) (rel : Bool) : W32 :=
  maj ++ h ++ fn ++ a ++ b ++ c ++ (0 : BitVec 1) ++ BitVec.ofBool rel

/-- The words of a scalar instruction (03 R54; 05 R73). -/
def encodeScalar : Instr → Option (List W32)
  | .sadd sd sa sb => some [srWord 0x01 sd sa sb 0]
  | .ssub sd sa sb => some [srWord 0x01 sd sa sb 1]
  | .smul sd sa sb => some [srWord 0x01 sd sa sb 2]
  | .smulh sd sa sb => some [srWord 0x01 sd sa sb 3]
  | .sdiv sd sa sb => some [srWord 0x02 sd sa sb 0]
  | .sdivu sd sa sb => some [srWord 0x02 sd sa sb 1]
  | .srem sd sa sb => some [srWord 0x02 sd sa sb 2]
  | .sremu sd sa sb => some [srWord 0x02 sd sa sb 3]
  | .sand sd sa sb => some [srWord 0x03 sd sa sb 0]
  | .sor sd sa sb => some [srWord 0x03 sd sa sb 1]
  | .sxor sd sa sb => some [srWord 0x03 sd sa sb 2]
  | .sandn sd sa sb => some [srWord 0x03 sd sa sb 3]
  | .sshl sd sa sb => some [srWord 0x04 sd sa sb 0]
  | .sshr sd sa sb => some [srWord 0x04 sd sa sb 1]
  | .ssra sd sa sb => some [srWord 0x04 sd sa sb 2]
  | .sror sd sa sb => some [srWord 0x04 sd sa sb 3]
  | .sslt sd sa sb => some [srWord 0x05 sd sa sb 0]
  | .ssltu sd sa sb => some [srWord 0x05 sd sa sb 1]
  | .sseq sd sa sb => some [srWord 0x05 sd sa sb 2]
  | .ssne sd sa sb => some [srWord 0x05 sd sa sb 3]
  | .smin sd sa sb => some [srWord 0x06 sd sa sb 0]
  | .smax sd sa sb => some [srWord 0x06 sd sa sb 1]
  | .sminu sd sa sb => some [srWord 0x06 sd sa sb 2]
  | .smaxu sd sa sb => some [srWord 0x06 sd sa sb 3]
  | .saadd sd sa sb => some [srWord 0x17 sd sa sb 0]
  | .samin sd sa sb => some [srWord 0x17 sd sa sb 1]
  | .samax sd sa sb => some [srWord 0x17 sd sa sb 2]
  | .saxchg sd sa sb => some [srWord 0x17 sd sa sb 3]
  | .saand sd sa sb => some [srWord 0x18 sd sa sb 0]
  | .saor sd sa sb => some [srWord 0x18 sd sa sb 1]
  | .saxor sd sa sb => some [srWord 0x18 sd sa sb 2]
  | .sacas sd sa sb => some [srWord 0x18 sd sa sb 3]
  | .spawn sd sa sb => some [srWord 0x26 sd sa sb 0]
  | .scmovn sd sa sb => some [srWord 0x32 sd sa sb 0]
  | .scmovz sd sa sb => some [srWord 0x32 sd sa sb 1]
  | .sclz sd sa => some [srWord 0x07 sd sa 0 0]
  | .sctz sd sa => some [srWord 0x07 sd sa 0 1]
  | .spop sd sa => some [srWord 0x07 sd sa 0 2]
  | .sbrev sd sa => some [srWord 0x07 sd sa 0 3]
  | .sjr sa => some [srWord 0x21 0 sa 0 0]
  | .sjalr sd sa => some [srWord 0x21 sd sa 0 1]
  | .lcallr sa => some [srWord 0x24 0 sa 0 0]
  | .ljoin => some [srWord 0x25 0 0 0 0]
  | .ltest sd => some [srWord 0x25 sd 0 0 1]
  | .awaitg => some [srWord 0x27 0 0 0 0]
  | .texit => some [srWord 0x27 0 0 0 1]
  | .yield => some [srWord 0x27 0 0 0 2]
  | .bar => some [srWord 0x28 0 0 0 0]
  | .barl sd => some [srWord 0x28 sd 0 0 1]
  | .cbar => some [srWord 0x28 0 0 0 2]
  | .cbarl sd => some [srWord 0x28 sd 0 0 3]
  | .fput sa sb => some [srWord 0x29 0 sa sb 0]
  | .fget sd sa => some [srWord 0x29 sd sa 0 1]
  | .ftry sd sa sb => some [srWord 0x29 sd sa sb 2]
  | .fclr sa => some [srWord 0x29 0 sa 0 3]
  | .waith ha => some [srWord 0x2D 0 (ha.zeroExtend 8) 0 0]
  | .testh sd hb => some [srWord 0x2D sd 0 (hb.zeroExtend 8) 1]
  | .canch ha => some [srWord 0x2D 0 (ha.zeroExtend 8) 0 2]
  | .hmov hd ha => some [srWord 0x2D (hd.zeroExtend 8) (ha.zeroExtend 8) 0 3]
  | .trap sa => some [srWord 0x2F 0 sa 0 0]
  | .sysc sa => some [srWord 0x2F 0 sa 0 1]
  | .eret => some [srWord 0x2F 0 0 0 2]
  | .bkpt sa => some [srWord 0x2F 0 sa 0 3]
  | .tlbinv sa sb => some [srWord 0x30 0 sa sb 0]
  | .icinv sa sb => some [srWord 0x30 0 sa sb 1]
  | .halt => some [srWord 0x30 0 0 0 2]
  | .qclaim sd sa => some [srWord 0x31 sd sa 0 0]
  | .qpub sa sb => some [srWord 0x31 0 sa sb 1]
  | .qfree sa sb => some [srWord 0x31 0 sa sb 2]
  | .qpop sd sa => some [srWord 0x31 sd sa 0 3]
  | .saddi sd sa imm => some [siWord 0x08 sd sa imm]
  | .sandi sd sa imm => some [siWord 0x09 sd sa imm]
  | .sori sd sa imm => some [siWord 0x0A sd sa imm]
  | .sxori sd sa imm => some [siWord 0x0B sd sa imm]
  | .sshli sd sa sh => some [siWord 0x0C sd sa (sh.zeroExtend 10)]
  | .sshri sd sa sh => some [siWord 0x0D sd sa (sh.zeroExtend 10)]
  | .ssrai sd sa sh => some [siWord 0x0E sd sa (sh.zeroExtend 10)]
  | .sslti sd sa imm => some [siWord 0x0F sd sa imm]
  | .sli sd imm18 => some [slWord 0x10 sd imm18]
  | .slit sd (.signed w0) => some [slWord 0x11 sd 0x00000, w0]
  | .slit sd (.unsigned w0) => some [slWord 0x11 sd 0x10000, w0]
  | .slit sd (.full w0 w1) => some [slWord 0x11 sd 0x20000, w0, w1]
  | .sld sd sa imm => some [siWord 0x12 sd sa imm]
  | .slw sd sa imm => some [siWord 0x13 sd sa imm]
  | .slwu sd sa imm => some [siWord 0x14 sd sa imm]
  | .sst sd sa imm => some [siWord 0x15 sd sa imm]
  | .sstw sd sa imm => some [siWord 0x16 sd sa imm]
  | .sbeq sa sb off => some [siWord 0x19 sa sb off]
  | .sbne sa sb off => some [siWord 0x1A sa sb off]
  | .sblt sa sb off => some [siWord 0x1B sa sb off]
  | .sbge sa sb off => some [siWord 0x1C sa sb off]
  | .sbltu sa sb off => some [siWord 0x1D sa sb off]
  | .sbgeu sa sb off => some [siWord 0x1E sa sb off]
  | .sjmp off => some [sjWord 0x1F off]
  | .scall off => some [sjWord 0x20 off]
  | .lcall off => some [sjWord 0x23 off]
  | .smov x y => some [swWord x y 0]
  | .srd x y => some [swWord x y 1]
  | .swr x y => some [swWord x y 2]
  | .cpy h a b c r => some [seWord 0x2A h 0 a b c r]
  | .cpyb h a b c r => some [seWord 0x2A h 1 a b c r]
  | .gath h a b c r => some [seWord 0x2A h 2 a b c r]
  | .scat h a b c r => some [seWord 0x2A h 3 a b c r]
  | .xkick h a b r => some [seWord 0x2B h 0 a b 0 r]
  | .coll h a r => some [seWord 0x2B h 1 a 0 0 r]
  | .waitc cls n => some [siWord 0x2C (cls.zeroExtend 8) 0 (n.zeroExtend 10)]
  | .vacq n => some [siWord 0x2E 0 0 (n.zeroExtend 10)]
  | .vrel n => some [siWord 0x2E 1 0 (n.zeroExtend 10)]
  | .tacq n => some [siWord 0x2E 2 0 (n.zeroExtend 10)]
  | .trel n => some [siWord 0x2E 3 0 (n.zeroExtend 10)]
  | .bankcfg sa => some [siWord 0x2E 4 sa 0]
  | .illegalScalarWord w => some [w]
  | _ => none

/-- Bits as bytes, most significant byte first (03 R58). -/
def bigBytes : Nat → Nat → List Byte
  | 0, _ => []
  | n + 1, v => BitVec.ofNat 8 (v / 256 ^ n) :: bigBytes n v

/-- The 44 bits of a half (03 R59). -/
def encodeHalf (h : PairHalf) : BitVec 44 := h.op ++ h.mod ++ h.d ++ h.a ++ h.b ++ (0 : BitVec 6)

/-- The bytes of a single lane instruction in the form it names (03 R58). -/
def encodeLaneWord (op : BitVec 8) (f : LaneWord) : List Byte :=
  match f.form with
  | .short => [op, f.d.setWidth 8, f.a.setWidth 8, f.b.setWidth 8]
  | .f80 => 0x80 :: op :: bigBytes 6 (f.la ++ f.pred ++ f.mod ++ f.d ++ f.a ++ f.b ++ (0 : BitVec 2)).toNat
  | .f81 => 0x81 :: op :: bigBytes 6 (f.la ++ f.pred ++ f.mod ++ f.d ++ f.a ++ f.imm.extractLsb' 0 13).toNat
  | .f82 => 0x82 :: op :: bigBytes 10
      (f.la ++ f.pred ++ f.mod ++ f.d ++ f.a ++ f.b ++ f.c ++ f.imm.extractLsb' 0 23).toNat
  | .f83 => 0x83 :: op :: bigBytes 11 (f.la ++ f.pred ++ f.mod ++ f.d ++ f.a ++ f.b ++ f.c ++ f.imm).toNat

/-- The bytes of a lane instruction, the pair word among them (03 R58, R59). -/
def encodeLane (i : Instr) : Option (List Byte) :=
  match laneOp i with
  | some (op, f) => some (encodeLaneWord (BitVec.ofNat 8 op) f)
  | none =>
    match i with
    | .pairWord raw h0 h1 =>
      let v := (encodeHalf h0 ++ encodeHalf h1).toNat
      some (if raw then 0x83 :: 0xFE :: bigBytes 11 v else 0x84 :: bigBytes 11 v)
    | _ => none

/-- The bytes of an instruction in memory, lowest address first: a scalar instruction's words are little-endian.
The steps of the table that have no encoding have none here. -/
def encode (i : Instr) : Option (List Byte) :=
  match encodeScalar i with
  | some ws => some (ws.flatMap wordBytes)
  | none => encodeLane i

end Sys2Proof
end

