-- ==== Sys2Proof/Config.lean ====
section
/-! DEFINITION. What the manual leaves free: constants without a body, so that nothing can evaluate them or prove a
value of them. A statement that mentions one holds whatever it is. -/

namespace Sys2Proof.Config

/-- A free choice among outcomes that the manual calls unpredictable within a named set (00 R6). The arguments are the
state's counter of free values and a number that tells apart the choices of one step; callers reduce the number modulo
the size of the set. -/
opaque freeNat : Nat → Nat → Nat

/-- A free 32-bit word: what another device's memory returns (13 R242). The arguments are those of `freeNat`. -/
opaque freeWord : Nat → Nat → W32

/-- A free set of lanes: which lanes of VLD .sm hit (08 R148). The argument is the counter of free values. -/
opaque freeMask : Nat → W32

/-- The LZ4 compressor's output, fixed for a given input and not stated (22 R304). -/
opaque lz4Compress : List Byte → List Byte

/-- SLH-DSA-SHAKE-256s verification (24 R329): key, message, signature. -/
opaque slhDsaVerify : List Byte → List Byte → List Byte → Bool

/-- The ML-DSA-87 signature with the device identity key, which is never exported (24 R330). -/
opaque mlDsaSign : List Byte → List Byte

/-- The measurement register extended with a digest (24 R330: how it is extended is not stated). -/
opaque measureExtend : List Byte → List Byte → List Byte

/-- What TELEMETRY returns (24 R326). The arguments are the counter of free values and what the state holds of clocks and
errors: the clock, the clock steps, the throttled dies, the context errors and the error log's records so far. -/
opaque telemetry : Nat → List Nat → List Byte

/-- The magic and the version of a firmware image (24 R329: their values are not stated). -/
opaque imageMagic : W32
opaque imageVersion : W32

/-- The die that holds the home slice of a CXL line (17 R259: the hash is not architectural). -/
opaque cxlHome : Nat → BitVec 2

/-- The attached memory of each CXL port in bytes, at most 4 TiB together (17 R259). -/
opaque cxlSize : BitVec 1 → Nat

end Sys2Proof.Config
end

