-- ==== Sys2Proof/Machine/Map.lean ====
section
/-! DEFINITION. The operations over sparse maps (`SMap`), which hold register files and memories, and over lists of
bytes. A map read with default `d` holds no pair of value `d` and its keys rise (`mapWf`). -/

namespace Sys2Proof.Machine

variable {α : Type}

/-- The value at key `k`; an unlisted key reads as `d`. -/
def mapGet (d : α) (k : Nat) : SMap α → α
  | [] => d
  | (j, v) :: m => if j = k then v else mapGet d k m

/-- The map without key `k`. -/
def mapErase (k : Nat) (m : SMap α) : SMap α := m.filter (fun p => p.1 != k)

/-- A pair put in its place among rising keys. -/
def mapInsert (k : Nat) (v : α) : SMap α → SMap α
  | [] => [(k, v)]
  | (j, w) :: m => if k < j then (k, v) :: (j, w) :: m else (j, w) :: mapInsert k v m

/-- The map with `v` at key `k`; writing the default removes the entry. -/
def mapSet [DecidableEq α] (d : α) (k : Nat) (v : α) (m : SMap α) : SMap α :=
  if v = d then mapErase k m else mapInsert k v (mapErase k m)

/-- Whether keys rise strictly from `lo` on. -/
def keysRise (lo : Nat) : SMap α → Bool
  | [] => true
  | (j, _) :: m => lo ≤ j && keysRise (j + 1) m

/-- The canonical form: keys strictly rising and no entry equal to the default. -/
def mapWf [DecidableEq α] (d : α) (m : SMap α) : Bool :=
  keysRise 0 m && m.all (fun p => decide (p.2 ≠ d))

/-- Little-endian bytes as a number. -/
def leNat : List Byte → Nat
  | [] => 0
  | b :: bs => b.toNat + 256 * leNat bs

/-- A number as `n` little-endian bytes. -/
def leBytes : Nat → Nat → List Byte
  | 0, _ => []
  | n + 1, v => BitVec.ofNat 8 v :: leBytes n (v / 256)

/-- The first element of a list that satisfies `p`, with its index. -/
def findIdx? (p : α → Bool) : List α → Nat → Option (Nat × α)
  | [], _ => none
  | x :: xs, i => if p x then some (i, x) else findIdx? p xs (i + 1)

/-- The list with element `n` left out. -/
def dropAt (n : Nat) (l : List α) : List α := l.take n ++ l.drop (n + 1)

/-- Insertion sort by a key, stable. -/
def sortBy (key : α → Nat) : List α → List α
  | [] => []
  | x :: xs => ins x (sortBy key xs)
where
  ins (x : α) : List α → List α
    | [] => [x]
    | y :: ys => if key x ≤ key y then x :: y :: ys else y :: ins x ys

/-- The numbers below `n` that satisfy `p`, rising. -/
def upto (n : Nat) (p : Nat → Bool) : List Nat := (List.range n).filter p

/-- The lanes of a mask, rising. -/
def lanesOf (m : W32) : List Nat := upto 32 (fun l => m.getLsbD l)

/-- The mask of a list of lanes. -/
def maskOf (ls : List Nat) : W32 := ls.foldl (fun m l => m ||| (1 <<< l)) 0

/-- Sign extension of a 32-bit word to 64 bits. -/
def sext64 (w : W32) : W64 := w.signExtend 64

end Sys2Proof.Machine
end

