-- ==== Sys2Proof/Machine/Flags.lean ====
section
/-! DEFINITION. The sticky flags (01 R24), and the number formats, rounding and exact arithmetic by which results and
flags are computed (02 R33 to R43, R51; 07 R125 to R127). -/

namespace Sys2Proof.Machine

/-- NV: invalid operation (01 R24). -/
abbrev flagNV : BitVec 8 := 0x01
/-- DZ: division by zero. -/
abbrev flagDZ : BitVec 8 := 0x02
/-- OF: overflow. -/
abbrev flagOF : BitVec 8 := 0x04
/-- UF: underflow. -/
abbrev flagUF : BitVec 8 := 0x08
/-- UE: an uncorrectable element replaced by zero. -/
abbrev flagUE : BitVec 8 := 0x10
/-- CSAT: a cruise counter saturated. -/
abbrev flagCSAT : BitVec 8 := 0x20
/-- UV: a uniformity violation. -/
abbrev flagUV : BitVec 8 := 0x40
/-- LV: a lookahead window read in checked mode. -/
abbrev flagLV : BitVec 8 := 0x80

/-- A flag when a condition holds. -/
def flagIf (c : Bool) (f : BitVec 8) : BitVec 8 := if c then f else 0

/-! ### Rounding modes and formats -/

/-- A rounding mode (02 R42; FMODE.RM, 01 R23). -/
inductive Rm where
  | rn
  | rz
  | ru
  | rd
  deriving DecidableEq, Repr

/-- The mode of FMODE.RM (01 R23). -/
def Rm.ofRM (b : BitVec 2) : Rm :=
  match b.toNat with
  | 0 => .rn
  | 1 => .rz
  | 2 => .ru
  | _ => .rd

/-- The mode of a rounding code (05 R79): 0 takes FMODE.RM. -/
def Rm.ofCode (code : Nat) (rm : BitVec 2) : Rm :=
  match code with
  | 1 => .rn
  | 2 => .rz
  | 3 => .ru
  | 4 => .rd
  | _ => Rm.ofRM rm

/-- A floating-point format (02 R34 to R37): widths, bias, the code of its largest finite magnitude, the code of
infinity where it has one, and its generated NaN where it has one. -/
structure Fmt where
  ebits : Nat
  mbits : Nat
  bias  : Nat
  top   : Nat
  inf   : Option Nat
  nan   : Option Nat
  deriving DecidableEq, Repr

/-- FP32 (02 R34). -/
def fp32 : Fmt := ⟨8, 23, 127, 0x7F7FFFFF, some 0x7F800000, some 0x7FC00000⟩
/-- FP16 (02 R35). -/
def fp16 : Fmt := ⟨5, 10, 15, 0x7BFF, some 0x7C00, some 0x7E00⟩
/-- BF16 (02 R35). -/
def bf16 : Fmt := ⟨8, 7, 127, 0x7F7F, some 0x7F80, some 0x7FC0⟩
/-- E4M3 (02 R36): no infinity. -/
def e4m3 : Fmt := ⟨4, 3, 7, 0x7E, none, some 0x7F⟩
/-- E5M2 (02 R36). -/
def e5m2 : Fmt := ⟨5, 2, 15, 0x7B, some 0x7C, some 0x7E⟩
/-- E2M1 (02 R37): no infinity and no NaN. -/
def e2m1 : Fmt := ⟨2, 1, 1, 7, none, none⟩

/-- A value of a format: a NaN, an infinity, or (-1)^neg × m × 2^e, zeros with their sign. -/
inductive XVal where
  | nan
  | inf (neg : Bool)
  | fin (neg : Bool) (m : Nat) (e : Int)
  deriving DecidableEq, Repr

/-- The value of a code (02 R34 to R37). -/
def Fmt.decode (f : Fmt) (bits : Nat) : XVal :=
  let mag := bits % 2 ^ (f.ebits + f.mbits)
  let neg := bits / 2 ^ (f.ebits + f.mbits) % 2 == 1
  if mag ≤ f.top then
    let e := mag / 2 ^ f.mbits
    let m := mag % 2 ^ f.mbits
    if e = 0 then .fin neg m (1 - (f.bias : Int) - f.mbits)
    else .fin neg (2 ^ f.mbits + m) ((e : Int) - f.bias - f.mbits)
  else if f.inf = some mag then .inf neg
  else .nan

/-- Whether a code is a signalling NaN. The OCP formats' NaN codes count as quiet (07 R129). -/
def Fmt.signalling (f : Fmt) (bits : Nat) : Bool :=
  match f.inf with
  | some i =>
    let mag := bits % 2 ^ (f.ebits + f.mbits)
    f.ebits + f.mbits ≥ 15 && i < mag && bits / 2 ^ (f.mbits - 1) % 2 == 0
  | none => false

/-- Whether a code is a nonzero subnormal. -/
def Fmt.subnormal (f : Fmt) (bits : Nat) : Bool :=
  let mag := bits % 2 ^ (f.ebits + f.mbits)
  0 < mag && mag < 2 ^ f.mbits

/-- The sign bit of a format in place. -/
def Fmt.signed (f : Fmt) (neg : Bool) (mag : Nat) : Nat := if neg then 2 ^ (f.ebits + f.mbits) + mag else mag

/-- The generated NaN; +0 where the format has none (02 R43). -/
def Fmt.quiet (f : Fmt) : Nat := f.nan.getD 0

/-- Whether the rounding mode takes a magnitude up: `odd` its last bit, `rem` the remainder and `half` the tie, with
`sticky` for a nonzero part below the remainder. -/
def roundsUp (rm : Rm) (neg odd : Bool) (rem half : Nat) (sticky : Bool) : Bool :=
  let inexact := rem != 0 || sticky
  match rm with
  | .rn => half < rem || (rem == half && half != 0 && (sticky || odd))
  | .rz => false
  | .ru => !neg && inexact
  | .rd => neg && inexact

/-- A magnitude `m × 2^e`, `m` positive, with a further nonzero part below it when `sticky`, rounded to a multiple of
`2^q`: the multiple and whether it is inexact. -/
def roundAt (rm : Rm) (neg : Bool) (m : Nat) (e : Int) (sticky : Bool) (q : Int) : Nat × Bool :=
  if q ≤ e then
    let m' := m * 2 ^ (e - q).toNat
    let up := match rm with | .ru => !neg && sticky | .rd => neg && sticky | _ => false
    (m' + up.toNat, sticky)
  else
    let s := (q - e).toNat
    let rem := m % 2 ^ s
    let m' := m / 2 ^ s
    let up := roundsUp rm neg (m' % 2 == 1) rem (2 ^ (s - 1)) sticky
    (m' + up.toNat, rem != 0 || sticky)

/-- What an overflow gives (02 R34, R36, R43): the largest finite magnitude under `.sat` or where the direction
truncates, otherwise infinity, or the NaN or the largest magnitude of a format that has no infinity. -/
def Fmt.overflow (f : Fmt) (rm : Rm) (neg sat : Bool) : Nat :=
  let clamp := sat || (match rm with | .rn => false | .rz => true | .ru => neg | .rd => !neg)
  if clamp then f.signed neg f.top else
  match f.inf, f.nan with
  | some i, _ => f.signed neg i
  | none, some n => n
  | none, none => f.signed neg f.top

/-- A positive magnitude rounded once into a format, with OF and UF (02 R34, R43). Tininess is detected after
rounding. -/
def Fmt.round (f : Fmt) (rm : Rm) (sat neg : Bool) (m : Nat) (e : Int) (sticky : Bool) : Nat × BitVec 8 :=
  if m = 0 then
    if sticky then
      -- a nonzero magnitude below everything kept: as a quarter of the least subnormal
      let up := match rm with | .ru => !neg | .rd => neg | _ => false
      (f.signed neg up.toNat, flagUF)
    else (f.signed neg 0, 0)
  else
  let top : Int := (Nat.log2 m : Int) + e
  let emin : Int := 1 - f.bias
  let q := (if top < emin then emin else top) - f.mbits
  let (r, inexact) := roundAt rm neg m e sticky q
  let code := (q - (emin - f.mbits)).toNat * 2 ^ f.mbits + r
  if f.top < code then (f.overflow rm neg sat, flagOF)
  else
    let tiny := top < emin && (roundAt rm neg m e sticky (top - f.mbits)).1 < 2 ^ (f.mbits + 1) ||
      top < emin - 1
    (f.signed neg code, flagIf (tiny && inexact) flagUF)

/-- A value rounded once into a format (02 R34, R43). An infinity under `.sat`, and in a format without one,
overflows. -/
def Fmt.encode (f : Fmt) (rm : Rm) (sat : Bool) : XVal → Nat × BitVec 8
  | .nan => (f.quiet, flagIf f.nan.isNone flagNV)
  | .inf neg =>
    if sat then (f.signed neg f.top, flagOF) else
    match f.inf with
    | some i => (f.signed neg i, 0)
    | none => (f.overflow .rn neg sat, flagOF)
  | .fin neg m e => f.round rm sat neg m e false

/-! ### Exact arithmetic -/

/-- The negative of a value. -/
def XVal.negate : XVal → XVal
  | .nan => .nan
  | .inf n => .inf !n
  | .fin n m e => .fin (!n) m e

/-- A signed mantissa. -/
def signedInt (neg : Bool) (m : Nat) : Int := if neg then -(m : Int) else m

/-- An exact sum and NV for ∞ − ∞ (02 R51). An exact zero sum is −0 when rounding down or when both are −0. -/
def XVal.add (rm : Rm) : XVal → XVal → XVal × BitVec 8
  | .nan, _ => (.nan, 0)
  | _, .nan => (.nan, 0)
  | .inf a, .inf b => if a == b then (.inf a, 0) else (.nan, flagNV)
  | .inf a, .fin .. => (.inf a, 0)
  | .fin .., .inf b => (.inf b, 0)
  | .fin na ma ea, .fin nb mb eb =>
    let e := if ea ≤ eb then ea else eb
    let v := signedInt na (ma * 2 ^ (ea - e).toNat) + signedInt nb (mb * 2 ^ (eb - e).toNat)
    if v = 0 then
      (.fin (if ma = 0 && mb = 0 && na == nb then na else (match rm with | .rd => true | _ => false)) 0 0, 0)
    else (.fin (v < 0) v.natAbs e, 0)

/-- An exact product and NV for 0 × ∞ (02 R51). -/
def XVal.mul : XVal → XVal → XVal × BitVec 8
  | .nan, _ => (.nan, 0)
  | _, .nan => (.nan, 0)
  | .inf a, .inf b => (.inf (a != b), 0)
  | .inf a, .fin b m _ => if m = 0 then (.nan, flagNV) else (.inf (a != b), 0)
  | .fin a m _, .inf b => if m = 0 then (.nan, flagNV) else (.inf (a != b), 0)
  | .fin na ma ea, .fin nb mb eb => (.fin (na != nb) (ma * mb) (ea + eb), 0)

/-- The exact sum of a list and the NV of its terms and of ∞ − ∞. -/
def XVal.sum (xs : List XVal) : XVal × BitVec 8 :=
  xs.foldl (fun acc x => let r := XVal.add .rn acc.1 x; (r.1, acc.2 ||| r.2)) (.fin false 0 0, 0)

/-- Whether a value is zero. -/
def XVal.isZero : XVal → Bool
  | .fin _ 0 _ => true
  | _ => false

/-- Whether a value is a NaN. -/
def XVal.isNan : XVal → Bool
  | .nan => true
  | _ => false

/-- Whether a value is finite. -/
def XVal.isFinite : XVal → Bool
  | .fin .. => true
  | _ => false

/-- An exact comparison of two finite or infinite values: whether the first is less. -/
def XVal.lt : XVal → XVal → Bool
  | .fin na ma ea, .fin nb mb eb =>
    let e := if ea ≤ eb then ea else eb
    signedInt na (ma * 2 ^ (ea - e).toNat) < signedInt nb (mb * 2 ^ (eb - e).toNat)
  | .inf n, .inf k => n && !k
  | .inf n, .fin .. => n
  | .fin .., .inf k => !k
  | _, _ => false

/-- Whether two values that are no NaN are equal; the zeros are equal. -/
def XVal.eq (a b : XVal) : Bool := !a.isNan && !b.isNan && !a.lt b && !b.lt a

/-! ### FP32 operations (07 R125, R126) -/

/-- An FP32 operand: its value, FTZ applied, and NV for a signalling NaN (02 R34). -/
def f32In (ftz : Bool) (w : W32) : XVal × BitVec 8 :=
  let n := w.toNat
  if ftz && fp32.subnormal n then (.fin (w.getLsbD 31) 0 0, 0)
  else (fp32.decode n, flagIf (fp32.signalling n) flagNV)

/-- An FP32 result with its flags: FTZ flushes a subnormal result and sets UF (02 R34). -/
def f32Out (ftz : Bool) (r : Nat × BitVec 8) : W32 × BitVec 8 :=
  if ftz && fp32.subnormal r.1 then (BitVec.ofNat 32 (r.1 / 2 ^ 31 * 2 ^ 31), r.2 ||| flagUF)
  else (BitVec.ofNat 32 r.1, r.2)

/-- A value rounded to FP32. -/
def f32Round (rm : Rm) (ftz : Bool) (x : XVal × BitVec 8) : W32 × BitVec 8 :=
  let r := fp32.encode rm false x.1
  f32Out ftz (r.1, r.2 ||| x.2)

/-- a + b (07 R125). -/
def f32Add (rm : Rm) (ftz : Bool) (a b : W32) : W32 × BitVec 8 :=
  let x := f32In ftz a
  let y := f32In ftz b
  let r := XVal.add rm x.1 y.1
  f32Round rm ftz (r.1, x.2 ||| y.2 ||| r.2)

/-- a − b. -/
def f32Sub (rm : Rm) (ftz : Bool) (a b : W32) : W32 × BitVec 8 :=
  let x := f32In ftz a
  let y := f32In ftz b
  let r := XVal.add rm x.1 y.1.negate
  f32Round rm ftz (r.1, x.2 ||| y.2 ||| r.2)

/-- a × b. -/
def f32Mul (rm : Rm) (ftz : Bool) (a b : W32) : W32 × BitVec 8 :=
  let x := f32In ftz a
  let y := f32In ftz b
  let r := XVal.mul x.1 y.1
  f32Round rm ftz (r.1, x.2 ||| y.2 ||| r.2)

/-- a × b + c, rounded once; 0 × ∞ sets NV even when c is a NaN. -/
def f32Fma (rm : Rm) (ftz : Bool) (a b c : W32) : W32 × BitVec 8 :=
  let x := f32In ftz a
  let y := f32In ftz b
  let z := f32In ftz c
  let p := XVal.mul x.1 y.1
  let r := XVal.add rm p.1 z.1
  f32Round rm ftz (r.1, x.2 ||| y.2 ||| z.2 ||| p.2 ||| r.2)

/-- A quotient of positive magnitudes with enough bits to round once. -/
def divBits (ma mb : Nat) (bits : Nat) : Nat × Bool :=
  let n := ma * 2 ^ bits
  (n / mb, n % mb != 0)

/-- a ÷ b, rounded once, with DZ (02 R51). -/
def f32Div (rm : Rm) (ftz : Bool) (a b : W32) : W32 × BitVec 8 :=
  let x := f32In ftz a
  let y := f32In ftz b
  let nv := x.2 ||| y.2
  match x.1, y.1 with
  | .nan, _ => (0x7FC00000, nv)
  | _, .nan => (0x7FC00000, nv)
  | .inf _, .inf _ => (0x7FC00000, nv ||| flagNV)
  | .inf s, .fin t _ _ => (BitVec.ofNat 32 (fp32.signed (s != t) 0x7F800000), nv)
  | .fin s _ _, .inf t => (BitVec.ofNat 32 (fp32.signed (s != t) 0), nv)
  | .fin s ma ea, .fin t mb eb =>
    if mb = 0 then
      if ma = 0 then (0x7FC00000, nv ||| flagNV)
      else (BitVec.ofNat 32 (fp32.signed (s != t) 0x7F800000), nv ||| flagDZ)
    else
      let q := divBits ma mb 64
      let r := fp32.round rm false (s != t) q.1 (ea - eb - 64) q.2
      f32Out ftz (r.1, r.2 ||| nv)

/-- The integer square root by bits: the largest r with r² ≤ n, searched from bit `k − 1` down. -/
def isqrtFrom (n : Nat) : Nat → Nat → Nat
  | 0, r => r
  | k + 1, r =>
    let t := r + 2 ^ k
    isqrtFrom n k (if t * t ≤ n then t else r)

/-- The integer square root. -/
def isqrt (n : Nat) : Nat := isqrtFrom n (Nat.log2 n / 2 + 1) 0

/-- √a (07 R125). -/
def f32Sqrt (rm : Rm) (ftz : Bool) (a : W32) : W32 × BitVec 8 :=
  let x := f32In ftz a
  match x.1 with
  | .nan => (0x7FC00000, x.2)
  | .inf true => (0x7FC00000, flagNV)
  | .inf false => (0x7F800000, 0)
  | .fin neg m e =>
    if m = 0 then (BitVec.ofNat 32 (fp32.signed neg 0), 0)
    else if neg then (0x7FC00000, flagNV)
    else
      let odd := (e % 2).toNat
      let n := m * 2 ^ (odd + 80)
      let r := isqrt n
      f32Out ftz (fp32.round rm false false r ((e - odd) / 2 - 40) (r * r != n))

/-- 1/a, rounded to nearest (07 R125). -/
def f32Rcp (ftz : Bool) (a : W32) : W32 × BitVec 8 :=
  let x := f32In ftz a
  match x.1 with
  | .nan => (0x7FC00000, x.2)
  | .inf s => (BitVec.ofNat 32 (fp32.signed s 0), 0)
  | .fin s m e =>
    if m = 0 then (BitVec.ofNat 32 (fp32.signed s 0x7F800000), flagDZ)
    else
      let q := divBits 1 m 96
      f32Out ftz (fp32.round .rn false s q.1 (-e - 96) q.2)

/-- 1/√a, rounded to nearest. -/
def f32Rsq (ftz : Bool) (a : W32) : W32 × BitVec 8 :=
  let x := f32In ftz a
  match x.1 with
  | .nan => (0x7FC00000, x.2)
  | .inf s => if s then (0x7FC00000, flagNV) else (0, 0)
  | .fin s m e =>
    if m = 0 then (BitVec.ofNat 32 (fp32.signed s 0x7F800000), 0)
    else if s then (0x7FC00000, flagNV)
    else
      let odd := (e % 2).toNat
      let k := m * 2 ^ odd
      let n := 2 ^ 160 / k
      let r := isqrt n
      f32Out ftz (fp32.round .rn false false r (-((e - odd) / 2) - 80) (r * r * k != 2 ^ 160))

/-! ### The functions rounded from the exact value (07 R125)

Each is summed as a series of integers scaled by 2^fixBits; every result that is not exact is irrational, and the
scale leaves more bits than its rounding needs. -/

/-- The scale of the series. -/
abbrev fixBits : Nat := 384

/-- Σ t^(2k+1)/(2k+1) from a power already formed: `pow` is t^(2k+1), `sq` is t², both scaled. -/
def atanhSum (sq : Nat) : Nat → Nat → Nat → Nat
  | 0, _, _ => 0
  | n + 1, k, pow => pow / (2 * k + 1) + atanhSum sq n (k + 1) (pow * sq / 2 ^ fixBits)

/-- atanh of a scaled number up to a third. -/
def atanhFix (t : Nat) : Nat := atanhSum (t * t / 2 ^ fixBits) 130 0 t

/-- ln 2, scaled: 2 atanh(1/3). -/
def ln2Fix : Nat := 2 * atanhFix (2 ^ fixBits / 3)

/-- Σ y^k/k! from a term already formed. -/
def expSum (y : Nat) : Nat → Nat → Nat → Nat
  | 0, _, _ => 0
  | n + 1, k, term => term + expSum y n (k + 1) (term * y / 2 ^ fixBits / (k + 1))

/-- 2^f for a scaled f below one. -/
def exp2Fix (f : Nat) : Nat := expSum (f * ln2Fix / 2 ^ fixBits) 100 0 (2 ^ fixBits)

/-- The alternating sum of atan(1/n). -/
def atanSum (n2 : Nat) : Nat → Nat → Nat → Int
  | 0, _, _ => 0
  | j + 1, k, pow => ((pow / (2 * k + 1) : Nat) : Int) - atanSum n2 j (k + 1) (pow / n2)

/-- π, scaled: 16 atan(1/5) − 4 atan(1/239). -/
def piFix : Nat := (16 * atanSum 25 170 0 (2 ^ fixBits / 5) - 4 * atanSum (239 * 239) 60 0 (2 ^ fixBits / 239)).toNat

/-- The alternating series of sine or cosine from a term already formed; `k` is the term's degree. -/
def trigSum (y2 : Nat) : Nat → Nat → Nat → Int
  | 0, _, _ => 0
  | n + 1, k, term => (term : Int) - trigSum y2 n (k + 2) (term * y2 / 2 ^ fixBits / ((k + 1) * (k + 2)))

/-- sin(2πr) for a scaled r of at most an eighth. -/
def sinFix (r : Nat) : Nat :=
  let y := 2 * piFix * r / 2 ^ fixBits
  (trigSum (y * y / 2 ^ fixBits) 50 1 y).toNat

/-- cos(2πr) for a scaled r of at most an eighth. -/
def cosFix (r : Nat) : Nat :=
  let y := 2 * piFix * r / 2 ^ fixBits
  (trigSum (y * y / 2 ^ fixBits) 50 0 (2 ^ fixBits)).toNat

/-- 2^a, rounded to nearest (07 R125). -/
def f32Exp2 (ftz : Bool) (a : W32) : W32 × BitVec 8 :=
  let x := f32In ftz a
  match x.1 with
  | .nan => (0x7FC00000, x.2)
  | .inf s => if s then (0, 0) else (0x7F800000, 0)
  | .fin s m e =>
    if 12 ≤ (Nat.log2 m : Int) + e then
      -- beyond every exponent: overflow, or a magnitude below half the least subnormal
      if s then f32Out ftz (fp32.round .rn false false 0 0 true) else (0x7F800000, flagOF)
    else
      let v := signedInt s m
      let n := if 0 ≤ e then v * 2 ^ e.toNat else v / 2 ^ (-e).toNat
      let f := if 0 ≤ e then 0 else (v % 2 ^ (-e).toNat).toNat * 2 ^ fixBits / 2 ^ (-e).toNat
      if f = 0 && (0 ≤ e || v % 2 ^ (-e).toNat == 0) then f32Out ftz (fp32.round .rn false false 1 n false)
      else f32Out ftz (fp32.round .rn false false (exp2Fix f) (n - fixBits) true)

/-- log2 a, rounded to nearest. -/
def f32Log2 (ftz : Bool) (a : W32) : W32 × BitVec 8 :=
  let x := f32In ftz a
  match x.1 with
  | .nan => (0x7FC00000, x.2)
  | .inf s => if s then (0x7FC00000, flagNV) else (0x7F800000, 0)
  | .fin s m e =>
    if m = 0 then (0xFF800000, flagDZ)
    else if s then (0x7FC00000, flagNV)
    else
      let l := Nat.log2 m
      let n : Int := (l : Int) + e
      if m = 2 ^ l then f32Out ftz (fp32.encode .rn false (.fin (n < 0) n.natAbs 0))
      else
        let t := (m - 2 ^ l) * 2 ^ fixBits / (m + 2 ^ l)
        let frac := 2 * atanhFix t * 2 ^ fixBits / ln2Fix
        let v : Int := n * 2 ^ fixBits + frac
        f32Out ftz (fp32.round .rn false (v < 0) v.natAbs (-(fixBits : Int)) true)

/-- sin or cos of 2πr for a scaled r of at most a quarter: the other function past an eighth. -/
def quarterWave (sine : Bool) (r : Nat) : Nat :=
  if r ≤ 2 ^ fixBits / 8 then (if sine then sinFix r else cosFix r)
  else (if sine then cosFix (2 ^ fixBits / 4 - r) else sinFix (2 ^ fixBits / 4 - r))

/-- sin(2πa) or cos(2πa), rounded to nearest; the argument is reduced exactly. -/
def f32Trig (sine ftz : Bool) (a : W32) : W32 × BitVec 8 :=
  let x := f32In ftz a
  match x.1 with
  | .nan => (0x7FC00000, x.2)
  | .inf _ => (0x7FC00000, flagNV)
  | .fin s m e =>
    -- the fraction of |a|, scaled; exact because |e| ≤ 149
    let f := if 0 ≤ e then 0 else (m % 2 ^ (-e).toNat) * 2 ^ fixBits / 2 ^ (-e).toNat
    let quarter := 2 ^ fixBits / 4
    let k := f / quarter
    let r := f % quarter
    if sine then
      if r = 0 && k % 2 = 0 then (BitVec.ofNat 32 (fp32.signed s 0), 0)
      else if r = 0 then (BitVec.ofNat 32 (fp32.signed (s != (k == 3)) 0x3F800000), 0)
      else
        let v := quarterWave true (if k % 2 = 0 then r else quarter - r)
        f32Out ftz (fp32.round .rn false (s != (2 ≤ k : Bool)) v (-(fixBits : Int)) true)
    else
      if r = 0 && k % 2 = 1 then (0, 0)
      else if r = 0 then (BitVec.ofNat 32 (fp32.signed (k == 2) 0x3F800000), 0)
      else
        let v := quarterWave false (if k % 2 = 0 then r else quarter - r)
        f32Out ftz (fp32.round .rn false (k == 1 || k == 2) v (-(fixBits : Int)) true)

/-- A value rounded to an integer in a direction. -/
def XVal.toIntegral (rm : Rm) (neg : Bool) (m : Nat) (e : Int) : Nat :=
  if m = 0 then 0 else (roundAt rm neg m e false 0).1

/-- a rounded to an integral value (07 R125). -/
def f32Rnd (rm : Rm) (ftz : Bool) (a : W32) : W32 × BitVec 8 :=
  let x := f32In ftz a
  match x.1 with
  | .nan => (0x7FC00000, x.2)
  | .inf s => (BitVec.ofNat 32 (fp32.signed s 0x7F800000), 0)
  | .fin s m e => (BitVec.ofNat 32 (fp32.encode .rz false (.fin s (XVal.toIntegral rm s m e) 0)).1, 0)

/-- The smaller or larger of two FP32 operands: −0 below +0, a lone NaN gives the other (07 R126). -/
def f32MinMax (max : Bool) (ftz : Bool) (a b : W32) : W32 × BitVec 8 :=
  let x := f32In ftz a
  let y := f32In ftz b
  let fl := x.2 ||| y.2
  let a' := if ftz && fp32.subnormal a.toNat then a &&& 0x80000000 else a
  let b' := if ftz && fp32.subnormal b.toNat then b &&& 0x80000000 else b
  match x.1, y.1 with
  | .nan, .nan => (0x7FC00000, fl)
  | .nan, _ => (b', fl)
  | _, .nan => (a', fl)
  | u, v =>
    let less := u.lt v || (u.isZero && v.isZero && a'.getLsbD 31 && !b'.getLsbD 31)
    (if less != max then a' else b', fl)

/-- An FP32 comparison (07 R126): code 0 eq, 1 ne, 2 lt, 3 le, 4 gt, 5 ge, 6 ord, 7 unord (05 R78). -/
def f32Cmp (cc : Nat) (ftz : Bool) (a b : W32) : Bool × BitVec 8 :=
  let x := f32In ftz a
  let y := f32In ftz b
  let un := x.1.isNan || y.1.isNan
  let fl := x.2 ||| y.2
  let fl' := fl ||| flagIf un flagNV
  match cc with
  | 0 => (!un && x.1.eq y.1, fl)
  | 1 => (un || !x.1.eq y.1, fl)
  | 2 => (!un && x.1.lt y.1, fl')
  | 3 => (!un && !y.1.lt x.1, fl')
  | 4 => (!un && y.1.lt x.1, fl')
  | 5 => (!un && !x.1.lt y.1, fl')
  | 6 => (!un, fl)
  | _ => (un, fl)

/-- The class mask of an FP32 code (07 R127). -/
def f32Class (a : W32) : W32 :=
  let n := a.toNat
  let neg := a.getLsbD 31
  let mag := n % 2 ^ 31
  if mag = 0 then (if neg then 8 else 16)
  else if mag < 0x00800000 then (if neg then 4 else 32)
  else if mag < 0x7F800000 then (if neg then 2 else 64)
  else if mag = 0x7F800000 then (if neg then 1 else 128)
  else if fp32.signalling n then 256 else 512

/-- A value converted to an integer range, clamped with NV (02 R43). -/
def toIntClamp (rm : Rm) (lo hi : Int) (x : XVal × BitVec 8) : Int × BitVec 8 :=
  match x.1 with
  | .nan => (0, flagNV)
  | .inf s => (if s then lo else hi, flagNV)
  | .fin s m e =>
    let v := signedInt s (XVal.toIntegral rm s m e)
    if v < lo then (lo, flagNV) else if hi < v then (hi, flagNV) else (v, x.2)

/-- An integer as an exact value. -/
def XVal.ofInt (v : Int) : XVal := .fin (v < 0) v.natAbs 0

/-! ### Elements and exact sums that dot products share (02 R37, R38, R47) -/

/-- Element i of four in a word. -/
def byteOf (w : W32) (i : Nat) : Nat := w.toNat / 2 ^ (8 * i) % 256

/-- The exact sum of terms: a NaN for a NaN term, NV for ∞ − ∞ without one. -/
def exactSum (xs : List XVal) : XVal × BitVec 8 :=
  if xs.any XVal.isNan then (.nan, 0) else XVal.sum xs

/-- An 8-bit element as an integer. -/
def byteInt (unsigned : Bool) (n : Nat) : Int := if !unsigned && 128 ≤ n then (n : Int) - 256 else n

/-- An E3M5 scale in units of 2^−7; none for the poisoned scale. -/
def scaleUnits (code : Nat) : Option Nat :=
  if code = 255 then none
  else some (if code / 32 = 0 then code % 32 else (32 + code % 32) * 2 ^ (code / 32 - 1))

end Sys2Proof.Machine
end

