-- ==== Sys2Proof/Machine/Counters.lean ====
section
/-! DEFINITION. Random draws (07 R133) and the arithmetic of cruise counters (11 R211 to R217). -/

namespace Sys2Proof.Machine

/-- Rounds of Philox-4x32-10. -/
def philoxRounds : Nat → W32 → W32 → W32 → W32 → W32 → W32 → W32 × W32 × W32 × W32
  | 0, _, _, x0, x1, x2, x3 => (x0, x1, x2, x3)
  | n + 1, k0, k1, x0, x1, x2, x3 =>
    let p0 : W64 := (0xD2511F53 : W64) * x0.zeroExtend 64
    let p1 : W64 := (0xCD9E8D57 : W64) * x2.zeroExtend 64
    philoxRounds n (k0 + 0x9E3779B9) (k1 + 0xBB67AE85)
      (p1.extractLsb' 32 32 ^^^ x1 ^^^ k0) (p1.setWidth 32) (p0.extractLsb' 32 32 ^^^ x3 ^^^ k1) (p0.setWidth 32)

/-- The four words of a draw. -/
def philox (k0 k1 x0 x1 x2 x3 : W32) : W32 × W32 × W32 × W32 := philoxRounds 10 k0 k1 x0 x1 x2 x3

/-- The largest level of a counter of a page class (11 R211). -/
def levelMax (cls : Nat) : Nat := if cls = 1 then 15 else 255

/-- The level of a counter in its byte (02 R41). -/
def levelIn (cls : Nat) (odd : Bool) (b : Byte) : Nat :=
  if cls = 1 then (if odd then b.toNat / 16 else b.toNat % 16) else b.toNat

/-- The byte with a counter's level replaced; the other counter of a CRUISE4 byte stays (11 R219). -/
def levelPut (cls : Nat) (odd : Bool) (b : Byte) (level : Nat) : Byte :=
  if cls = 1 then (if odd then BitVec.ofNat 8 (b.toNat % 16 + 16 * level) else BitVec.ofNat 8 (b.toNat / 16 * 16 + level))
  else BitVec.ofNat 8 level

/-- The weight num × 2^−exp and the step b^L brought to one denominator: the two numerators and its exponent. -/
def alignStep (k level num exp : Nat) : Nat × Nat × Nat :=
  let f := k * level
  let m := max exp f
  (num * 2 ^ (m - exp), (2 ^ k + 1) ^ level * 2 ^ (m - f), m)

/-- The levels that a weight climbs without a draw: the level and the weight that is left (11 R216). -/
def climb (k top : Nat) : Nat → Nat → Nat → Nat → Nat × Nat × Nat
  | 0, level, num, exp => (level, num, exp)
  | fuel + 1, level, num, exp =>
    if num = 0 || top ≤ level then (level, num, exp)
    else
      let a := alignStep k level num exp
      if a.2.1 ≤ a.1 then climb k top fuel (level + 1) (a.1 - a.2.1) a.2.2 else (level, num, exp)

/-- A counter being raised: its level, the draws its lane has taken, its flags. -/
structure Raise where
  level : Nat
  draws : Nat
  flags : BitVec 8
  deriving DecidableEq, Repr

/-- One weight added (11 R216); `draw j` is the draw of count j. -/
def Raise.add (draw : Nat → W32) (k top : Nat) (x : Raise) (num exp : Nat) : Raise :=
  let r := climb k top (top + 1) x.level num exp
  if r.2.1 = 0 then { x with level := r.1 }
  else if top ≤ r.1 then { x with level := r.1, flags := x.flags ||| flagCSAT }
  else
    let a := alignStep k r.1 r.2.1 r.2.2
    let up := (draw x.draws).toNat < 2 ^ 32 * a.1 / a.2.1
    { x with level := if up then r.1 + 1 else r.1, draws := x.draws + 1 }

/-- The draw of a lane's count j for a counter (11 R213, R214). -/
def cruiseDraw (seedlo seedhi cseq index : W32) (lane j : Nat) : W32 :=
  (philox seedlo seedhi index 0 (BitVec.ofNat 32 (32 * (cseq.toNat + j) + lane)) 0).1

/-- The estimate of a level, rounded to nearest, and OF above the range (11 R212, R218). -/
def estimate (k level : Nat) : W32 × BitVec 8 :=
  let r := fp32.round .rn false false (((2 ^ k + 1) ^ level - 2 ^ (k * level)) * 2 ^ k) (-((k * level : Nat) : Int)) false
  (BitVec.ofNat 32 r.1, r.2)

end Sys2Proof.Machine
end

