-- ==== Sys2Proof/Machine/State.lean ====
section
/-! DEFINITION. The state of the device: the group in focus, every other group, teams, grids, cores, contexts, queues,
physical memory, engines, firmware and host records; and the state after reset. Plain data throughout. -/

namespace Sys2Proof.Machine

/-! ### What stands outside the instruction words -/

/-- What a trap reports about its cause (18 R289): the fields that the trap record takes from the trapping
instruction; the others come from the group's state when the trap is taken. -/
structure TrapReq where
  code   : BitVec 8
  lane   : Bool        -- the stream: lane or scalar
  fmask  : W32
  sub    : BitVec 8
  num    : BitVec 8
  events : BitVec 8
  faddr  : W64
  iaddr  : W64
  deriving DecidableEq, Repr

/-- A firmware image (24 R329): its header, body, public key and signature. The magic, version, length and security version
are read from the header's bytes. -/
structure Image where
  complete : Bool      -- its transfer completed (24 R331: failure 5)
  header   : List Byte
  body     : List Byte
  key      : List Byte
  sig      : List Byte
  deriving DecidableEq, Repr

/-- Where an offered image comes from (24 R328). -/
inductive ImageSource where
  | host
  | management
  | nvme
  deriving DecidableEq, Repr

/-- The mailbox command that creates a context (24 R325), with the cores and pools firmware then gives it
(18 R270, R276, R279). -/
structure ContextArgs where
  ptRoot  : Nat
  queues  : List (Nat × BitVec 3 × Nat × Nat)   -- (queue, priority, ring base, log2 of its packets) (24 R321)
  det     : Bool
  spchk   : Bool
  slice   : Nat
  cores   : List Nat
  frameVa : Nat
  framePa : Nat
  frames  : Nat
  records : Nat
  recordPa : Nat                     -- the base of the task pool (18 R279)
  trapVa  : Nat                      -- where firmware maps the groups' trap frames (18 R289)
  trapPa  : Nat
  rings   : List (Nat × Nat × Bool)  -- (ring, header address, PRIV) (22 R301)
  peers   : List (Nat × Nat)         -- (peer index, device) (13 R242)
  deriving DecidableEq, Repr

/-- A code object offered for loading (03 R66): its bytes and the physical address firmware lays them at. -/
structure CodeObject where
  bytes : List Byte
  pa    : Nat
  deriving DecidableEq, Repr

/-- One participant of a collective other than this device (22 R306): its rank, its descriptor's bytes and its
contribution as bytes. -/
structure Participant where
  rank : Nat
  desc : List Byte
  data : List Byte
  deriving DecidableEq, Repr

/-- A host access to device memory (24 R324). -/
inductive HostAccess where
  | read (pa n : Nat)
  | future (pa : Nat)                         -- a future word's value and full state
  | bootStat                                  -- over the management port (24 R331)
  | barRead (off : Nat)                       -- a 64-bit word of BAR0 (24 R321, R331)
  | barWrite (off : Nat) (value : W64)
  | pcieWrite (pa : Nat) (data : List Byte)
  | cxlWrite (pa : Nat) (data : List Byte)
  deriving DecidableEq, Repr

/-- An access from another device that arrives at this device's home slice (13 R242). -/
inductive PeerAccess where
  | read (pa n : Nat)
  | write (pa : Nat) (data : List Byte)
  | atomic (pa : Nat) (op : BitVec 4) (operand compare : W32)
  | scalarAtomic (pa : Nat) (op : BitVec 4) (operand compare : W64)   -- 06 R93, by SA's function code
  | put (pa : Nat) (value : W64)
  | get (pa : Nat)
  | try_ (pa : Nat)
  | clear (pa : Nat)
  deriving DecidableEq, Repr

/-- The operands of a step that has no encoding. Each such step reads the fields it names and no others. -/
structure EvArgs where
  gid     : Nat := 0
  core    : Nat := 0
  ctx     : Nat := 0
  n       : Nat := 0
  die     : Nat := 0
  ring    : Nat := 0
  req     : Nat := 0
  link    : Nat := 0
  device  : Nat := 0
  va      : W64 := 0
  mapped  : Bool := false
  cls     : Nat := 0
  bin     : Nat := 0
  grid    : Nat := 0
  team    : Nat := 0
  nextCtx : Nat := 0
  queue   : Nat := 0
  count   : W64 := 0
  prio    : BitVec 3 := 0
  svn     : W32 := 0
  nonce   : List Byte := []
  trap    : TrapReq := ⟨0, false, 0, 0, 0, 0, 0, 0⟩
  parts   : List Participant := []
  context : ContextArgs := ⟨0, [], false, false, 0, [], 0, 0, 0, 0, 0, 0, 0, [], []⟩
  object  : CodeObject := ⟨[], 0⟩
  image   : Image := ⟨false, [], [], [], []⟩
  source  : ImageSource := .host
  host    : HostAccess := .read 0 0
  peer    : PeerAccess := .read 0 0
  teams   : List Nat := []
  frames  : Nat := 0
  records : Nat := 0
  deriving DecidableEq, Repr

/-! ### A group (01 R11) -/

/-- The state of a handle register (01 R18). ERROR keeps the class of the operation, which HMOV needs (06 R111), and
the byte address at which it failed (02 R52). -/
inductive HandleState where
  | free
  | pending
  | done
  | error (code : BitVec 8) (cls : BitVec 2) (addr : W64)
  deriving DecidableEq, Repr

/-- The STATE field of a split-table entry (01 R20). -/
inductive SplitState where
  | empty
  | ready
  | waiting
  | atToken
  | stopped
  deriving DecidableEq, Repr

/-- What a blocked stream or split waits for. -/
inductive Wait where
  | join                       -- the outstanding lane call (06 R97)
  | awaitg                     -- the group frame's join count (06 R100)
  | engines                    -- the four engine counters (06 R101)
  | barrier (phase : Nat)      -- the team barrier (06 R103)
  | cbarrier (phase : Nat)     -- the cluster barrier (06 R103)
  | future                     -- a future word (06 R104)
  | counter (cls n : Nat)      -- WAITC (06 R110)
  | handle (h : Nat)           -- WAITH (06 R111)
  | room (cls : Nat)           -- an engine command whose class counter is full (06 R106)
  | busy (h : Nat)             -- an engine command or HMOV whose handle is pending (06 R106, R111; 01 R18)
  | vblocks (n : Nat)          -- VACQ (01 R14)
  | tiles (n : Nat)            -- TACQ (01 R15)
  | qclaim (bank : Nat)        -- 06 R114
  | qpop (bank : Nat)          -- 06 R114
  | frames                     -- a frame pool without a free frame (18 R276)
  | records                    -- a task pool without room (18 R279)
  | meld                       -- another split's melded region (08 R162)
  | copying                    -- a VCOPY with steps left, which goes on at once (08 R152)
  | suspended                  -- a translation fault that firmware has not resolved (18 R286)
  deriving DecidableEq, Repr

/-- One entry of the split table (01 R20), with its last lane issue slot (08 R155), what it waits for, the token and
next instruction of the LRECONV where it stands AT-TOKEN (08 R159), the lanes that an LSPAWN blocked on a full pool
has already served (08 R165), and the flags of a VCOPY's earlier steps, which its retirement raises (02 R53; 08 R152). -/
structure Split where
  mask  : W32
  lpc   : W32
  token : BitVec 10
  state : SplitState
  meld  : Bool
  last  : Nat
  wait  : Option Wait
  site  : BitVec 10 := 0
  next  : W32 := 0
  done  : W32 := 0
  flags : BitVec 8 := 0
  deriving DecidableEq, Repr

/-- An EMPTY entry. -/
def Split.none : Split := ⟨0, 0, 0, .empty, false, 0, Option.none, 0, 0, 0, 0⟩

/-- A renaming table in its slot (01 R19): the table's address and its 128 entries. -/
structure RenTable where
  addr    : W64
  entries : List (BitVec 10)
  deriving DecidableEq, Repr

/-- The meld state (08 R162): the path of each lane, the active slot and the table loaded there. -/
structure Meld where
  path : W32
  slot : Nat
  deriving DecidableEq, Repr

/-- A long-latency result in flight (01 R20, 03 R62): its destination registers with their tag and lanes, and the
window that each split still counts. -/
structure Landing where
  writes : List (Nat × BitVec 4 × List (Nat × W32))   -- register, tag, (lane, value)
  lanes  : W32                                        -- the lanes of the split that issued it
  left   : SMap Nat                                   -- by lane of a split with its window: 1 + the instructions left in it
  wakes  : Bool                                       -- its lanes form a WAITING entry that it makes READY (08 R148)
  landed : Bool                                       -- it has landed; only its windows remain
  bad    : List Nat := []                             -- its elements with uncorrectable errors: register × 32 + lane (02 R50)
  deriving DecidableEq, Repr

/-- A value with a set of lanes: of a scalar register that the call wrote, or of an element of a vector register by its
key. The lanes are those of the split that wrote it and of every split that has rejoined that one since. -/
structure Marked where
  key   : Nat
  value : W32
  lanes : W32
  deriving DecidableEq, Repr

/-- A lane call in progress (01 R13, R29): the scalar snapshot, the lane-written set with every write that no
reconvergence has put in order, newest first, the values latched at LCALL and the draw counts. -/
structure LaneCall where
  snap    : SMap W64
  written : List Marked
  tilew   : BitVec 6
  fmode   : BitVec 6
  seedlo  : W32
  seedhi  : W32
  cseq    : W32
  draws   : SMap Nat
  raised  : BitVec 8           -- flags that the call turned on and SRD may still leave out (01 R24)
  past    : List Marked        -- values that elements held before a write by a divided split (07 R121)
  stale   : List Marked        -- values that elements held before a VINS of another split, which made them (07 R121)
  id      : Nat := 0           -- its number among the group's lane calls
  deriving DecidableEq, Repr

/-- The trap state saved beside one trap record (01 R11; 18 R287). -/
structure TrapSave where
  frame    : W64
  code     : BitVec 8         -- the cause
  fmask    : W32              -- the fault mask
  call     : Option LaneCall
  splits   : List Split
  overflow : List Split
  meld     : Option Meld
  lanebase : W64
  priv     : Bool
  entry    : Nat              -- the faulting split's entry, for a lane trap
  deliver  : Option W64       -- what its abandoned FGET had been delivered
  lane     : Bool
  tlanes   : W32              -- the handler's lane set (18 R290)
  deriving DecidableEq, Repr

/-- One event class of a group (01 R25, 02 R53). -/
structure EventCount where
  count : Nat
  start : Nat
  isOpen : Bool
  deriving DecidableEq, Repr

/-- Where a group stands in its life (18 R274, R281, R288). -/
inductive RunState where
  | absent
  | waiting                    -- its team is not resident
  | resident
  | parked
  | exited                     -- it has exited; its end is not yet counted (06 R101)
  | failing                    -- it halted and drains (18 R288)
  | failed                     -- it ended in error; its end is not yet counted
  | ended                      -- its end has been counted
  deriving DecidableEq, Repr

/-- A line of code held by a core's instruction caches (03 R64): physical line number (128 bytes) and its bytes. -/
structure CodeLine where
  line  : Nat
  bytes : List Byte
  deriving DecidableEq, Repr

/-- A group (01 R11). -/
structure Group where
  gid      : Nat                        -- the model's number for it; 0 for no group
  ctx      : Nat
  core     : Nat                        -- die × 64 + CORE
  team     : Nat
  index    : Nat                        -- GROUPIDX
  run      : RunState
  spc      : W64
  priv     : Bool
  sregs    : SMap W64
  vregs    : SMap W32                   -- register × 32 + lane
  vtags    : SMap (BitVec 4)
  kregs    : SMap W32
  tregs    : SMap W32                   -- (tile × 32 + row) × 128 + column
  ttags    : SMap (BitVec 4)
  blocks   : Nat
  tiles    : Nat
  handles  : SMap HandleState
  splits   : List Split
  overflow : List Split
  slot     : Nat                        -- lane issue slots so far (08 R155)
  call     : Option LaneCall
  calls    : Nat                        -- lane calls made so far
  ren      : List (Option RenTable)     -- the two renaming slots
  renOld   : Nat                        -- the slot used less recently
  meld     : Option Meld
  landings : List Landing
  counters : SMap Nat                   -- engine counters by class
  latches  : SMap (BitVec 8 × W64)      -- class error latch: code and byte address, (0, 0) for none
  unacked  : Nat                        -- unacknowledged-store counter
  stamp    : BitVec 8                   -- acquire stamp
  depth    : Nat                        -- trap depth
  saves    : List TrapSave              -- innermost first
  role     : BitVec 8
  tilew    : BitVec 6
  fmode    : BitVec 6
  flags    : BitVec 8
  seedlo   : W32
  seedhi   : W32
  cseq     : W32
  lanebase : W64
  events   : SMap EventCount            -- by class
  gframe   : Nat                        -- group frame address, 0 for none (06 R99)
  tasks    : SMap Nat                   -- lane: 1 + the frame its task's end reports to
  wframes  : SMap Nat                   -- trap depth × 32 + lane: its wait frame address
  entryVa  : W64                        -- its entry descriptor's address
  wait     : Option Wait                -- what the scalar stream waits for
  since    : Nat                        -- clock at which it began to wait
  parkable : Bool                       -- a WAITC or WAITH has waited longer than PARKT (18 R281)
  arrived  : Bool                       -- it has arrived at its team barrier and not departed
  carrived : Bool                       -- the same for its cluster barrier
  phase    : Nat                        -- team phases departed
  cphase   : Nat                        -- cluster phases departed
  named    : Nat                        -- 1 when the last phase named it
  deliver  : Option W64                 -- what an FPUT delivered to its waiting FGET (06 R104)
  mapping  : Bool                       -- firmware has answered its translation fault
  declined : Bool                       -- firmware has declined to map: the fault becomes trap 0x04 (18 R286)
  seat     : Nat                        -- its issue-scheduler slot: scheduler × 8 + slot (18 R274, R280)
  lastRun  : Nat                        -- its scheduler's clock at its last issue, 0 for none (18 R280)
  yielded  : Bool                       -- YIELD defers it for a round (06 R102)
  lastLane : Bool                       -- its last issue was from the lane stream
  leftover : List (Nat × CodeLine)      -- code it may have fetched before an ICINV, by number, that it is not ordered after (03 R65)
  poison   : List Nat                   -- uncorrectable errors (02 R50): V element × 32 + lane, 16384 + tile word, 32768 + scalar
  due      : BitVec 8                   -- event classes whose trap a performed no-return operation asks for (02 R53)
  dueAt    : W64                        -- that operation's instruction
  deriving DecidableEq, Repr

/-- A group that does not exist, with the starting values of 01 R26. -/
def Group.none : Group where
  gid := 0
  ctx := 0
  core := 0
  team := 0
  index := 0
  run := .absent
  spc := 0
  priv := false
  sregs := []
  vregs := []
  vtags := []
  kregs := []
  tregs := []
  ttags := []
  blocks := 0
  tiles := 0
  handles := []
  splits := List.replicate 8 Split.none
  overflow := []
  slot := 0
  call := Option.none
  calls := 0
  ren := [Option.none, Option.none]
  renOld := 0
  meld := Option.none
  landings := []
  counters := []
  latches := []
  unacked := 0
  stamp := 0
  depth := 0
  saves := []
  role := 0
  tilew := 32
  fmode := 8
  flags := 0
  seedlo := 0
  seedhi := 0
  cseq := 0
  lanebase := 0
  events := []
  gframe := 0
  tasks := []
  wframes := []
  entryVa := 0
  wait := Option.none
  since := 0
  parkable := false
  arrived := false
  carrived := false
  phase := 0
  cphase := 0
  named := 0
  deliver := Option.none
  mapping := false
  declined := false
  seat := 0
  lastRun := 0
  yielded := false
  lastLane := false
  leftover := []
  poison := []
  due := 0
  dueAt := 0

/-! ### Teams, grids, frames and tasks -/

/-- A parsed entry descriptor (18 R272). -/
structure Descriptor where
  scalar   : W64
  lanebase : W64
  ccols    : Nat
  crows    : Nat
  groups   : Nat             -- groups per team, 1 to 32
  scratch  : Nat
  tiles    : Nat
  regs     : Nat
  priv     : Bool
  kind     : Nat
  fdepth   : Nat
  btimer   : Nat
  roles    : List Byte
  deriving DecidableEq, Repr

/-- A task record (18 R277): its fields, and what the device knows of it besides: whether it is a continuation's, whose
FRAME is its own wait frame, the host grid at the root of its spawn tree, and the group and the team and phase that
spawned it (23 R315), zero for none. -/
structure TaskRecord where
  entry : W64
  arg0  : W32
  arg1  : W32
  frame : Nat
  prio  : BitVec 3
  key   : W64
  cont  : Bool
  root  : Nat
  by_   : Nat := 0
  pg    : W32 := 0
  pt    : W32 := 0
  pfrom : Nat := 0
  know  : List Nat := []         -- the ICINVs that its spawn is ordered after (03 R65; 13 R233)
  deriving DecidableEq, Repr

/-- A record of zeros. -/
def TaskRecord.zero : TaskRecord := ⟨0, 0, 0, 0, 0, 0, false, 0, 0, 0, 0, 0, []⟩

/-- What a grid was started by. -/
inductive Origin where
  | host (queue : Nat) (packetOp : BitVec 8) (done : Nat)
  | spawn (frame : Nat) (parentGroup : Nat)
  | consumer (frame : Nat) (parentGroup : Nat) (core bank slot : Nat) (offset : W64)
  | tasks (records : List TaskRecord)
  deriving DecidableEq, Repr

/-- A grid (01 R10; 23 R315). -/
structure Grid where
  id       : Nat
  ctx      : Nat
  number   : W32             -- grid instance number
  origin   : Origin
  root     : Nat             -- the host grid at the root of its spawn tree; 0 for none
  home     : Option Nat      -- the one core that may admit its teams, if there is one
  desc     : Descriptor
  entryVa  : W64
  args     : W64
  seedlo   : W32
  seedhi   : W32
  prio     : BitVec 3
  nteams   : Nat
  placed   : Nat             -- teams distributed so far: those of lower index
  ahead    : List Nat        -- teams distributed before one of lower index on another core (18 R275)
  ended    : Nat             -- teams whose end has been counted
  failed   : Bool
  descErr  : Bool            -- a context error that its completion reports (18 R272)
  aborted  : Bool            -- cut short by a reset of its context (24 R323)
  pg       : W32
  pt       : W32
  pfrom    : Nat
  pto      : Option Nat
  done     : Bool            -- its end has been counted
  deriving DecidableEq, Repr

/-- Where a team stands (18 R273, R274, R281). -/
inductive TeamState where
  | admitted                 -- never resident
  | resident
  | parked
  | ended                    -- its last group has exited; its end is not yet counted
  | counted
  deriving DecidableEq, Repr

/-- A team. -/
structure Team where
  id       : Nat
  ctx      : Nat
  grid     : Nat
  index    : Nat             -- linear team index
  core     : Nat
  cluster  : List Nat        -- the cores of its cluster, row-major; its own core alone when there is none
  cidx     : Nat             -- CLUSTERIDX
  banks    : List Nat        -- its scratchpad banks in order
  spill    : List (SMap Byte)-- contents of banks spilled at a park, by offset (01 R31)
  state    : TeamState
  prio     : BitVec 3
  ready    : Bool            -- ready for residency (18 R282)
  readyAt  : Nat             -- clock at which it became ready
  aged     : Nat             -- how often its effective priority has risen
  sliced   : Bool            -- parked at the end of a time slice
  groups   : List Nat        -- its groups, in GROUPIDX order
  arrivals : List Nat        -- GROUPIDX of the members that arrived at the open team phase, in order
  phase    : Nat             -- team phases completed
  deriving DecidableEq, Repr

/-- The open cluster phase of a cluster (06 R103), by grid and first team. -/
structure ClusterPhase where
  grid     : Nat
  first    : Nat
  arrivals : List (Nat × Nat) -- (CLUSTERIDX, GROUPIDX) in order
  phase    : Nat
  deriving DecidableEq, Repr

/-- An end that waits to be reported: a task's (06 R101, 08 R167) or a group's (06 R101). -/
structure HeldEnd where
  gid    : Nat               -- the group it belongs to
  task   : Bool              -- a task's end, or the group's own
  wframe : Nat               -- the task's wait frame, 0 for none
  parent : Nat               -- the frame the end reports to, 0 for none
  deriving DecidableEq, Repr

/-- The core where the end took place that brought a wait frame's join count to zero before its lane's LAWAIT
(18 R278). -/
structure ZeroedFrame where
  ctx   : Nat
  frame : Nat
  core  : Nat
  deriving DecidableEq, Repr

/-- A request to firmware to grow a pool of a context: the task pool, or the frame pool (18 R276, R279). -/
structure PoolAsk where
  ctx   : Nat
  tasks : Bool
  deriving DecidableEq, Repr

/-- A wait frame whose lane has left by LAWAIT: its continuation is binned once its join count is zero (08 R166). -/
structure Awaiting where
  ctx   : Nat
  frame : Nat
  core  : Nat
  root  : Nat
  deriving DecidableEq, Repr

/-! ### Cores -/

/-- A line of the L1 data cache (17 R257, R258): physical line number, the bank whose way holds it, stamp and two
sectors of 32 bytes; and the groups that miss in a 32-bit word of it, because they have written or read a value of that
word which the line does not hold (12 R225, R226). -/
structure Line where
  line  : Nat
  way   : Nat
  stamp : BitVec 8
  lo    : Option (List Byte)
  hi    : Option (List Byte)
  behind : List (Nat × Nat)        -- (group, physical address of the word / 4)
  deriving DecidableEq, Repr

/-- The state of a FIFO slot (17 R255). -/
inductive SlotState where
  | free (byEnd : Bool)      -- whether a consumer's end freed it (19 R293)
  | taken
  | queued
  | consuming (grid : Nat)   -- its consumer's grid
  deriving DecidableEq, Repr

/-- The mode of a bank (17 R253). -/
inductive BankMode where
  | cache
  | scratch (owner : Nat)    -- the team that owns it; 0 for none
  | fifo (slotUnits : Nat) (entry : W64) (slots : List SlotState) (queue : List Nat)
  deriving DecidableEq, Repr

/-- A spawn bin (18 R278). -/
structure Bin where
  key     : W64
  records : List TaskRecord
  timer   : Nat              -- clock at which its timer was last started
  waiting : Bool             -- its launch waits for the core to admit it
  ctx     : Nat
  deriving DecidableEq, Repr

/-- A leaf translation with its attributes (17 R262, R264). -/
structure Leaf where
  ctx   : Nat
  va    : Nat                -- first virtual address it maps
  size  : Nat
  entry : W64
  deriving DecidableEq, Repr

/-- A row of an MMA as it is read at issue: the lane, its A words and block scales, and its accumulators (09 R176, R177). -/
structure MmaRow where
  lane   : Nat
  a      : List W32
  scales : List Nat
  acc    : List W32
  deriving DecidableEq, Repr

/-- What an MMA in progress has read: the format code, `.sat`, the band-scale word, the byte offset of its B tile, its rows,
the bytes of the tile, its PC, and the flags it has raised (09 R174, R177). -/
structure MmaInputs where
  fmt   : Nat
  sat   : Bool
  band  : W64
  base  : Nat
  rows  : List MmaRow
  tile  : SMap Byte
  pc    : W64
  flags : BitVec 8
  deriving DecidableEq, Repr

/-- An MMA in progress on a core's array (09 R178): its group and tile, and the words and tag that its completion
writes. -/
structure MmaRun where
  gid    : Nat
  tile   : Nat
  tag    : BitVec 4
  writes : List (Nat × W32)        -- (row × 128 + column, value)
  inputs : Option MmaInputs        -- what a unit of its B tile that changes in its 8 clocks is combined with
  deriving DecidableEq, Repr

/-- A code object's bank table still to apply on a core (17 R332): no team of a grid numbered above `after` is admitted
before it is applied. -/
structure PendingTable where
  ctx   : Nat
  words : List W64
  after : W32
  deriving DecidableEq, Repr

/-- An issue scheduler (18 R280): its clocks so far, the group that last issued from it, the device's clock then, and
its TLB (17 R264). -/
structure Scheduler where
  turn  : Nat
  robin : Nat
  last  : Nat
  tlb   : List Leaf
  deriving DecidableEq, Repr

/-- A core. -/
structure Core where
  id     : Nat
  ctx    : Option Nat
  stamp  : BitVec 8
  lines  : List Line
  banks  : List (Nat × BankMode)   -- rising bank numbers; an unlisted bank is a cache way
  spad   : SMap Byte               -- bank × 131072 + offset
  bstore : SMap Byte
  poison : List Nat                -- B-store bytes with uncorrectable errors (02 R50)
  mma    : Option MmaRun
  bins   : List Bin                -- sixteen
  vreq   : List (Nat × Nat)        -- (group, blocks) waiting, in issue order (01 R14)
  treq   : List (Nat × Nat)        -- (group, tiles) waiting (01 R15)
  qwait  : List (Nat × Nat)        -- (group, bank) waiting in QCLAIM or QPOP (17 R255)
  l1min  : Nat                     -- 17 R254
  tlb    : List Leaf               -- the core TLB (17 R264)
  icache : List CodeLine
  scheds : List Scheduler          -- its four issue schedulers (18 R280)
  tables : List PendingTable       -- bank tables still to apply, in load order (17 R332)
  since  : Nat                     -- clock at which it began to serve its context (18 R284)
  served : Nat                     -- the group that its copy engine served last (22 R300)
  deriving DecidableEq, Repr

/-- A bin that holds nothing. -/
def Bin.none : Bin := ⟨0, [], 0, false, 0⟩

/-- A core after reset. -/
def Core.init (id : Nat) : Core where
  id := id
  ctx := none
  stamp := 0
  lines := []
  banks := []
  spad := []
  bstore := []
  poison := []
  mma := none
  bins := List.replicate 16 Bin.none
  vreq := []
  treq := []
  qwait := []
  l1min := 4
  tlb := []
  icache := []
  scheds := List.replicate 4 ⟨0, 0, 0, []⟩
  tables := []
  since := 0
  served := 0

/-- What a context switch saves of a core for a context: its bank modes and the contents of its banks, its B-store, and
the requests of its parked groups (17 R253; 09 R172; 01 R14, R15, R31). -/
structure CoreSave where
  ctx    : Nat
  core   : Nat
  banks  : List (Nat × BankMode)
  spad   : SMap Byte
  bstore : SMap Byte
  poison : List Nat
  vreq   : List (Nat × Nat)
  treq   : List (Nat × Nat)
  qwait  : List (Nat × Nat)
  deriving DecidableEq, Repr

/-! ### Contexts and queues -/

/-- The stamps of one recorded access (23 R315, R317). -/
structure AccessStamp where
  g : W32
  t : W32
  p : BitVec 5
  f : BitVec 16
  deriving DecidableEq, Repr

/-- A reader slot of a shadow entry (23 R317). -/
structure ReaderSlot where
  valid  : Bool
  xteam  : Bool
  xgroup : Bool
  st     : AccessStamp
  deriving DecidableEq, Repr

/-- A shadow entry (23 R317). -/
structure Shadow where
  wvalid : Bool
  wxteam : Bool
  wop    : BitVec 4
  w      : AccessStamp
  a      : ReaderSlot
  b      : ReaderSlot
  full   : Bool
  deriving DecidableEq, Repr

/-- A stamp of zeros. -/
def AccessStamp.zero : AccessStamp := ⟨0, 0, 0, 0⟩
/-- An empty reader slot. -/
def ReaderSlot.zero : ReaderSlot := ⟨false, false, false, AccessStamp.zero⟩
/-- A cleared shadow entry. -/
def Shadow.zero : Shadow := ⟨false, false, 0, AccessStamp.zero, ReaderSlot.zero, ReaderSlot.zero, false⟩

/-- A ring of a context's ring table (22 R301): its number and header address, PRIV as firmware set it, the counters that
the hardware has written to the header, and whether software has been found to have changed any of these. -/
structure Ring where
  number : Nat
  header : Nat
  priv   : Bool
  prod   : W64
  cons   : W64
  stray  : Bool
  deriving DecidableEq, Repr

/-- A context. -/
structure Context where
  id      : Nat
  det     : Bool
  spchk   : Bool
  orev    : BitVec 4
  crbase  : List (BitVec 3)
  evctl   : List W64
  trapvec : W64
  ptRoot  : Nat
  peers   : List (Nat × Nat)     -- peer index and device
  rings   : List Ring
  frameVa : Nat
  framePa : Nat
  frames  : Nat                  -- frames in the pool
  used    : List Nat             -- frames in use, by number
  records : Nat                  -- capacity of the task pool
  poolPa  : Nat                  -- its base
  pool    : List (Nat × TaskRecord) -- its records in order, each with its place among the records at the base
  excess  : List TaskRecord      -- records of continuations that the full pool has not taken yet
  trapVa  : Nat
  trapPa  : Nat
  cores   : List Nat             -- logical order
  slice   : Nat
  btimer  : Nat                  -- default bin timer in clocks
  grids   : W32                  -- grid instances numbered so far
  loaded  : Bool                 -- a code object has fixed OREV
  shadow  : SMap (List Byte)     -- the shadow region: a sector's entry of 64 bytes, unlisted for one of zeros (23 R317)
  queues  : List Nat
  halted  : Bool                 -- reset by the management port; its tasks end in error (24 R326)
  deriving DecidableEq, Repr

/-- A hardware queue (18 R269, 24 R321). -/
structure Queue where
  id       : Nat
  ctx      : Nat
  prio     : BitVec 3
  base     : Nat
  log2     : Nat
  written  : Nat
  consumed : Nat
  stopped  : Bool
  deriving DecidableEq, Repr

/-! ### Memory, stores and engines -/

/-- A line record (17 R260). -/
structure LineRecord where
  full : BitVec 8
  enc  : BitVec 2
  cls  : BitVec 2
  deriving DecidableEq, Repr

/-- What a no-return cruise operation does to its counter (11 R216 to R218). -/
inductive CruiseKind where
  | idle                                             -- a weight without an effect
  | add (num exp : Nat)                              -- the weight num × 2^−exp
  | full                                             -- the weight +∞
  | merge (pa : Nat) (odd : Bool) (crb : Nat)        -- CMRG's source counter
  | set (level : Nat)
  deriving DecidableEq, Repr

/-- A no-return cruise operation of one lane. -/
structure CruiseOp where
  ctx   : Nat
  pa    : Nat                  -- the counter's byte
  cls   : Nat                  -- 1 CRUISE4, 2 CRUISE8
  odd   : Bool                 -- the upper counter of a CRUISE4 byte
  crb   : Nat                  -- the CRBASE register of its page
  index : W32
  lane  : Nat
  kind  : CruiseKind
  flags : BitVec 8             -- flags of its weight
  deriving DecidableEq, Repr

/-- A word of a store or no-return operation on its way to its point of coherence. -/
inductive PendWord where
  | cruise (op : CruiseOp)
  | write (pa : Nat) (data : List Byte) (lag : Bool) (lane : Nat)  -- `lag`: copies of its page at other dies take it later
  | atomic (pa : Nat) (op : Nat) (operand : W32) (lag : Bool) (lane : Nat)
  | peer (device pa lane : Nat) (op : Option (Nat × W32))  -- on its way to another device; an atomic's code and operand
  deriving DecidableEq, Repr

/-- A store instruction not yet acknowledged (01 R21): its group and the words not yet performed; what places it in the
order of its group's accesses (12 R223; 08 R146, R160; 06 R98); what its performed words leave to its completion; and,
for the rule that reads never go backwards (12 R226), the other groups of its core that have read one of its words in an
L1 line. -/
structure PendStore where
  gid   : Nat
  words : List PendWord
  lane  : Bool                 -- the stream of its instruction
  iaddr : W64
  flags : BitVec 8             -- flags that its instruction has raised
  late  : BitVec 8 := 0        -- flags of its words performed so far, which are raised with the last (08 R150; 11 R219)
  bad   : Option (Nat × Nat) := none -- the lane and address of the lowest word found bad so far (02 R50, R52)
  seen  : List Nat := []
  seed  : Nat := 0             -- the free values that choose its packets' links (13 R240; 22 R309)
  split : W32 := 0             -- the lanes of the split that issued it
  call  : Nat := 0             -- the lane call outstanding as it issued, 0 for none
  deriving DecidableEq, Repr

/-- A write that a die's replica has not yet applied (13 R241), with the groups of that die that have read it or made
it. -/
structure Propagation where
  gid  : Nat
  seen : List Nat
  die  : Nat
  pa   : Nat
  data : List Byte
  deriving DecidableEq, Repr

/-- What an engine operation does (06 R107, R108). -/
inductive EngineKind where
  | cpy (dst src : W64) (n : Nat)
  | cpyb (off src : W64) (n : Nat)
  | gath (dst idx base : W64) (size n : Nat)
  | scat (src idx base : W64) (size n : Nat)
  | xkick (ring first n : Nat)
  | coll (desc : W64)
  deriving DecidableEq, Repr

/-- An engine operation outstanding (06 R106). -/
structure EngineOp where
  id        : Nat
  gid       : Nat
  ctx       : Nat
  core      : Nat
  cls       : Nat
  handle    : Nat              -- 0 for none
  kind      : EngineKind
  done      : Nat              -- units performed in order: those of lower index
  ahead     : List Nat         -- units of a copy performed before one of lower index (13 R244)
  held      : List (Nat × List Byte) -- units of a copy read and not yet written, or of a collective's contribution
  parts     : List Participant -- a collective's other participants, once a unit of its result has been written ahead
  finished  : Bool
  faulted   : Bool             -- a fault record is posted and firmware has not answered
  err       : BitVec 8
  errAddr   : W64
  cancelled : Bool
  flags     : BitVec 8
  iaddr     : W64
  bad       : Option (Nat × Nat) := none -- the lowest bad word it has met: its address and physical address (02 R50, R52)
  seed      : Nat := 0         -- the free values that choose a collective's bracketings (22 R307)
  block     : List Byte := []  -- a collective's descriptor, once a unit has been performed ahead
  deriving DecidableEq, Repr

/-- A transform request taken by a kick (22 R302 to R305). -/
structure XRequest where
  op        : Nat              -- the kick's operation
  ctx       : Nat
  ring      : Nat
  index     : W64              -- its number in the ring
  slot      : Nat              -- index mod 2^LOG2N
  addr      : W64              -- its block's address
  priv      : Bool             -- the ring may carry physical-address requests
  units     : Nat              -- 64-byte units of a FLUSH or of a FILL of line records performed ahead
  block     : List Byte        -- the block as read; empty until then
  performed : Bool
  posted    : Bool
  faulted   : Bool             -- a fault record is posted and firmware has not answered
  err       : BitVec 8
  outlen    : Nat
  read      : List (Nat × List Byte) := [] -- units of its source read ahead (13 R244)
  wrote     : List (Nat × Nat) := [] -- units of its output written ahead, each with its bytes
  deriving DecidableEq, Repr

/-! ### Firmware, host and boot records -/

/-- What a context error record reports (01 R25, 06 R116, 18 R272, R287). -/
inductive ErrorKind where
  | halt
  | doubleFault
  | noHandler
  | descriptor
  | bank
  | fabric
  | completion
  | image                      -- a restored park image that holds a reserved tag (01 R16)
  | thermal
  deriving DecidableEq, Repr

/-- A context error posted to firmware. -/
structure ContextError where
  ctx  : Nat
  kind : ErrorKind
  code : BitVec 8
  addr : W64
  deriving DecidableEq, Repr

/-- A fault record posted to firmware (18 R286; 06 R109; 20, case 20.1). -/
structure FaultRecord where
  gid   : Nat
  va    : W64
  cause : BitVec 8
  lane  : Bool
  lanes : W32              -- the fault mask of a lane fault
  op    : Nat              -- the engine operation that waits, 0 for the group itself
  deriving DecidableEq, Repr

/-- The operand that an error log record names (02 R50). The address of a memory operand is the physical one, which the
manual does not say (DESIGN CHOICE). -/
inductive LogOperand where
  | reg (i : Nat)              -- a, b, c, d: 0 to 3
  | bstore (off : Nat)
  | mem (pa : Nat)
  deriving DecidableEq, Repr

/-- An error log record (02 R50). `late` marks one of a no-return operation, written when it is performed. -/
structure LogRecord where
  ctx     : Nat
  pc      : W64
  lane    : Bool               -- the stream: lane or scalar
  operand : LogOperand
  laneNo  : Nat
  element : Nat
  late    : Bool
  deriving DecidableEq, Repr

/-- What the device has returned to the host or the management port. -/
inductive Response where
  | context (id : Option Nat)
  | data (bytes : List Byte)
  | load (ok : Bool)
  | image (source : ImageSource) (accepted : Bool)
  | queueStopped (queue : Nat)
  | attest (register nonce signature : List Byte)
  | alert
  deriving DecidableEq, Repr

/-- Boot state (24 R331). -/
inductive BootState where
  | rom
  | verifying
  | waiting
  | running
  | tripped
  deriving DecidableEq, Repr

/-- What firmware sets of its own accord. -/
inductive Setting where
  | l1min (core n : Nat)             -- 17 R254
  | parkt (n : Nat)                  -- 18 R281
  | age (n : Nat)                    -- 18 R282
  | btimer (ctx n : Nat)             -- 18 R278
  | comm (c : Nat) (devices : List Nat)   -- 22 R306
  | serve (core ctx : Nat)           -- a core that serves no context given to one (18 R270, R284)
  deriving DecidableEq, Repr

/-- An element that an uncorrectable error may strike (02 R50): of a group's registers by its number in `Group.poison`, of
a result in a group's landing buffer by its number in `Landing.bad`, a B-store byte of a core, a 32-bit word of memory. -/
inductive BadPlace where
  | register (gid k : Nat)
  | landing (gid n k : Nat)
  | bstore (core off : Nat)
  | memory (word : Nat)
  deriving DecidableEq, Repr

/-- What moves next. -/
inductive Action where
  | scalar (gid : Nat)
  | lane (gid entry : Nat)
  | event (i : Instr) (args : EvArgs)
  | engine (op : Nat)
  | unit (op n : Nat) (write : Bool) -- a copy's n-th unit is read, or is written; a collective's is read; a line of a kick's n-th request
  | piece (op req n : Nat) (write : Bool) -- a request's n-th unit is read, or is written
  | result (op n : Nat) (parts : List Participant)   -- a collective's n-th unit is written
  | ifetch (core pa : Nat)
  | dfetch (gid : Nat) (va : W64)    -- a line fetched into the L1 of a group's core (13 R238, 17 R257)
  | firmware (x : Setting)
  | tick (n : Nat)
  | latency (busy : List (Nat × Option Nat)) -- the streams that a latency keeps from issuing from now on (18 R280)
  | decay (p : BadPlace)             -- an element takes an uncorrectable error
  deriving DecidableEq, Repr

/-- The whole device. -/
structure State where
  g        : Group                     -- the group in focus
  ent      : Nat                       -- the split entry in focus
  ev       : EvArgs                    -- the operands of the step in focus
  groups   : List (Nat × Group)        -- every other group, by number
  teams    : List Team
  grids    : List Grid
  clusters : List ClusterPhase
  ends     : List HeldEnd
  awaits   : List Awaiting
  zeros    : List ZeroedFrame
  asks     : List PoolAsk              -- requests to grow a pool that firmware has not answered
  cores    : List (Nat × Core)
  ctxs     : List Context
  saved    : List CoreSave
  queues   : List Queue
  mem      : List Host.Cell            -- physical memory
  records  : SMap LineRecord           -- by line
  poison   : List Nat                  -- physical words with uncorrectable errors (02 R50)
  waiters  : List (Nat × Nat)          -- deferred-read lists: (word's physical address, group), in order
  stores   : List PendStore
  props    : List Propagation
  copies   : SMap (Option Byte)        -- die × 2^52 + physical address: the byte its replica still holds
  dtlb     : List (Nat × Leaf)         -- the die TLBs, by die (17 R264)
  ops      : List EngineOp
  xreqs    : List XRequest
  comms    : List (Nat × List Nat)     -- communicator and its devices in rank order (22 R306)
  errors   : List ContextError
  faults   : List FaultRecord
  log      : List LogRecord
  ints     : List (Nat × Nat)          -- host interrupts posted: context and vector
  replies  : List Response
  unreach  : List Nat                  -- devices the fabric cannot reach
  links    : List Nat                  -- failed links
  device   : BitVec 16
  clock    : BitVec 64
  next     : Nat                       -- numbers given to groups, teams, grids and operations so far
  frees    : Nat                       -- free values drawn so far
  agenda   : List Action
  parkt    : Nat
  age      : Nat
  booted   : BootState
  fail     : BitVec 8
  svn      : W32
  fuse     : List Byte                 -- key digest
  store    : Option Image              -- firmware store
  offer    : Option (ImageSource × Image) -- the offered image that is being verified (24 R328)
  measure  : List Byte                 -- measurement register
  steps    : Nat                       -- clock step of the core clocks, 0 for full
  hot      : List Nat                  -- throttled dies
  qlast    : SMap Nat                  -- by priority: the queue from which a packet was last taken (18 R269)
  busy     : List (Nat × Option Nat)   -- streams that a latency keeps from issuing: a group's scalar stream, or an entry (18 R280)
  know     : SMap (List Nat)           -- the ICINVs that a group, or what it has released, is ordered after (03 R65)
  deriving DecidableEq, Repr

/-- The device right after reset: no context, no group, empty memory, the boot ROM at its start. -/
def State.reset : State where
  g := Group.none
  ent := 0
  ev := {}
  groups := []
  teams := []
  grids := []
  clusters := []
  ends := []
  awaits := []
  zeros := []
  asks := []
  cores := []
  ctxs := []
  saved := []
  queues := []
  mem := []
  records := []
  poison := []
  waiters := []
  stores := []
  props := []
  copies := []
  dtlb := []
  ops := []
  xreqs := []
  comms := []
  errors := []
  faults := []
  log := []
  ints := []
  replies := []
  unreach := []
  links := []
  device := 0
  clock := 0
  next := 0
  frees := 0
  agenda := []
  parkt := 4096
  age := 65536
  booted := .rom
  fail := 0
  svn := 0
  fuse := List.replicate 32 0
  store := none
  offer := none
  measure := List.replicate 64 0
  steps := 0
  hot := []
  qlast := []
  busy := []
  know := []

/-- Why the machine stops with a fault. -/
inductive Fault where
  /-- Raised by HOST_MEMORY_ACCESS and PEER_PAGE_ACCESS for an address in a reserved range of 17 R259, which the
  manual says holds nothing. Safe: the machine stops where the manual gives no effect. -/
  | reservedAddress (pa : Nat)
  /-- Raised by HOST_MEMORY_ACCESS for a word of BAR0 of which the manual says nothing but that it belongs to firmware's
  mailbox (24 R321). Safe: the machine stops where the manual gives no effect. -/
  | mailbox (off : Nat)
  deriving DecidableEq, Repr

/-- Why an instruction has no meaning in this model. -/
inductive Refusal where
  /-- Raised by Dispatch.lean alone, for an instruction without a meaning yet. Safe: nothing can be concluded of it. -/
  | notModelled (mnemonic : String)
  deriving DecidableEq, Repr

end Sys2Proof.Machine
end

