-- ==== Sys2Proof/Machine/Memory.lean ====
section
/-! DEFINITION. Physical memory, line records, page tables and access checks (17 R259 to R268; 06 R91; 08 R144),
the L1 data cache (17 R257, R258), stores on their way to the point of coherence (01 R21, 12 R221 to R228,
13 R240 to R243) and atomics on memory words (06 R93, 08 R149). -/

namespace Sys2Proof.Machine

/-- A free value of this step; `k` tells apart the free values of one step. -/
def freeOf (s : State) (k : Nat) : Nat := Config.freeNat s.frees k

/-- The number of a free value, by what it stands for and which of those it is. -/
def freeKey (kind n : Nat) : Nat := 32 * n + kind

/-- A free choice of one outcome in `n`; of one outcome there is no choice. -/
def choose (s : State) (k n : Nat) : Nat := if n ≤ 1 then 0 else freeOf s k % n

/-! ### Cores, contexts, groups -/

/-- The core of a number. -/
def coreOf (s : State) (c : Nat) : Core := { mapGet (Core.init c) c s.cores with id := c }

/-- The state with a core replaced. -/
def setCore (s : State) (c : Core) : State := { s with cores := mapInsert c.id c (mapErase c.id s.cores) }

/-- A core as a context finds it: the live core while it serves the context, and otherwise with what the last switch
saved for the context in place of what the core now holds (17 R253; 09 R172). -/
def viewOf (s : State) (ctx core : Nat) : Core :=
  let c := coreOf s core
  if c.ctx = some ctx then c else
  match s.saved.find? (fun v => v.ctx == ctx && v.core == core) with
  | some v => { c with banks := v.banks, spad := v.spad, bstore := v.bstore, poison := v.poison, vreq := v.vreq,
                       treq := v.treq, qwait := v.qwait }
  | none => c

/-- What a context keeps of a core. -/
def saveOf (ctx : Nat) (c : Core) : CoreSave := ⟨ctx, c.id, c.banks, c.spad, c.bstore, c.poison, c.vreq, c.treq, c.qwait⟩

/-- A core as a context changed it. -/
def putView (s : State) (ctx : Nat) (c : Core) : State :=
  if (coreOf s c.id).ctx = some ctx || !s.saved.any (fun v => v.ctx == ctx && v.core == c.id) then setCore s c
  else { s with saved := s.saved.map (fun v => if v.ctx == ctx && v.core == c.id then saveOf ctx c else v) }

/-- The context of a number. -/
def ctxOf? (s : State) (c : Nat) : Option Context := s.ctxs.find? (fun x => x.id == c)

/-- A context that grants nothing, for a number that names none. -/
def Context.none (c : Nat) : Context :=
  { id := c, det := false, spchk := false, orev := 2, crbase := List.replicate 8 0, evctl := List.replicate 8 0
    trapvec := 0, ptRoot := 0, peers := [], rings := [], frameVa := 0, framePa := 0, frames := 0, used := [], records := 0
    poolPa := 0, pool := [], excess := [], trapVa := 0, trapPa := 0, cores := [], slice := 0, btimer := 2048, grids := 0
    loaded := false, shadow := [], queues := [], halted := false }

/-- The context of a number, granting nothing where there is none. -/
def ctxOf (s : State) (c : Nat) : Context := (ctxOf? s c).getD (Context.none c)

/-- The state with a context changed. -/
def modCtx (s : State) (c : Nat) (f : Context → Context) : State :=
  { s with ctxs := s.ctxs.map (fun x => if x.id == c then f x else x) }

/-- The group of a number, the focus included. -/
def groupOf? (s : State) (gid : Nat) : Option Group :=
  if s.g.gid = gid then some s.g else (s.groups.find? (fun p => p.1 == gid)).map (·.2)

/-- The state with a group changed, wherever it stands. -/
def modGroup (s : State) (gid : Nat) (f : Group → Group) : State :=
  if s.g.gid = gid then { s with g := f s.g }
  else { s with groups := s.groups.map (fun p => if p.1 == gid then (p.1, f p.2) else p) }

/-- The group of a number brought into focus; the old focus takes its place among the others. -/
def focus (s : State) (gid : Nat) : State :=
  if s.g.gid = gid then s else
  match groupOf? s gid with
  | none => s
  | some g =>
    let others := mapErase gid s.groups
    { s with g := g, groups := if s.g.gid = 0 then others else mapInsert s.g.gid s.g (mapErase s.g.gid others) }

/-- All groups, the focus included. -/
def allGroups (s : State) : List Group := (if s.g.gid = 0 then [] else [s.g]) ++ s.groups.map (·.2)

/-! ### Physical memory (17 R259, R260) -/

/-- What an unlisted byte of memory reads as. -/
def memDefault : Byte := 0

/-- A byte of physical memory. -/
def readByte (s : State) (pa : Nat) : Byte := mapGet memDefault pa s.mem

/-- Bytes of physical memory, lowest address first. -/
def readBytes (s : State) (pa n : Nat) : List Byte := (List.range n).map (fun i => readByte s (pa + i))

/-- A memory with bytes written from an address up. -/
def memWrite (m : List Host.Cell) (pa : Nat) : List Byte → List Host.Cell
  | [] => m
  | b :: bs => memWrite (mapSet memDefault pa b m) (pa + 1) bs

/-- The canonical form of a memory. -/
def memoryWf (m : List Host.Cell) : Bool := mapWf memDefault m

/-- Bytes of HBM. -/
abbrev hbmSize : Nat := 0xC000000000
/-- Where CXL port 0 begins. -/
abbrev cxlBase : Nat := 0x1000000000000
/-- The window of one CXL port. -/
abbrev cxlWindow : Nat := 0x40000000000

/-- Whether an address lies in CXL memory. -/
def isCxl (pa : Nat) : Bool := cxlBase ≤ pa && pa < cxlBase + 2 * cxlWindow

/-- The attached memory of a CXL port in bytes: within its window, and both ports together within 4 TiB (00 R1;
17 R259). -/
def cxlBytes (port : Nat) : Nat :=
  if port = 0 then min cxlWindow (Config.cxlSize 0) else min (cxlWindow - min cxlWindow (Config.cxlSize 0)) (Config.cxlSize 1)

/-- Whether an address holds memory: HBM, or the attached memory of a CXL port. -/
def physOk (pa : Nat) : Bool :=
  pa < hbmSize || (isCxl pa && (pa - cxlBase) % cxlWindow < cxlBytes ((pa - cxlBase) / cxlWindow))

/-- The die of a physical address's home slice. -/
def homeDie (pa : Nat) : Nat := if isCxl pa then (Config.cxlHome (pa / 64)).toNat else pa / 0x3000000000

/-- A line record's reset value. -/
def LineRecord.zero : LineRecord := ⟨0, 0, 0⟩

/-- The record of the line that holds an address; CXL lines are always NORMAL and raw. -/
def recordOf (s : State) (pa : Nat) : LineRecord :=
  if isCxl pa then LineRecord.zero else mapGet LineRecord.zero (pa / 64) s.records

/-- A little-endian 64-bit word of physical memory. -/
def read64 (s : State) (pa : Nat) : W64 := BitVec.ofNat 64 (leNat (readBytes s pa 8))

/-! ### Page-table entries (17 R262) -/

/-- V. -/
def pteV (e : W64) : Bool := e.getLsbD 0
/-- W. -/
def pteW (e : W64) : Bool := e.getLsbD 1
/-- SX. -/
def pteSX (e : W64) : Bool := e.getLsbD 2
/-- LX. -/
def pteLX (e : W64) : Bool := e.getLsbD 3
/-- LEAF. -/
def pteLeaf (e : W64) : Bool := e.getLsbD 7
/-- CLASS: 0 NORMAL, 1 CRUISE4, 2 CRUISE8, 3 FUTURE. -/
def pteClass (e : W64) : Nat := (e.extractLsb' 11 2).toNat
/-- CMP. -/
def pteCmp (e : W64) : Bool := e.getLsbD 13
/-- L1BYP. -/
def pteByp (e : W64) : Bool := e.getLsbD 14
/-- The page's physical address, from PPN. -/
def ptePage (e : W64) : Nat := (e.extractLsb' 16 36).toNat * 65536
/-- CHK. -/
def pteChk (e : W64) : Bool := e.getLsbD 52
/-- REP. -/
def pteRep (e : W64) : Bool := e.getLsbD 53
/-- REPA. -/
def pteRepA (e : W64) : Bool := e.getLsbD 54
/-- CRB. -/
def pteCrb (e : W64) : Nat := (e.extractLsb' 55 3).toNat
/-- PEERIX. -/
def ptePeer (e : W64) : Nat := (e.extractLsb' 58 6).toNat

/-- The bytes a leaf maps at a level (17 R261). -/
def leafSize (level : Nat) : Nat := if level = 1 then 2 ^ 42 else if level = 2 then 2 ^ 29 else 2 ^ 16

/-- The index of a virtual address at a level (17 R261). -/
def levelIndex (va level : Nat) : Nat := va / leafSize level % 8192

/-- Whether a non-leaf entry is well formed: V, LEAF 0, PPN, every other field zero (17 R262). -/
def tableEntryOk (e : W64) : Bool :=
  (e &&& 0xFFF000000000FFFE) == 0 && physOk (ptePage e)

/-- Whether a leaf entry at a level is well formed (17 R263). -/
def leafEntryOk (c : Context) (e : W64) (level : Nat) : Bool :=
  (e &&& 0x8770) == 0 && ptePage e % leafSize level == 0 && physOk (ptePage e) &&
  !(pteClass e != 0 && (pteCmp e || pteRep e)) &&
  !((pteClass e == 1 || pteClass e == 2) && ptePeer e != 0) &&
  !(isCxl (ptePage e) && (pteCmp e || pteRep e)) &&
  !(pteRepA e && !pteRep e) &&
  (ptePeer e == 0 || c.peers.any (fun p => p.1 == ptePeer e))

/-- A walk from a table at a level (17 R261, R263): the leaf, or the cause of the translation fault. -/
def walkFrom (s : State) (c : Context) (va : Nat) : Nat → Nat → Nat → Except (BitVec 8) Leaf
  | 0, _, _ => .error 1
  | fuel + 1, level, table =>
    let e := read64 s (table + 8 * levelIndex va level)
    if !pteV e then .error 0
    else if pteLeaf e then
      if leafEntryOk c e level then
        .ok ⟨c.id, va - va % leafSize level, leafSize level, e⟩
      else .error 1
    else if level < 3 && tableEntryOk e then walkFrom s c va fuel (level + 1) (ptePage e)
    else .error 1

/-- The walk of a context's page table for the 55 bits of a virtual address. -/
def walk (s : State) (c : Context) (va : W64) : Except (BitVec 8) Leaf :=
  walkFrom s c (va.toNat % 2 ^ 55) 3 1 c.ptRoot

/-- Whether a leaf maps an address of a context. -/
def Leaf.covers (l : Leaf) (ctx va : Nat) : Bool := l.ctx == ctx && l.va ≤ va && va < l.va + l.size

/-- The die of a core number. -/
def dieOf (core : Nat) : Nat := core / 64

/-- Whether a core number names a core: die 0 to 3, row 0 to 5, column 0 to 7. -/
def coreExists (k : Nat) : Bool := k < 256 && k % 64 < 48

/-- The translations of an address that an access through a core may still find cached (17 R264): in the scheduler TLB of
the group in focus when it stands on that core, in the core TLB, and in the die TLB. -/
def cachedLeaves (s : State) (ctx core : Nat) (va : W64) : List Leaf :=
  let c := coreOf s core
  let own := if s.g.core = core then (c.scheds.getD (s.g.seat / 8) ⟨0, 0, 0, []⟩).tlb else []
  let die := (s.dtlb.filter (fun p => p.1 == dieOf core)).map (·.2)
  ((own ++ c.tlb ++ die).filter (fun l => l.covers ctx (va.toNat % 2 ^ 55))).eraseDups

/-- A translation as a core makes it: the page table's, or a cached one that it may still hold (17 R264, R265). A
faulting result is never cached. -/
def translate (s : State) (ctx core : Nat) (va : W64) : Except (BitVec 8) Leaf :=
  let fresh := walk s (ctxOf s ctx) va
  match (cachedLeaves s ctx core va).filter (fun l => fresh.toOption != some l) with
  | [] => fresh
  | l :: ls =>
    match choose s (freeKey 8 (va.toNat / 65536)) (ls.length + 2) with
    | 0 => fresh
    | i + 1 => .ok ((l :: ls).getD i l)

/-! ### Access checks (06 R91; 08 R144; 18 R285) -/

/-- Whether bits [63:55] of an address are all equal. -/
def vaOk (va : W64) : Bool := va.extractLsb' 55 9 == 0 || va.extractLsb' 55 9 == 0x1FF

/-- A fault of one access: trap code, subcode and address. -/
structure AccFault where
  code : BitVec 8
  sub  : BitVec 8
  va   : W64
  deriving DecidableEq, Repr

/-- The precedence of memory faults (18 R285). -/
def faultRank (code : BitVec 8) : Nat :=
  match code.toNat with
  | 0x06 => 0
  | 0x04 => 1
  | 0x05 => 2
  | 0x07 => 3
  | _ => 4

/-- The fault of an outcome. -/
def faultOf {α : Type} : Except AccFault α → Option AccFault
  | .ok _ => none
  | .error f => some f

/-- Checks made together: every result, or of the faults the first of the kind that comes first (18 R285). -/
def allChecks {α : Type} (rs : List (Except AccFault α)) : Except AccFault (List α) :=
  match sortBy (fun f => faultRank f.code) (rs.filterMap faultOf) with
  | f :: _ => .error f
  | [] => .ok (rs.filterMap Except.toOption)

/-- A place an access reaches: its address, physical address and leaf entry. -/
structure Access where
  va  : W64
  pa  : Nat
  pte : W64
  deriving DecidableEq, Repr

/-- Whether the access reaches another device. -/
def Access.peer (a : Access) : Bool := ptePeer a.pte != 0

/-- What an access needs of its page. -/
inductive Need where
  | read
  | write
  deriving DecidableEq, Repr

/-- Whether the device of a peer page is one that the fabric cannot reach (22 R311). -/
def lostPage (s : State) (ctx : Nat) (pte : W64) : Bool :=
  ptePeer pte != 0 && ((ctxOf s ctx).peers.find? (fun p => p.1 == ptePeer pte)).any (fun p => s.unreach.contains p.2)

/-- Whether the class and compression of a translation disagree with the record of the line at `pa` (17 R260). The record
of a line of another device stands there and is free; CXL memory has none, and no access to a lost device is made. -/
def recordConflict (s : State) (ctx pa : Nat) (pte : W64) : Bool :=
  if ptePeer pte != 0 && !isCxl pa then !lostPage s ctx pte && choose s (freeKey 21 (pa / 64)) 2 == 1
  else (recordOf s pa).cls.toNat != pteClass pte || ((recordOf s pa).enc == 1) != pteCmp pte

/-- The checks of one global access, in order: form and alignment, translation, protection, class of the page and of
the line record (06 R91; 08 R144; 17 R260). `classes` are the page classes the access takes. -/
def checkAccess (s : State) (ctx core : Nat) (classes : List Nat) (need : Need) (align : Nat) (va : W64) :
    Except AccFault Access :=
  if va.toNat % align != 0 || !vaOk va then .error ⟨0x06, 0, va⟩ else
  match translate s ctx core va with
  | .error cause => .error ⟨0x04, cause, va⟩
  | .ok l =>
    let pa := ptePage l.entry + (va.toNat % 2 ^ 55 - l.va)
    if !physOk pa then .error ⟨0x04, 1, va⟩
    else if need = .write && !pteW l.entry then .error ⟨0x05, 0, va⟩
    else if !classes.contains (pteClass l.entry) then .error ⟨0x07, 0, va⟩
    else if recordConflict s ctx pa l.entry then .error ⟨0x07, 0, va⟩
    else .ok ⟨va, pa, l.entry⟩

/-- The checks over a run of bytes without alignment, one check for each 64-byte line it meets. -/
def checkRange (s : State) (ctx core : Nat) (classes : List Nat) (need : Need) (va : W64) (n : Nat) :
    Except AccFault (List Access) :=
  if n = 0 then .ok [] else
  let first := va.toNat / 64
  let last := (va.toNat + n - 1) / 64
  allChecks ((List.range (last - first + 1)).map (fun i =>
    checkAccess s ctx core classes need 1 (if i = 0 then va else BitVec.ofNat 64 ((first + i) * 64))))

/-! ### The point of coherence -/

/-- Whether loads of this group go to the point of coherence in program order: ordering revision 1 (13 R243). -/
def ordStr (s : State) (ctx : Nat) : Bool := (ctxOf s ctx).orev == 1

/-- The key of a die's replica of a byte. -/
def copyKey (die pa : Nat) : Nat := die * 2 ^ 52 + pa

/-- A byte as a die reads it at the point of coherence: +0 in a word with an uncorrectable error (02 R50); on a replicated
page the die's own copy, which may lag (13 R241). -/
def coherentByte (s : State) (die pa : Nat) (rep : Bool) : Byte :=
  if s.poison.contains (pa / 4) then 0
  else if rep then (mapGet none (copyKey die pa) s.copies).getD (readByte s pa)
  else readByte s pa

/-- The entries of a page table that have V set. -/
def validEntries (s : State) (table : Nat) : List W64 :=
  (s.mem.filter (fun c => table ≤ c.1 && c.1 < table + 65536 && c.1 % 8 == 0 && c.2.getLsbD 0)).map (fun c => read64 s c.1)

/-- Whether a table at a level maps an address of this device with REP and non-atomic propagation (17 R261, R262). -/
def repBelow (s : State) (c : Context) (pa : Nat) : Nat → Nat → Nat → Bool
  | 0, _, _ => false
  | fuel + 1, level, table => (validEntries s table).any (fun e =>
      if pteLeaf e then
        leafEntryOk c e level && pteRep e && !pteRepA e && ptePeer e == 0 && ptePage e ≤ pa && pa < ptePage e + leafSize level
      else level < 3 && tableEntryOk e && repBelow s c pa fuel (level + 1) (ptePage e))

/-- Whether some context maps an address with REP and non-atomic propagation. -/
def repMapped (s : State) (pa : Nat) : Bool := s.ctxs.any (fun c => repBelow s c pa 3 1 c.ptRoot)

/-- Whether the copies at other dies take an engine's writes one by one (13 R241): those through a mapping with REP and
without REPA; and those through a mapping without REP of a page that another mapping replicates so, since that mapping's
reads still follow 13 R241 (17 R267: which value they give is unpredictable). Ordering revision 1 leaves engines as they
are (13 R243). -/
def engineLag (s : State) (a : Access) : Bool :=
  !a.peer && (if pteRep a.pte then !pteRepA a.pte else repMapped s a.pa)

/-- The same for the writes of a context's load-store units (13 R241, R243). -/
def laggingPage (s : State) (ctx : Nat) (a : Access) : Bool := !ordStr s ctx && engineLag s a

/-- Whether every copy of a page holds the same with nothing on its way to one, and goes on to do so when a context's load-store
units write it. -/
def oneCopy (s : State) (ctx : Nat) (a : Access) : Bool :=
  !laggingPage s ctx a && (!pteRep a.pte || (s.copies.isEmpty && s.props.isEmpty))

/-- Bytes as a die reads them at the point of coherence: on a page mapped with REP at its own copy. A word of another device's
memory is a free value (13 R242); a word of an unreachable device reads as zero (22 R311). -/
def bytesAt (s : State) (ctx die : Nat) (a : Access) (n : Nat) : List Byte :=
  if a.peer then
    match (ctxOf s ctx).peers.find? (fun p => p.1 == ptePeer a.pte) with
    | some p =>
      if s.unreach.contains p.2 then List.replicate n 0
      else (List.range n).map (fun i =>
        (Config.freeWord s.frees (p.2 * 2 ^ 52 + (a.pa + i) / 4)).extractLsb' (8 * ((a.pa + i) % 4)) 8)
    | none => List.replicate n 0
  else (List.range n).map (fun i => coherentByte s die (a.pa + i) (pteRep a.pte))

/-- Bytes as a core's load-store units read them at the point of coherence. -/
def coherentBytes (s : State) (ctx core : Nat) (a : Access) (n : Nat) : List Byte :=
  bytesAt s ctx (dieOf core) a n

/-- Bytes of this device at their home slices, a word with an uncorrectable error as +0 (02 R50). -/
def homeBytes (s : State) (pa n : Nat) : List Byte := (List.range n).map (fun i => coherentByte s 0 (pa + i) false)

/-- The first of the aligned words of `n` bytes at an address that has an uncorrectable error. -/
def badWord? (s : State) (pa n : Nat) : Option Nat :=
  if s.poison.isEmpty then none
  else (List.range ((pa % 4 + n + 3) / 4)).find? (fun i => s.poison.contains (pa / 4 + i))

/-- The device that owns a peer page. -/
def peerDevice (s : State) (ctx : Nat) (a : Access) : Nat :=
  (((ctxOf s ctx).peers.find? (fun p => p.1 == ptePeer a.pte)).map (·.2)).getD 0

/-- The dies of the device. -/
def dies : List Nat := [0, 1, 2, 3]

/-- The bytes that replicas go on holding when a place is about to change. -/
def keepCopies (s : State) (pa n : Nat) (away : List Nat) : SMap (Option Byte) :=
  (List.range n).foldl (fun m i => away.foldl (fun m d =>
    let k := copyKey d (pa + i)
    if (mapGet none k m).isSome then m else mapSet none k (some (readByte s (pa + i))) m) m) s.copies

/-- Whether `n` bytes at an address and a write on its way have a 32-bit location in common (12 R221). -/
def Propagation.touches (p : Propagation) (pa n : Nat) : Bool :=
  p.pa / 4 * 4 < pa + n && pa / 4 * 4 < p.pa + p.data.length

/-- Whether two writes on their way to one die meet in a location, whose writes each copy applies in order. -/
def Propagation.meets (p q : Propagation) : Bool := p.die == q.die && p.touches q.pa q.data.length

/-- Whether a write on its way reaches a byte of its die. -/
def Propagation.reaches (p : Propagation) (die pa : Nat) : Bool := p.die == die && p.pa ≤ pa && pa < p.pa + p.data.length

/-- The marked propagations and the earlier ones that meet them, which each copy applies first (13 R241). -/
def markProps : List (Propagation × Bool) → List (Propagation × Bool)
  | [] => []
  | (p, b) :: rest =>
    let r := markProps rest
    (p, b || r.any (fun q => q.2 && p.meets q.1)) :: r

/-- A propagation taken by its die, while `rest` are still on their way: a byte that none of them reaches equals the home
copy from then on. -/
def takeProp (rest : List Propagation) (m : SMap (Option Byte)) (p : Propagation) : SMap (Option Byte) :=
  p.data.zipIdx.foldl (fun m b =>
    mapSet none (copyKey p.die (p.pa + b.2))
      (if rest.any (fun q => q.reaches p.die (p.pa + b.2)) then some b.1 else none) m) m

/-- The marked propagations taken, in order, with those that must come before them. -/
def applyProps (s : State) (marked : List (Propagation × Bool)) : State :=
  let all := markProps marked
  let rest := (all.filter (fun q => !q.2)).map (·.1)
  { s with props := rest, copies := ((all.filter (·.2)).map (·.1)).foldl (takeProp rest) s.copies }

/-- The propagations that satisfy `p` taken. -/
def takeProps (s : State) (p : Propagation → Bool) : State :=
  if s.props.any p then applyProps s (s.props.map (fun q => (q, p q))) else s

/-- Bytes written at the point of coherence by a group, with the replicas that then lag and the groups that have seen the
write (13 R241). A write that reaches every die at one moment comes at each copy after the earlier ones there. -/
def performSeen (s : State) (seen : List Nat) (gid pa : Nat) (data : List Byte) (lag : Bool) : State :=
  let s := if lag then s else takeProps s (fun q => q.touches pa data.length)
  let s' := { s with
    mem := memWrite s.mem pa data
    poison := s.poison.filter (fun w => w * 4 < pa / 4 * 4 || pa + data.length ≤ w * 4) }
  if lag then
    let away := dies.filter (fun d => d != homeDie pa)
    { s' with
      copies := keepCopies s pa data.length away
      props := s.props ++ away.map (fun d => ⟨gid, gid :: seen, d, pa, data⟩) }
  else s'

/-- Bytes written at the point of coherence by a group. -/
def performWrite (s : State) (gid pa : Nat) (data : List Byte) (lag : Bool) : State := performSeen s [] gid pa data lag

/-- Every propagation of a group's writes taken (13 R241: a release completes when every copy holds them). -/
def flushProps (s : State) (gid : Nat) : State := takeProps s (fun q => q.gid == gid)

/-! ### Atomics (06 R93; 08 R149) -/

/-- The byte-wise unsigned minimum or maximum of bits [23:0], bits [31:24] kept (10 R203). -/
def boundWord (up : Bool) (old v : W32) : W32 :=
  let pick (i : Nat) : BitVec 8 :=
    let x := old.extractLsb' i 8
    let y := v.extractLsb' i 8
    if (x < y) == up then y else x
  old.extractLsb' 24 8 ++ pick 16 ++ pick 8 ++ pick 0

/-- A lane atomic's new value and flags, by the operation codes of 05 R78: 0 add, 1 min, 2 max, 3 minu, 4 maxu,
5 and, 6 or, 7 xor, 8 xchg, 9 cas, 10 fadd. Codes 11 and 12 are the bounds growth of GUPD (10 R203). -/
def atomic32 (op : Nat) (old c d : W32) : W32 × BitVec 8 :=
  match op with
  | 0 => (old + c, 0)
  | 1 => (if old.slt c then old else c, 0)
  | 2 => (if old.slt c then c else old, 0)
  | 3 => (if old.ult c then old else c, 0)
  | 4 => (if old.ult c then c else old, 0)
  | 5 => (old &&& c, 0)
  | 6 => (old ||| c, 0)
  | 7 => (old ^^^ c, 0)
  | 8 => (c, 0)
  | 9 => (if old == d then c else old, 0)
  | 11 => (boundWord false old c, 0)
  | 12 => (boundWord true old c, 0)
  | _ => f32Add .rn false old c

/-- A little-endian 32-bit word of physical memory. -/
def read32 (s : State) (pa : Nat) : W32 := BitVec.ofNat 32 (leNat (readBytes s pa 4))

/-- The bytes of a 32-bit word. -/
def bytes32 (w : W32) : List Byte := leBytes 4 w.toNat
/-- The bytes of a 64-bit word. -/
def bytes64 (w : W64) : List Byte := leBytes 8 w.toNat
/-- A word from its bytes. -/
def word32 (bs : List Byte) : W32 := BitVec.ofNat 32 (leNat bs)
/-- A doubleword from its bytes. -/
def word64 (bs : List Byte) : W64 := BitVec.ofNat 64 (leNat bs)

/-! ### The L1 data cache (17 R257, R258) -/

/-- A sector of a line. -/
def Line.sector (l : Line) (hi : Bool) : Option (List Byte) := if hi then l.hi else l.lo

/-- The line of a core's L1 that holds an address. -/
def lineOf (c : Core) (pa : Nat) : Option Line := c.lines.find? (fun l => l.line == pa / 64)

/-- Whether an address lies in the upper sector of its line. -/
def upperSector (pa : Nat) : Bool := 32 ≤ pa % 64

/-- A bank of a core: an unlisted one is a cache way. -/
def bankOf (c : Core) (b : Nat) : BankMode := ((c.banks.find? (fun p => p.1 == b)).map (·.2)).getD .cache

/-- The banks that are ways of a core's L1. -/
def cacheWays (c : Core) : List Nat := upto 24 (fun b => bankOf c b == .cache)

/-- The 32-bit words that `n` bytes at an address reach, by number. -/
def wordsAt (pa n : Nat) : List Nat := (List.range ((pa + n + 3) / 4 - pa / 4)).map (fun i => pa / 4 + i)

/-- The sector of an access of `n` bytes, if it hits for a group. -/
def l1Hit (c : Core) (g : Group) (pa n : Nat) : Option (List Byte) :=
  match lineOf c pa with
  | some l =>
    if g.stamp ≤ l.stamp && !(wordsAt pa n).any (fun w => l.behind.contains (g.gid, w)) then l.sector (upperSector pa) else none
  | none => none

/-- A line invalidated. -/
def l1Drop (c : Core) (pa : Nat) : Core := { c with lines := c.lines.filter (fun l => l.line != pa / 64) }

/-- A line put into a core's L1: in the way where it is, or in any way of its set, whose line it replaces (17 R257: which
line is replaced is not architectural). A core without cache ways holds none. -/
def l1Place (s : State) (c : Core) (l : Line) : Core :=
  let ways := cacheWays c
  let way := match c.lines.find? (fun x => x.line == l.line) with
    | some x => x.way
    | none => ways.getD (choose s (freeKey 9 l.line) ways.length) 0
  let rest := c.lines.filter (fun x => x.line != l.line && !(x.way == way && x.line % 2048 == l.line % 2048))
  { c with lines := if ways.isEmpty then rest else { l with way := way } :: rest }

/-- Bytes replaced in a sector that starts at `base`. -/
def patch (data : List Byte) (base pa : Nat) (new : List Byte) : List Byte :=
  (List.range data.length).map (fun i =>
    if pa ≤ base + i && base + i < pa + new.length then new.getD (base + i - pa) 0 else data.getD i 0)

/-- A matching line updated by a store of its own core (08 R147). -/
def l1Update (c : Core) (pa : Nat) (data : List Byte) : Core :=
  { c with lines := c.lines.map (fun l =>
      if l.line == pa / 64 then
        { l with lo := l.lo.map (fun d => patch d (pa / 64 * 64) pa data),
                 hi := l.hi.map (fun d => patch d (pa / 64 * 64 + 32) pa data) }
      else l) }

/-! ### Stores on their way (01 R21; 08 R147; 12 R225) -/

/-- The lane of a word on its way and the address it reads or writes. -/
def PendWord.place : PendWord → Nat × Nat
  | .write pa _ _ lane => (lane, pa)
  | .atomic pa _ _ _ lane => (lane, pa)
  | .cruise op => (op.lane, op.pa)
  | .peer _ pa lane _ => (lane, pa)

/-- The lines that a word on its way reads or writes, each with its device: 0 for this one. A merge reads its source's. -/
def PendWord.lines : PendWord → List (Nat × Nat)
  | .write pa _ _ _ => [(0, pa / 64)]
  | .atomic pa _ _ _ _ => [(0, pa / 64)]
  | .cruise op => (0, op.pa / 64) :: (match op.kind with | .merge pa _ _ => [(0, pa / 64)] | _ => [])
  | .peer device pa _ _ => [(device + 1, pa / 64)]

/-- The locations that a word on its way reads or writes (12 R221): 32-bit words, with their device, and counters. -/
def PendWord.locations : PendWord → List (Nat × Nat)
  | .write pa data _ _ => (wordsAt pa data.length).map (fun w => (0, w))
  | .atomic pa _ _ _ _ => [(0, pa / 4)]
  | .cruise op => (1, 2 * op.pa + op.odd.toNat) ::
      (match op.kind with | .merge pa odd _ => [(1, 2 * pa + odd.toNat)] | _ => [])
  | .peer device pa _ _ => [(device + 2, pa / 4)]

/-- Whether two words on their way have a location in common. -/
def PendWord.meets (w v : PendWord) : Bool := w.locations.any v.locations.contains

/-- Whether a word on its way reads or writes some of `n` bytes at an address of this device. -/
def PendWord.touches (w : PendWord) (pa n : Nat) : Bool :=
  match w with
  | .cruise op => pa ≤ op.pa && op.pa < pa + n ||
      (match op.kind with | .merge q _ _ => pa ≤ q && q < pa + n | _ => false)
  | _ => w.locations.any (fun x => x.1 == 0 && (wordsAt pa n).contains x.2)

/-- Whether a store has a word that reaches some of `n` bytes at an address. -/
def PendStore.touches (st : PendStore) (pa n : Nat) : Bool := st.words.any (fun w => w.touches pa n)

/-- The words of the line at `base` that a store on its way writes. -/
def PendStore.wordsOn (st : PendStore) (base : Nat) : List Nat :=
  st.words.flatMap (fun w => (wordsAt base 64).filter (fun k => w.touches (4 * k) 4))

/-- The groups that have written or read a value of a word on a line which the point of coherence of a die does not yet
give, each with the word: a store still on its way, or a write that the die's copy has not taken (12 R225, R226). -/
def aheadOn (s : State) (die line : Nat) : List (Nat × Nat) :=
  s.stores.flatMap (fun st => if st.seen.isEmpty then [] else
    (st.wordsOn (line * 64)).flatMap (fun w => st.seen.map (fun r => (r, w)))) ++
  (s.props.filter (fun q => q.die == die && q.touches (line * 64) 64)).flatMap (fun q =>
    ((wordsAt q.pa q.data.length).filter (fun w => w / 16 == line)).flatMap (fun w => q.seen.map (fun r => (r, w))))

/-- A line of a core filled with the sectors given, under the core stamp (17 R258). -/
def l1Fill (s : State) (c : Core) (pa : Nat) (lo hi : Option (List Byte)) : Core :=
  l1Place s c ⟨pa / 64, 0, c.stamp, lo, hi, aheadOn s (dieOf c.id) (pa / 64)⟩

/-- Whether a line agrees, in the sectors it holds, with bytes of a word at an address. -/
def Line.agrees (l : Line) (pa : Nat) (data : List Byte) (word : Nat) : Bool :=
  data.zipIdx.all (fun p =>
    (pa + p.2) / 4 != word ||
    (match l.sector (upperSector (pa + p.2)) with
     | some bs => bs.getD ((pa + p.2) % 32) 0 == p.1
     | none => true))

/-- A group made to miss in words of the line that holds an address. -/
def missIn (s : State) (gid pa : Nat) (words : Line → List Nat) : State :=
  match groupOf? s gid with
  | none => s
  | some g =>
    let c := coreOf s g.core
    if (lineOf c pa).isNone then s else
    setCore s { c with lines := c.lines.map (fun l =>
      if l.line == pa / 64 then { l with behind := (words l).map (fun w => (gid, w)) ++ l.behind } else l) }

/-- What a word performed does to the lines that its readers may hit. Where a line holds other bytes, as after a refill,
its own group and those that have read it miss in that word: they never read a value older than it. The groups that have
read another store which is still on its way to the word miss in it too, for that store comes later (12 R225, R226). -/
def noteOlder (s : State) (st : PendStore) (pa : Nat) (data : List Byte) : State :=
  let words := wordsAt pa data.length
  let s := (st.gid :: st.seen).foldl (fun acc r => missIn acc r pa (fun l => words.filter (fun w => !l.agrees pa data w))) s
  (s.stores.flatMap (fun e => if e.touches pa data.length then e.seen else [])).foldl (fun acc r =>
    missIn acc r pa (fun _ => words)) s

/-! ### Events (01 R25; 02 R53) -/

/-- The window of an EVCTL register. -/
def evWindow (e : W64) : Nat := (e.extractLsb' 32 32).toNat
/-- The threshold. -/
def evThresh (e : W64) : Nat := (e.extractLsb' 8 24).toNat
/-- The action. -/
def evAction (e : W64) : Nat := (e.extractLsb' 0 2).toNat

/-- An event class at rest. -/
def EventCount.zero : EventCount := ⟨0, 0, false⟩

/-- One event of a class counted in a group at a clock: a class whose WINDOW is 0 counts nothing; a window that has
closed reopens at this event; a count above the threshold returns to zero and closes the window. The flag says whether
the class fires. -/
def bumpEvent (e : W64) (clock cls : Nat) (g : Group) : Group × Bool :=
  if evWindow e = 0 then (g, false) else
  let old := mapGet EventCount.zero cls g.events
  let cur : EventCount :=
    if old.isOpen && clock < old.start + evWindow e then { old with count := old.count + 1 } else ⟨1, clock, true⟩
  if evThresh e < cur.count then ({ g with events := mapSet EventCount.zero cls EventCount.zero g.events }, true)
  else ({ g with events := mapSet EventCount.zero cls cur g.events }, false)

/-- The classes of a flag set, rising. -/
def classesOf (fl : BitVec 8) : List Nat := upto 8 (fun i => fl.getLsbD i)

/-- One event of a class counted in a group, wherever it stands: with the classes that have fired, and whether one of
them asks for a trap. -/
def countFor (gid : Nat) (acc : State × BitVec 8 × Bool) (cls : Nat) : State × BitVec 8 × Bool :=
  match groupOf? acc.1 gid with
  | none => acc
  | some g =>
    let e := (ctxOf acc.1 g.ctx).evctl.getD cls 0
    let r := bumpEvent e acc.1.clock.toNat cls g
    let s := modGroup acc.1 gid (fun _ => r.1)
    if r.2 then
      (if 2 ≤ evAction e then { s with ints := s.ints ++ [(g.ctx, cls)] } else s,
        acc.2.1 ||| (1 <<< cls), acc.2.2 || (evAction e % 2 == 1 && g.depth == 0))
    else (s, acc.2.1, acc.2.2)

/-- Events of a no-return operation performed or of an engine operation completed, for the classes of `fl`: a trap they
ask for is taken at the group's next instruction boundary, and its record lists every class that fired (02 R53). -/
def lateEvents (s : State) (gid : Nat) (iaddr : W64) (fl : BitVec 8) : State :=
  let r := (classesOf fl).foldl (countFor gid) (s, 0, false)
  if r.2.2 then modGroup r.1 gid (fun g => { g with due := g.due ||| r.2.1, dueAt := iaddr }) else r.1

/-- Flags ORed into FLAGS. Those that a lane call turns on are ones SRD may leave out before the join (01 R24). -/
def orFlags (g : Group) (lane : Bool) (fl : BitVec 8) : Group :=
  { g with
    flags := g.flags ||| fl
    call := g.call.map (fun c =>
      { c with raised := if lane then c.raised ||| (fl &&& ~~~g.flags) else c.raised &&& ~~~fl }) }

/-- Flags of a no-return operation ORed in when it is performed, with one event for each class that its instruction had
not raised before (08 R150; 11 R219). -/
def lateFlags (s : State) (st : PendStore) (fl : BitVec 8) : State :=
  if fl = 0 then s else
  lateEvents (modGroup s st.gid (fun g => orFlags g st.lane fl)) st.gid st.iaddr (fl &&& ~~~st.flags)

/-! ### Words performed -/

/-- A level read at its home slice: 0 for a byte with an uncorrectable error, with UE (02 R50). -/
def readLevel (s : State) (cls pa : Nat) (odd : Bool) : Nat × BitVec 8 :=
  if s.poison.contains (pa / 4) then (0, flagUE) else (levelIn cls odd (readByte s pa), 0)

/-- The k of a CRBASE register of a context (11 R211). -/
def baseK (s : State) (ctx crb : Nat) : Nat := ((ctxOf s ctx).crbase.getD crb 0).toNat

/-- A counter raised by weights in order, with the draws of the lane of a call (11 R216, R217). -/
def raiseBy (c : LaneCall) (op : CruiseOp) (k : Nat) (x : Raise) (ws : List (Nat × Nat)) : Raise :=
  ws.foldl (fun x w =>
    x.add (cruiseDraw c.seedlo c.seedhi c.cseq op.index op.lane) k (levelMax op.cls) w.1 w.2) x

/-- The weights of a merge: the powers of the source's base below its level (11 R217). -/
def mergeWeights (k level : Nat) : List (Nat × Nat) := (List.range level).map (fun m => ((2 ^ k + 1) ^ m, k * m))

/-- The call of a group, whose draws its cruise operations take. -/
def callOf (g : Group) : LaneCall :=
  g.call.getD ⟨[], [], g.tilew, g.fmode, g.seedlo, g.seedhi, g.cseq, [], 0, [], [], 0⟩

/-- A no-return cruise operation performed at its counter's home slice: the state and its flags (11 R216 to R219). A merge
reads its source and adds to its target at one moment, which the manual gives as two steps (DESIGN CHOICE). -/
def performCruise (s : State) (gid : Nat) (op : CruiseOp) : State × BitVec 8 :=
  match groupOf? s gid with
  | none => (s, op.flags)
  | some g =>
    let c := callOf g
    let old := readLevel s op.cls op.pa op.odd
    let k := baseK s op.ctx op.crb
    let x : Raise := ⟨old.1, mapGet 0 op.lane c.draws, op.flags ||| old.2⟩
    let put (y : Raise) : State × BitVec 8 :=
      let s := performWrite s gid op.pa [levelPut op.cls op.odd (readByte s op.pa) y.level] false
      (modGroup s gid (fun g =>
        { g with call := g.call.map (fun c => { c with draws := mapSet 0 op.lane y.draws c.draws }) }), y.flags)
    match op.kind with
    | .idle => (s, op.flags)
    | .add num exp => put (raiseBy c op k x [(num, exp)])
    | .full => put { x with level := levelMax op.cls, flags := x.flags ||| flagCSAT }
    | .merge pa odd crb =>
      let src := readLevel s op.cls pa odd
      put (raiseBy c op k { x with flags := x.flags ||| src.2 } (mergeWeights (baseK s op.ctx crb) src.1))
    | .set level =>
      put { x with
        level := min level (levelMax op.cls)
        flags := op.flags ||| flagIf (levelMax op.cls < level) flagCSAT }

/-- One word of a store performed at its point of coherence: the state and the flags it raises. What an atomic finds on
another device is free (13 R242). -/
def performWord (s : State) (st : PendStore) : PendWord → State × BitVec 8
  | .write pa data lag _ => (noteOlder (performSeen s st.seen st.gid pa data lag) st pa data, 0)
  | .atomic pa op c lag _ =>
    let r := atomic32 op (word32 (homeBytes s pa 4)) c 0
    (noteOlder (performSeen s st.seen st.gid pa (bytes32 r.1) lag) st pa (bytes32 r.1),
      r.2 ||| flagIf (badWord? s pa 4).isSome flagUE)
  | .cruise op => performCruise s st.gid op
  | .peer device pa lane op =>
    (s, if s.unreach.contains device then flagUE else
      match op with
      | some (code, c) => (atomic32 code (BitVec.ofNat 32 (freeOf s (freeKey 22 (pa * 32 + lane)))) c 0).2
      | none => 0)

/-- A record of a no-return operation, written when it is performed (02 R50; 22 R311). -/
def lateRecord (s : State) (st : PendStore) (p : Nat × Nat) : LogRecord :=
  ⟨((groupOf? s st.gid).map (·.ctx)).getD 0, st.iaddr, st.lane, .mem p.2, p.1, 0, true⟩

/-- A group's count of unacknowledged stores lowered by one. -/
def lowerUnacked (s : State) (gid : Nat) : State := modGroup s gid (fun g => { g with unacked := g.unacked - 1 })

/-- The lower of two places by lane, then by address (02 R52). -/
def lowerPlace (x : Option (Nat × Nat)) (y : Nat × Nat) : Option (Nat × Nat) :=
  match x with
  | none => some y
  | some p => some (if y.1 < p.1 || (y.1 == p.1 && y.2 < p.2) then y else p)

/-- The first word of a store performed; its flags and the place of a bad word wait for the store's completion. -/
def performFirst (s : State) (st : PendStore) : State × PendStore :=
  match st.words with
  | [] => (s, st)
  | w :: ws =>
    let r := performWord s { st with words := ws } w
    (r.1, { st with
      words := ws
      late := st.late ||| r.2
      bad := if r.2.getLsbD 4 then lowerPlace st.bad w.place else st.bad })

/-- A store whose words have all been performed: its flags are ORed in, its log record is written unless its instruction
wrote one, and it is acknowledged (01 R21; 02 R50, R52; 08 R150; 11 R219). -/
def completeStore (s : State) (st : PendStore) : State :=
  let s := match (if st.flags.getLsbD 4 then none else st.bad) with
    | some p => { s with log := s.log ++ [lateRecord s st p] }
    | none => s
  lowerUnacked (lateFlags s st st.late) st.gid

/-- The first word of a store performed; a store with none left is acknowledged. -/
def ackAt (s : State) (n : Nat) : State :=
  match s.stores[n]? with
  | none => s
  | some st =>
    let r := performFirst s st
    if r.2.words.isEmpty then completeStore { r.1 with stores := dropAt n r.1.stores } r.2
    else { r.1 with stores := r.1.stores.set n r.2 }

/-- Every word of one store performed, and the store acknowledged. -/
def ackStore (s : State) (st : PendStore) : State :=
  let r := st.words.foldl (fun acc _ => performFirst acc.1 acc.2) (s, st)
  completeStore r.1 r.2

/-- Whether a store is a cruise operation. -/
def PendStore.isCruise (st : PendStore) : Bool := st.words.any (fun w => match w with | .cruise _ => true | _ => false)

/-- Whether a word is a cruise operation. -/
def PendWord.isCruise (w : PendWord) : Bool := match w with | .cruise _ => true | _ => false

/-- The lane whose draws a word may take (11 R214, R216). -/
def PendWord.drawer : PendWord → Option Nat
  | .cruise op => (match op.kind with | .add .. => some op.lane | .merge .. => some op.lane | _ => none)
  | _ => none

/-- Whether every access of a store's instruction is ordered before those of a later one of its group (12 R223): the
scalar stream's and a lane call's are unordered until the join (06 R98), and those of two splits that have not merged
likewise (08 R146, R160). A merge drains, so the splits of two stores on their way have merged only where they share a
lane. -/
def PendStore.precedes (e st : PendStore) : Bool :=
  e.gid == st.gid && (e.call != st.call || e.call == 0 || (e.lane == st.lane && (!e.lane || e.split &&& st.split != 0)))

/-- Whether two stores are of one agent when the words `w` and `v` are: the scalar stream, or a lane (12 R221). -/
def PendStore.sameAgent (e st : PendStore) (w v : PendWord) : Bool :=
  e.lane == st.lane && (!e.lane || w.place.1 == v.place.1)

/-- Whether a word `w` of a store is performed before a word `v` of a later one: accesses of one location that are
ordered (12 R222, R226); packets of one agent to one line (13 R240); draws of one lane, which are numbered in its order
(11 R214); and stores to one location of which some reader has read both, which it did in their order (12 R226). -/
def PendStore.holdsBack (e st : PendStore) (w v : PendWord) : Bool :=
  (e.precedes st && (w.meets v || (e.sameAgent st w v && w.lines.any v.lines.contains) ||
    (w.drawer.isSome && w.drawer == v.drawer))) ||
  (w.meets v && e.seen.any st.seen.contains)

/-- Whether a word is performed before a later one of its own store: those of one location, and a cruise instruction's
lanes, which ascend (08 R145, R149; 11 R219). -/
def PendWord.leads (w v : PendWord) : Bool := w.meets v || (w.isCruise && v.isCruise)

/-- The stores that satisfy `p`, and the earlier ones that must be performed before them. -/
def markAck (p : PendStore → Bool) : List PendStore → List (PendStore × Bool)
  | [] => []
  | st :: rest =>
    let r := markAck p rest
    (st, p st || r.any (fun q => q.2 && st.words.any (fun w => q.1.words.any (st.holdsBack q.1 w)))) :: r

/-- The stores that satisfy `p` performed, oldest first; the others stay. -/
def ackWhere (s : State) (p : PendStore → Bool) : State :=
  let marked := markAck p s.stores
  let out := (marked.filter (·.2)).map (·.1)
  out.foldl ackStore { s with stores := (marked.filter (fun q => !q.2)).map (·.1) }

/-- The cruise operations of a group performed, which its draw counts need (11 R214). -/
def settleCruise (s : State) (gid : Nat) : State :=
  if s.stores.any (fun st => st.gid == gid && st.isCruise) then ackWhere s (fun st => st.gid == gid && st.isCruise) else s

/-- The drain of a release (12 R228): every store of the group is performed and acknowledged, and every replica holds
them (13 R241). -/
def drainStores (s : State) (gid : Nat) : State :=
  flushProps (ackWhere s (fun st => st.gid == gid)) gid

/-- Whether a store reaches some of `n` bytes at an address, and is a group's own or one it has read. -/
def PendStore.binds (st : PendStore) (gid pa n : Nat) : Bool := (st.gid == gid || st.seen.contains gid) && st.touches pa n

/-- A group's stores to some of `n` bytes, and those it has read there, performed with the earlier ones that must come
before them: a read at the point of coherence then sees each of them (12 R225, R226). -/
def settleBytes (s : State) (gid pa n : Nat) : State :=
  if s.stores.any (fun st => st.binds gid pa n) then ackWhere s (fun st => st.binds gid pa n) else s

/-- The writes that a group has made or read in `n` bytes at an address, taken by its die's replica (12 R225, R226). -/
def settleProps (s : State) (gid die pa n : Nat) : State :=
  takeProps s (fun q => q.die == die && q.seen.contains gid && q.touches pa n)

/-! ### Loads and stores as they issue -/

/-- Whether a load of the page goes through the L1 (17 R257; 13 R239, R243). -/
def usesL1 (s : State) (ctx : Nat) (a : Access) : Bool :=
  pteClass a.pte == 0 && !a.peer && !pteByp a.pte && !ordStr s ctx

/-- Whether bytes written at an address are, in some 32-bit word, those that a read returned. -/
def gaveBytes (p : Nat) (data : List Byte) (pa : Nat) (bs : List Byte) : Bool :=
  (wordsAt p data.length).any (fun w =>
    let both := (List.range bs.length).filter (fun i => (pa + i) / 4 == w && p ≤ pa + i && pa + i < p + data.length)
    !both.isEmpty && both.all (fun i => data.getD (pa + i - p) 0 == bs.getD i 0))

/-- Whether a word on its way writes bytes that a read of an address returned. -/
def PendWord.gave (w : PendWord) (pa : Nat) (bs : List Byte) : Bool :=
  match w with
  | .write p data _ _ => gaveBytes p data pa bs
  | _ => false

/-- The group in focus has read bytes in an L1 line: the stores of other groups of its core that gave them, and the
writes that its die's replica has not yet taken, are ones it has seen (12 R226). -/
def markSeen (s : State) (pa : Nat) (bs : List Byte) : State :=
  if s.stores.isEmpty && s.props.isEmpty then s else
  let near (gid : Nat) : Bool := (groupOf? s gid).any (fun g => g.core == s.g.core)
  { s with
    stores := s.stores.map (fun st =>
      if st.gid != s.g.gid && !st.seen.contains s.g.gid && near st.gid && st.words.any (fun w => w.gave pa bs) then
        { st with seen := s.g.gid :: st.seen }
      else st)
    props := s.props.map (fun q =>
      if q.die == dieOf s.g.core && !q.seen.contains s.g.gid && near q.gid && gaveBytes q.pa q.data pa bs then
        { q with seen := s.g.gid :: q.seen }
      else q) }

/-- `n` bytes at the point of coherence as the group in focus reads them: what it has stored or read in the `k` bytes at
`at_` that it asks for comes first. -/
def freshBytes (s : State) (a : Access) (at_ k pa n : Nat) : List Byte × State :=
  let s := if a.peer then s else settleBytes s s.g.gid at_ k
  let s := if pteRep a.pte then settleProps s s.g.gid (dieOf s.g.core) at_ k else s
  (coherentBytes s s.g.ctx s.g.core { a with pa := pa } n, s)

/-- A miss of an access of `k` bytes: its sector, or under `both` its whole line, is brought in (17 R257, R258). -/
def fillBytes (s : State) (a : Access) (k : Nat) (both : Bool) : List Byte × State :=
  let line := a.pa / 64 * 64
  if both then
    let r := freshBytes s a a.pa k line 64
    (if upperSector a.pa then r.1.drop 32 else r.1.take 32,
      setCore r.2 (l1Fill r.2 (coreOf r.2 s.g.core) a.pa (some (r.1.take 32)) (some (r.1.drop 32))))
  else
    let r := freshBytes s a a.pa k (a.pa / 32 * 32) 32
    let half (hi : Bool) : Option (List Byte) := if upperSector a.pa == hi then some r.1 else none
    (r.1, setCore r.2 (l1Fill r.2 (coreOf r.2 s.g.core) a.pa (half false) (half true)))

/-- Bytes loaded by the group in focus at an access that has passed its checks; `both` says that its instruction needs
both sectors of the line. A hit whose bytes differ from the point of coherence is free to have been evicted before
(17 R257). A read of a word to which the group has a store on its way waits for it (12 R225). -/
def loadFrom (s : State) (a : Access) (n : Nat) (both : Bool) : List Byte × State :=
  let part (bs : List Byte) : List Byte := (bs.drop (a.pa % 32)).take n
  if usesL1 s s.g.ctx a then
    let mine := s.stores.any (fun st => st.gid == s.g.gid && st.touches a.pa n)
    match (if mine then none else l1Hit (coreOf s s.g.core) s.g a.pa n) with
    | some old =>
      let stays := old == coherentBytes s s.g.ctx s.g.core { a with pa := a.pa / 32 * 32 } 32 || choose s (freeKey 10 (a.pa / 32)) 2 == 0
      if stays then (part old, markSeen s a.pa (part old))
      else
        let r := fillBytes s a n both
        (part r.1, r.2)
    | none =>
      let r := fillBytes s a n both
      (part r.1, r.2)
  else freshBytes s a a.pa n a.pa n

/-- Bytes loaded by an instruction that needs one sector of the line. -/
def loadBytes (s : State) (a : Access) (n : Nat) : List Byte × State := loadFrom s a n false

/-- Room made for one more unacknowledged store: at 255 the oldest is acknowledged first (01 R21). Under ordering
revision 1 every earlier store is (13 R243). -/
def roomForStore (s : State) : State :=
  if ordStr s s.g.ctx then drainStores s s.g.gid
  else if 255 ≤ s.g.unacked then
    match findIdx? (fun (st : PendStore) => st.gid == s.g.gid) s.stores 0 with
    | some (i, st) => ackStore { s with stores := dropAt i s.stores } st
    | none => s
  else s

/-- The fabric links that a packet to another device may leave by, the 18 chip-to-chip ports, and those that one to another
die may: three die-to-die links, 18 to 20 (22 R308, R309). -/
def linksTo (away : Bool) : List Nat := if away then List.range 18 else [18, 19, 20]

/-- The link of a packet, by the free value `seed` and the packet's place: any link of its kind; each time its link fails
it is sent again on any that has not failed (13 R240; 22 R309). -/
def linkFor (s : State) (seed k : Nat) (away : Bool) : Nat :=
  let pick (ls : List Nat) (i : Nat) : Nat := ls.getD (Config.freeNat seed (freeKey 23 (k * 32 + i)) % ls.length) 18
  (s.links.foldl (fun (acc : Nat × List Nat) l =>
    let open_ := acc.2.filter (· != l)
    (if acc.1 = l then pick open_ open_.length else acc.1, open_)) (pick (linksTo away) 31, linksTo away)).1

/-- A store as its instruction issues it. -/
def newStore (s : State) (lane : Bool) (words : List PendWord) (iaddr : W64) (fl : BitVec 8) : PendStore :=
  { gid := s.g.gid, words := words, lane := lane, iaddr := iaddr, flags := fl, seed := s.frees
    split := if lane then (s.g.splits.getD s.ent Split.none).mask else 0
    call := (s.g.call.map (·.id)).getD 0 }

/-- A store instruction of the group in focus issued with its words and the flags it has raised (01 R21; 08 R147). -/
def issueStore (s : State) (lane : Bool) (words : List PendWord) (iaddr : W64) (fl : BitVec 8) : State :=
  let s := roomForStore s
  { s with stores := s.stores ++ [newStore s lane words iaddr fl], g := { s.g with unacked := s.g.unacked + 1 } }

/-- The word of a store of a lane as it travels, and the matching line of the issuing core updated. -/
def storeWord (s : State) (a : Access) (data : List Byte) (lane : Nat) : PendWord × State :=
  if a.peer then (.peer (peerDevice s s.g.ctx a) a.pa lane none, s)
  else
    let c := coreOf s s.g.core
    (.write a.pa data (laggingPage s s.g.ctx a) lane, if (lineOf c a.pa).isSome then setCore s (l1Update c a.pa data) else s)

/-- The stores that come before a returning atomic of the group in focus: of its agent to the line, and of those ordered
before it to the word, with those that must come before them (12 R222; 13 R240). -/
def settleAtomic (s : State) (a : Access) (n : Nat) (lane : Option Nat) : State :=
  let v : PendWord :=
    if a.peer then .peer (peerDevice s s.g.ctx a) a.pa (lane.getD 0) none
    else .write a.pa (List.replicate n 0) false (lane.getD 0)
  let me := newStore s lane.isSome [v] 0 0
  let first (st : PendStore) : Bool :=
    st.words.any (fun w => st.holdsBack me w v) || (!a.peer && st.seen.contains s.g.gid && st.touches a.pa n)
  if s.stores.any first then ackWhere s first else s

/-- A read-modify-write of the group in focus at the point of coherence, by its scalar stream or a lane: its earlier stores
are performed first, and the line leaves the issuing core's L1 (06 R93; 08 R149). A word with an uncorrectable error is
read as +0 (02 R50). -/
def atomicAccess (s : State) (lane : Option Nat) (a : Access) (n : Nat) (f : List Byte → List Byte) : List Byte × State :=
  let s := settleAtomic s a n lane
  let c := coreOf s s.g.core
  let s := if (lineOf c a.pa).isSome then setCore s (l1Drop c a.pa) else s
  if a.peer then (coherentBytes s s.g.ctx s.g.core a n, s)
  else
    let old := homeBytes s a.pa n
    (old, performWrite s s.g.gid a.pa (f old) (laggingPage s s.g.ctx a))

/-! ### Uncorrectable errors (02 R50) -/

/-- Whether a word read from memory has an uncorrectable error. -/
def poisoned (s : State) (a : Access) : Bool := !a.peer && s.poison.contains (a.pa / 4)

/-- Whether an access reaches a device that the fabric cannot reach (22 R311). -/
def peerLost (s : State) (a : Access) : Bool := lostPage s s.g.ctx a.pte

/-- Whether a word read is replaced by +0 with UE and a log record. -/
def wordLost (s : State) (a : Access) : Bool := poisoned s a || peerLost s a

/-- A word loaded with an uncorrectable element replaced by +0. -/
def cleanWord (s : State) (a : Access) (w : W32) : W32 := if poisoned s a then 0 else w

end Sys2Proof.Machine
end

