-- ==== Sys2Proof/Machine/Ops.lean ====
section
/-! DEFINITION. The named operations over the group in focus: registers, masks, tags, landings, flags and events,
release and acquire, the join of a lane call, taking a trap and returning from one, halting, waiting. -/

namespace Sys2Proof.Machine

open Host

/-- Why an instruction does not retire: it traps, it waits, or its group is suspended by a translation fault. -/
inductive Stop where
  | trap (req : TrapReq)
  | wait (w : Wait)
  | suspend (req : TrapReq)                 -- the trap 0x04 that a refusal to map delivers
  deriving DecidableEq, Repr

/-- An outcome of a step of this machine. -/
abbrev Out := Outcome State Fault Refusal

/-! ### Scalar registers (01 R12, R13) -/

/-- The number under which an uncorrectable error of a scalar register is listed, after those of the V registers and the
tile words. -/
def scalarBad (r : Nat) : Nat := 32768 + r

/-- A scalar register as the scalar stream reads it: S0 is zero, and so is one with an uncorrectable error (02 R50). -/
def readS (s : State) (r : Nat) : W64 :=
  if r = 0 || s.g.poison.contains (scalarBad r) then 0 else mapGet 0 r s.g.sregs

/-- A scalar register written by the scalar stream: a write to S0 is discarded. -/
def writeS (s : State) (r : Nat) (v : W64) : State :=
  if r = 0 then s else { s with g := { s.g with
    sregs := mapSet 0 r v s.g.sregs
    poison := s.g.poison.filter (· != scalarBad r) } }

/-- The lanes of the split that a lane belongs to. -/
def splitOf (g : Group) (l : Nat) : W32 :=
  (((g.splits ++ g.overflow).find? (fun x => x.state != .empty && x.mask.getLsbD l)).map (·.mask)).getD 0

/-- The values that a lane instruction may read in a scalar register (01 R13): the snapshot taken at LCALL; or the latest
value that the call wrote to one of S768 to S1023, with those that writes not ordered with it gave. -/
def laneValues (g : Group) (r : Nat) : List W64 :=
  if r = 0 || g.poison.contains (scalarBad r) then [0] else
  match g.call with
  | none => [mapGet 0 r g.sregs]
  | some c =>
    match (c.written.filter (fun p => p.key == r)).map (fun p => p.value.zeroExtend 64) with
    | [] => [mapGet 0 r c.snap]
    | vs => vs

/-- A scalar register as a lane instruction reads it. -/
def laneReadS (s : State) (r : Nat) : W64 :=
  let vs := laneValues s.g r
  vs.getD (choose s (freeKey 11 r) vs.length) 0

/-- A lane write to one of S768 to S1023 by a split: 32 bits, seen by the call at once and by the scalar stream after the
join. The writes that came before it in order are gone; those of splits not yet rejoined stay beside it (01 R13). -/
def laneWriteS (g : Group) (r : Nat) (v : W32) (split : W32) : Group :=
  match g.call with
  | none => { g with sregs := mapSet 0 r (v.zeroExtend 64) g.sregs }
  | some c => { g with
      call := some { c with
        written := ⟨r, v, split⟩ :: c.written.filter (fun p => p.key != r || p.lanes &&& split == 0) }
      poison := g.poison.filter (· != scalarBad r) }

/-! ### Masks, vector registers, tiles (01 R14 to R17) -/

/-- A mask register: K0 is all ones. -/
def readK (g : Group) (k : Nat) : W32 := if k = 0 then BitVec.allOnes 32 else mapGet 0 k g.kregs

/-- A mask register written: a write to K0 is discarded. -/
def writeK (g : Group) (k : Nat) (v : W32) : Group :=
  if k = 0 then g else { g with kregs := mapSet 0 k v g.kregs }

/-- One lane of a vector register. -/
def readV (g : Group) (r l : Nat) : W32 := mapGet 0 (r * 32 + l) g.vregs

/-- Whether a lane's split is not the whole lane call. -/
def divided (g : Group) (l : Nat) : Bool :=
  (g.splits ++ g.overflow).any (fun x => x.state != .empty && !x.mask.getLsbD l)

/-- What a call remembers when an element of a lane is about to be written: under divided splits the value it held, which
the other splits may still read (07 R121); of a VINS by another split nothing any more. -/
def notePast (g : Group) (k l : Nat) (c : LaneCall) : LaneCall :=
  { c with
    past := if divided g l then ⟨k, mapGet 0 k g.vregs, splitOf g l⟩ :: c.past else c.past
    stale := c.stale.filter (fun p => p.key != k) }

/-- One lane of a vector register written. -/
def writeV (g : Group) (r l : Nat) (v : W32) : Group :=
  { g with
    vregs := mapSet 0 (r * 32 + l) v g.vregs
    poison := g.poison.filter (· != r * 32 + l)
    call := g.call.map (notePast g (r * 32 + l) l) }

/-- A vector register's format tag. -/
def tagV (g : Group) (r : Nat) : BitVec 4 := mapGet 0 r g.vtags

/-- A vector register's format tag set. -/
def setTagV (g : Group) (r : Nat) (t : BitVec 4) : Group := { g with vtags := mapSet 0 r t g.vtags }

/-- A vector register written in some lanes, with its tag (01 R16). -/
def writeReg (g : Group) (r : Nat) (t : BitVec 4) (vals : List (Nat × W32)) : Group :=
  setTagV (vals.foldl (fun acc p => writeV acc r p.1 p.2) g) r t

/-- Whether the group holds the block of a vector register (01 R14). -/
def heldV (g : Group) (r : Nat) : Bool := r / 128 ≤ g.blocks

/-- The key of a tile word. -/
def tileKey (t row col : Nat) : Nat := (t * 32 + row) * 128 + col

/-- A word of a tile. -/
def readT (g : Group) (t row col : Nat) : W32 := mapGet 0 (tileKey t row col) g.tregs

/-- The number under which an uncorrectable error of a tile word is listed, after those of the V registers. -/
def tileBad (t row col : Nat) : Nat := 16384 + tileKey t row col

/-- A word of a tile written. -/
def writeT (g : Group) (t row col : Nat) (v : W32) : Group :=
  { g with
    tregs := mapSet 0 (tileKey t row col) v g.tregs
    poison := g.poison.filter (· != tileBad t row col) }

/-- A tile's format tag. -/
def tagT (g : Group) (t : Nat) : BitVec 4 := mapGet 0 t g.ttags

/-- A tile's format tag set. -/
def setTagT (g : Group) (t : Nat) (v : BitVec 4) : Group := { g with ttags := mapSet 0 t v g.ttags }

/-- A handle's state: H0 is never pending. -/
def readH (g : Group) (h : Nat) : HandleState := if h = 0 then .free else mapGet .free h g.handles

/-- A handle's state set. -/
def writeH (g : Group) (h : Nat) (v : HandleState) : Group :=
  if h = 0 then g else { g with handles := mapSet .free h v g.handles }

/-- An engine counter. -/
def counterOf (g : Group) (cls : Nat) : Nat := mapGet 0 cls g.counters

/-- A class error latch: code 0 for none. -/
def latchOf (g : Group) (cls : Nat) : BitVec 8 × W64 := mapGet (0, 0) cls g.latches

/-- A class error latch set unless it already holds an earlier failure (06 R109). -/
def setLatch (g : Group) (cls : Nat) (code : BitVec 8) (addr : W64) : Group :=
  if (latchOf g cls).1 = 0 then { g with latches := mapSet (0, 0) cls (code, addr) g.latches } else g

/-! ### Landings (03 R62) -/

/-- A result in a register key: a V register with its tag; for the code of one of S768 to S1023 the value of the
highest lane (07 R119). Values rise by lane; `split` gives the split that wrote a lane's. -/
def writeKeyBy (split : Nat → W32) (g : Group) (r : Nat) (t : BitVec 4) (vals : List (Nat × W32)) : Group :=
  if r < 512 then writeReg g r t vals
  else match vals.getLast? with
    | some p => laneWriteS g (r - 0x400) p.2 (split p.1)
    | none => g

/-- A result written by the split to which its lanes belong now. -/
def writeKey (g : Group) (r : Nat) (t : BitVec 4) (vals : List (Nat × W32)) : Group := writeKeyBy (splitOf g) g r t vals

/-- The result of a landing in its registers, as written by the split that issued it, with the elements that an uncorrectable
error has struck on the way (01 R13; 02 R50); the entry that waited for it becomes READY (08 R148). -/
def applyLanding (g : Group) (d : Landing) : Group :=
  let g := d.writes.foldl (fun acc w => writeKeyBy (fun _ => d.lanes) acc w.1 w.2.1 w.2.2) g
  let g := if d.bad.isEmpty then g else { g with poison := d.bad ++ g.poison }
  if d.wakes then
    let wake (x : Split) : Split := if x.state = .waiting && x.mask == d.lanes then { x with state := .ready } else x
    { g with splits := g.splits.map wake, overflow := g.overflow.map wake }
  else g

/-- Whether a result has landed and every window over it has been counted down. -/
def Landing.spent (d : Landing) : Bool := d.landed && d.left.all (fun p => p.2 ≤ 1)

/-- Whether a landing covers a register. -/
def Landing.covers (d : Landing) (r : Nat) : Bool := d.writes.any (fun w => w.1 == r)

/-- The results that satisfy `p` landed, oldest first; their windows stay open. -/
def landWhere (g : Group) (p : Landing → Bool) : Group :=
  let now (d : Landing) : Bool := !d.landed && p d
  let rest := (g.landings.map (fun d => if now d then { d with landed := true } else d)).filter (fun d => !d.spent)
  (g.landings.filter now).foldl applyLanding { g with landings := rest }

/-- Every outstanding result landed and every window closed (03 R62). -/
def landAll (g : Group) : Group :=
  (g.landings.filter (fun d => !d.landed)).foldl applyLanding { g with landings := [] }

/-- The largest of a landing's counts among the lanes of a mask. -/
def Landing.most (d : Landing) (mask : W32) : Nat := (lanesOf mask).foldl (fun n l => max n (mapGet 0 l d.left)) 0

/-- The instructions left in a landing's window for a split: none when the window is not the split's. -/
def Landing.window (d : Landing) (mask : W32) : Option Nat :=
  match d.most mask with
  | 0 => none
  | n + 1 => some n

/-- The window that an instruction of a split opens over its result. -/
def openWindow (mask : W32) (n : Nat) : SMap Nat := (lanesOf mask).map (fun l => (l, n + 1))

/-- Splits rejoined: the rejoined split keeps the largest of the remaining counts (03 R62). -/
def joinWindows (g : Group) (mask : W32) : Group :=
  let join (d : Landing) : Landing :=
    if d.most mask = 0 then d
    else { d with left := (lanesOf mask).foldl (fun m l => mapSet 0 l (d.most mask) m) d.left }
  { g with landings := g.landings.map join }

/-- A register about to be read by a split: past its window the read waits for the result; inside the window, and in
another split, either value is read (03 R62). The flag says whether the read was inside a window. The registers of one
result (VDEC, GBOX, GTRI write several) land together, which the manual does not say of them (DESIGN CHOICE). -/
def readTouch (s : State) (mask : W32) (r : Nat) : State × Bool :=
  let inside := s.g.landings.any (fun d => d.covers r && (match d.window mask with | some (_ + 1) => true | _ => false))
  let both := choose s (freeKey 1 r) 2 = 1
  ({ s with g := landWhere s.g (fun d => d.covers r && (both || d.window mask == some 0)) }, inside)

/-- A register about to be written: earlier results for it land first, so that the later write stands (03 R62). -/
def writeTouch (g : Group) (r : Nat) : Group := landWhere g (fun d => d.covers r)

/-- A long-latency result in flight, or landed at once when it opens no window. The scoreboard holds sixteen results in
flight: a seventeenth waits until the oldest has landed (01 R20). -/
def addLanding (g : Group) (d : Landing) : Group :=
  let flight := g.landings.filter (fun x => !x.landed)
  let g := if 16 ≤ flight.length then landWhere g (fun x => flight.head? == some x) else g
  if d.spent then g else { g with landings := g.landings ++ [d] }

/-- One instruction of a split counted in every open window of its lanes (03 R62). -/
def countWindows (g : Group) (mask : W32) : Group :=
  let less (m : SMap Nat) (l : Nat) : SMap Nat :=
    let n := mapGet 0 l m
    if n ≤ 1 then m else mapSet 0 l (n - 1) m
  { g with landings := (g.landings.map (fun d => { d with left := (lanesOf mask).foldl less d.left })).filter (fun d => !d.spent) }

/-- A core's MMA completes: its rows are written to the tile and the array is free (09 R178). -/
def completeMma (s : State) (core : Nat) : State :=
  let c := coreOf s core
  match c.mma with
  | none => s
  | some m =>
    setCore (modGroup s m.gid (fun g =>
      setTagT (m.writes.foldl (fun acc w => writeT acc m.tile (w.1 / 128) (w.1 % 128) w.2) g) m.tile m.tag))
      { c with mma := none }

/-- The MMA in progress completes first if it belongs to the group in focus. -/
def settleMma (s : State) : State :=
  match (coreOf s s.g.core).mma with
  | some m => if m.gid = s.g.gid then completeMma s s.g.core else s
  | none => s

/-- Every outstanding result of the group in focus lands: the MMA in progress and the landings. -/
def landResults (s : State) : State :=
  let s := settleMma s
  { s with g := landAll s.g }

/-! ### What a group knows of ICINVs (03 R65) -/

/-- The keys of what is ordered after ICINVs: a group; what it has released last; a future word; the arrivals at a team's
or a cluster's phase; a frame; a grid; a FIFO slot; an engine operation. -/
def knowKey (kind n : Nat) : Nat := n * 16 + kind

/-- The key of a group. -/
abbrev groupKey (gid : Nat) : Nat := knowKey 0 gid
/-- The key of what a group has released last. -/
abbrev releaseKey (gid : Nat) : Nat := knowKey 1 gid
/-- The key of a future word, by the number under which its waiters are listed. -/
abbrev futureKey (n : Nat) : Nat := knowKey 2 n
/-- The key of the arrivals at a phase of a team, or of a cluster by its first team. -/
abbrev phaseKey (cluster : Bool) (team phase : Nat) : Nat := knowKey (if cluster then 4 else 3) (team * 2 + phase % 2)
/-- The key of a frame. -/
abbrev frameKeyOf (va : Nat) : Nat := knowKey 5 va
/-- The key of a grid. -/
abbrev gridKey (id : Nat) : Nat := knowKey 6 id
/-- The key of a FIFO slot. -/
abbrev slotKey (core bank slot : Nat) : Nat := knowKey 7 ((core * 32 + bank) * 2048 + slot)
/-- The key of an engine operation. -/
abbrev opKey (id : Nat) : Nat := knowKey 8 id
/-- The key of the ends of a grid's groups. -/
abbrev endKey (id : Nat) : Nat := knowKey 9 id
/-- The key of what is ordered after no ICINV: the host, and other devices. -/
abbrev nobody : Nat := knowKey 0 0

/-- The ICINVs known under a key, rising. -/
def known (s : State) (key : Nat) : List Nat := mapGet [] key s.know

/-- ICINVs added under a key. -/
def addKnown (s : State) (key : Nat) (ids : List Nat) : State :=
  if ids.isEmpty then s
  else { s with know := mapSet [] key (sortBy id (known s key ++ ids).eraseDups) s.know }

/-- What one key knows told to another. -/
def tell (s : State) (from_ key : Nat) : State := addKnown s key (known s from_)

/-- What one key knows put in the place of what another knew. -/
def retell (s : State) (from_ key : Nat) : State := { s with know := mapSet [] key (known s from_) s.know }

/-- A group that has acquired what a key released: what it fetched before the ICINVs known there it executes no more. -/
def learn (s : State) (gid key : Nat) : State :=
  let ids := known s key
  if ids.isEmpty then s
  else modGroup (addKnown s (groupKey gid) ids) gid (fun g =>
    { g with leftover := g.leftover.filter (fun p => !ids.contains p.1) })

/-! ### Release and acquire (12 R228) -/

/-- The drain of a release by the group in focus. -/
def release (s : State) : State :=
  let s := drainStores s s.g.gid
  retell s (groupKey s.g.gid) (releaseKey s.g.gid)

/-- The stamps of a core wrapped: its L1 is invalidated, and every resident group's acquire stamp and the core stamp are
zero. -/
def wrapStamp (s : State) (core : Nat) : State :=
  let zero (g : Group) : Group := if g.core = core && g.run = .resident then { g with stamp := 0 } else g
  setCore { s with g := zero s.g, groups := s.groups.map (fun p => (p.1, zero p.2)) }
    { coreOf s core with lines := [], stamp := 0 }

/-- The core stamp advanced by one; past 255 the stamps wrap first. -/
def advanceStamp (s : State) (core : Nat) : State :=
  let s := if (coreOf s core).stamp = 255 then wrapStamp s core else s
  let c := coreOf s core
  setCore s { c with stamp := c.stamp + 1 }

/-- An acquire by a group: its acquire stamp becomes the core stamp plus one, and the core stamp advances to it. -/
def acquireFor (s : State) (gid : Nat) : State :=
  match groupOf? s gid with
  | none => s
  | some g =>
    let s := advanceStamp s g.core
    modGroup s gid (fun x => { x with stamp := (coreOf s g.core).stamp })

/-- An acquire by the group in focus. -/
def acquire (s : State) : State :=
  let s' := advanceStamp s s.g.core
  { s' with g := { s'.g with stamp := (coreOf s' s.g.core).stamp } }

/-! ### Splits (01 R20, 08 R154 to R161) -/

/-- An entry of the split table. -/
def splitAt (g : Group) (e : Nat) : Split := g.splits.getD e Split.none

/-- An entry of the split table replaced. -/
def setSplit (g : Group) (e : Nat) (x : Split) : Group := { g with splits := g.splits.set e x }

/-- The split in focus. -/
def curSplit (s : State) : Split := splitAt s.g s.ent

/-- Whether every split of the call has reached LSTOP (08 R161). -/
def callStopped (g : Group) : Bool :=
  (g.splits ++ g.overflow).all (fun x => x.state == .empty || x.state == .stopped)

/-- The lanes taking part in the call (01 R20). -/
def callLanes (g : Group) : W32 :=
  (g.splits ++ g.overflow).foldl (fun m x => if x.state = .empty then m else m ||| x.mask) 0

/-- The largest draw count of a call (11 R214). -/
def maxDraws (c : LaneCall) : Nat := c.draws.foldl (fun n p => max n p.2) 0

/-- The scalar registers after a lane call: each that it wrote takes its value, zero-extended; of values written in no
order, any one (01 R13). -/
def publishRegs (s : State) (c : LaneCall) : SMap W64 :=
  ((c.written.map (·.key)).eraseDups).foldl (fun m r => mapSet 0 r (laneReadS s r) m) s.g.sregs

/-- A lane call completed: the lane-written registers are published, CSEQ takes the largest draw count, every entry is
EMPTY (01 R13; 06 R97; 11 R214). -/
def publishCall (s : State) : Group :=
  match s.g.call with
  | none => s.g
  | some c =>
    { s.g with
      sregs := publishRegs s c
      cseq := s.g.cseq + BitVec.ofNat 32 (maxDraws c)
      call := none
      splits := List.replicate 8 Split.none
      overflow := []
      meld := none }

/-- The join of LJOIN and of every J instruction (06 R85, R97): nothing without a call, a wait until every split has
reached LSTOP. -/
def joinCall (s : State) : Except Stop State :=
  match s.g.call with
  | none => .ok s
  | some _ =>
    if callStopped s.g then
      let s := settleCruise (landResults s) s.g.gid
      .ok { s with g := publishCall s }
    else .error (.wait .join)

/-! ### Flags and events (01 R24, R25; 02 R53) -/

/-- The EVCTL register of a class of the group's context. -/
def evctlOf (s : State) (cls : Nat) : W64 := (ctxOf s s.g.ctx).evctl.getD cls 0

/-- What a class that fires does besides closing its window: a host interrupt is posted if the action asks for one. The
flag says whether it asks for a trap; none is taken in a handler (18 R285). -/
def fireClass (s : State) (cls : Nat) : State × Bool :=
  let act := evAction (evctlOf s cls)
  (if 2 ≤ act then { s with ints := s.ints ++ [(s.g.ctx, cls)] } else s, (act == 1 || act == 3) && s.g.depth == 0)

/-- One event of a class counted in the group in focus: whether the class fired, and whether it asks for a trap. -/
def countEvent (s : State) (cls : Nat) : State × Bool × Bool :=
  let r := bumpEvent (evctlOf s cls) s.clock.toNat cls s.g
  let s' := { s with g := r.1 }
  if r.2 then
    let f := fireClass s' cls
    (f.1, true, f.2)
  else (s', false, false)

/-- Flags raised by a retiring instruction of a stream: ORed into FLAGS, one event counted for each class. The result
names every class that fired, which the record of the one trap taken lists, and whether one of them asks for trap 0x09
(02 R53; 18 R289). -/
def raiseFlags (s : State) (lane : Bool) (fl : BitVec 8) : State × BitVec 8 × Bool :=
  if fl = 0 then (s, 0, false) else
  (classesOf fl).foldl (fun (acc : State × BitVec 8 × Bool) cls =>
    let r := countEvent acc.1 cls
    (r.1, if r.2.1 then acc.2.1 ||| (1 <<< cls) else acc.2.1, acc.2.2 || r.2.2))
    ({ s with g := orFlags s.g lane fl }, 0, false)

/-! ### Entry descriptors (18 R272) -/

/-- A field of a little-endian record. -/
def field (bs : List Byte) (off n : Nat) : Nat := leNat ((bs.drop off).take n)

/-- An entry descriptor parsed and checked by every rule that does not depend on its use. -/
def parseDescriptor (bs : List Byte) : Option Descriptor :=
  let scalar := BitVec.ofNat 64 (field bs 0 8)
  let lanebase := BitVec.ofNat 64 (field bs 8 8)
  let w := BitVec.ofNat 32 (field bs 16 4)
  let x := BitVec.ofNat 32 (field bs 20 4)
  let d : Descriptor := {
    scalar := scalar
    lanebase := lanebase
    ccols := (w.extractLsb' 22 4).toNat
    crows := (w.extractLsb' 18 4).toNat
    groups := (w.extractLsb' 13 5).toNat + 1
    scratch := (w.extractLsb' 8 5).toNat
    tiles := (w.extractLsb' 5 3).toNat
    regs := (w.extractLsb' 3 2).toNat
    priv := w.getLsbD 2
    kind := (w.extractLsb' 0 2).toNat
    fdepth := if (x.extractLsb' 8 6).toNat = 0 then 32 else (x.extractLsb' 8 6).toNat
    btimer := (x.extractLsb' 0 8).toNat
    roles := (bs.drop 24).take 32 }
  let cluster := d.ccols != 0 || d.crows != 0
  if bs.length == 64 && scalar.toNat % 4 == 0 && (lanebase.extractLsb' 0 55).signExtend 64 == lanebase &&
     w.extractLsb' 26 6 == 0 && d.ccols ≤ 6 && d.crows ≤ 6 &&
     (d.ccols == 0) == (d.crows == 0) && d.ccols * d.crows ≤ 12 &&
     d.scratch ≤ 16 && d.tiles ≤ 4 && (!d.priv || d.kind == 2) && d.kind != 3 &&
     x.extractLsb' 14 18 == 0 && (x.extractLsb' 8 6).toNat ≤ 32 && field bs 56 8 == 0 &&
     d.groups * d.tiles ≤ 48 && (d.kind == 0 || (d.groups == 1 && !cluster))
  then some d else none

/-- Whether a descriptor has a cluster shape. -/
def Descriptor.clustered (d : Descriptor) : Bool := d.ccols != 0

/-- The bytes of a checked range as an engine on a die reads them, at the point of coherence (13 R244). -/
def engineBytes (s : State) (die : Nat) (accs : List Access) (n : Nat) : List Byte :=
  (accs.flatMap (fun a => bytesAt s s.g.ctx die a (64 - a.pa % 64))).take n

/-- Bytes of global memory as an engine of a die reads them for the group in focus, with the checks of a global load,
byte-aligned, of NORMAL class. -/
def readOn (s : State) (die : Nat) (va : W64) (n : Nat) : Except AccFault (List Byte) :=
  (checkRange s s.g.ctx s.g.core [0] .read va n).map (fun accs => engineBytes s die accs n)

/-- Bytes of global memory as an engine of the core in focus reads them. -/
def readGlobal (s : State) (va : W64) (n : Nat) : Except AccFault (List Byte) := readOn s (dieOf s.g.core) va n

/-- The state as a read of the group in focus at the point of coherence finds it: its own earlier stores to the bytes of a
range, and the writes it has seen there, come first (08 R146; 12 R225, R226). -/
def settleRange (s : State) (accs : List Access) : State :=
  accs.foldl (fun acc a =>
    let acc := if a.peer then acc else settleBytes acc acc.g.gid a.pa (64 - a.pa % 64)
    if pteRep a.pte then settleProps acc acc.g.gid (dieOf acc.g.core) a.pa (64 - a.pa % 64) else acc) s

/-- The descriptor at an address read by the group in focus at the point of coherence; `none` for one that is invalid. -/
def readDescriptor (s : State) (va : W64) : Except AccFault (Option Descriptor) :=
  (checkRange s s.g.ctx s.g.core [0] .read va 64).map (fun accs =>
    let t := settleRange s accs
    parseDescriptor ((accs.flatMap (fun a => coherentBytes t t.g.ctx t.g.core a (64 - a.pa % 64))).take 64))

/-- The lowest 32-bit word of a checked range of `n` bytes that is bad or lost: its number in the range and its physical
address (02 R50, R52; 22 R311). -/
def lostWord? (s : State) (accs : List Access) (n : Nat) : Option (Nat × Nat) :=
  let words := (accs.flatMap (fun a => (wordsAt a.pa (64 - a.pa % 64)).map (fun w => { a with pa := 4 * w }))).take ((n + 3) / 4)
  (words.zipIdx.find? (fun p => wordLost s p.1)).map (fun p => (p.2, p.1.pa))

/-- The same for a descriptor that the group in focus has read. -/
def lostDescriptor? (s : State) (va : W64) : Option (Nat × Nat) :=
  match checkRange s s.g.ctx s.g.core [0] .read va 64 with
  | .ok accs => lostWord? s accs 64
  | .error _ => none

/-! ### Trap requests -/

/-- A precise trap of the scalar stream. -/
def scalarTrap (s : State) (code : BitVec 8) : TrapReq := ⟨code, false, 0, 0, 0, 0, 0, s.g.spc⟩

/-- A precise trap of the scalar stream with a fault address. -/
def scalarFault (s : State) (f : AccFault) : Stop :=
  let req : TrapReq := { scalarTrap s f.code with sub := f.sub, faddr := f.va }
  if f.code = 0x04 then .suspend req else .trap req

/-- The lane PC of the split in focus (03 R58): its offset from LANEBASE. -/
def lanePc (s : State) : W64 := (curSplit s).lpc.zeroExtend 64

/-- The address that the lane PC of the split in focus stands for. -/
def laneVa (s : State) : W64 := s.g.lanebase + lanePc s

/-- A precise trap of the split in focus. -/
def laneTrap (s : State) (code : BitVec 8) : TrapReq := ⟨code, true, 0, 0, 0, 0, 0, lanePc s⟩

/-- An outcome of an access check as an outcome of the scalar instruction. -/
def scalarCheck {α : Type} (s : State) : Except AccFault α → Except Stop α
  | .ok a => .ok a
  | .error f => .error (scalarFault s f)

/-! ### Halting (18 R288) -/

/-- A context error posted to firmware. -/
def postError (s : State) (kind : ErrorKind) (code : BitVec 8) (addr : W64) : State :=
  { s with errors := s.errors ++ [⟨s.g.ctx, kind, code, addr⟩] }

/-- A group removed from every list of waiters. -/
def leaveQueues (s : State) (gid core : Nat) : State :=
  let ctx := ((groupOf? s gid).map (·.ctx)).getD 0
  let c := viewOf s ctx core
  let s := if (c.vreq ++ c.treq ++ c.qwait).any (fun p => p.1 == gid) then
      putView s ctx { c with
        vreq := c.vreq.filter (fun p => p.1 != gid)
        treq := c.treq.filter (fun p => p.1 != gid)
        qwait := c.qwait.filter (fun p => p.1 != gid) }
    else s
  { s with waiters := s.waiters.filter (fun p => p.2 != gid) }

/-- The group in focus stops and begins to end in error: its lane call is abandoned, results land, its engine
operations are cancelled (18 R288, steps 1 and 2). The rest follows in GROUP_END_IN_ERROR. -/
def haltGroup (s : State) : State :=
  let s := settleCruise (landResults (leaveQueues s s.g.gid s.g.core)) s.g.gid
  let g := s.g
  { s with
    g := { g with run := .failing, call := none, splits := List.replicate 8 Split.none, overflow := [], meld := none,
                  wait := none }
    ops := s.ops.map (fun o => if o.gid == g.gid then { o with cancelled := true } else o) }

/-! ### Taking a trap (18 R287, R289) -/

/-- The trap record of 18 R289: 64 bytes. `lpc` and `spc` are the resume points, `tlanes` the handler's lane set. -/
def trapRecord (s : State) (r : TrapReq) (depth : Nat) (lpc : W32) (spc : W64) (tlanes : W32) : List Byte :=
  let lane := match lanesOf r.fmask with | l :: _ => l | [] => 0
  leBytes 4 (r.code.toNat + r.num.toNat * 256 + r.events.toNat * 65536 + r.lane.toNat * 16777216 + depth * 33554432) ++
  bytes32 r.fmask ++ bytes32 lpc ++ leBytes 4 (lane + r.sub.toNat * 256) ++ bytes64 r.faddr ++ bytes64 spc ++
  bytes32 tlanes ++ bytes32 0 ++ bytes64 (readS s 1) ++ bytes64 r.iaddr ++ bytes64 0

/-- Bytes between the frames of the trap area of a context. -/
abbrev trapFrameSize : Nat := 4096

/-- The offset of a group's frame of a depth in its context's trap area. -/
def frameOffset (gid depth : Nat) : Nat := (gid * 2 + (depth - 1)) * trapFrameSize

/-- The virtual address of a group's trap frame. -/
def frameVa (s : State) (depth : Nat) : W64 := BitVec.ofNat 64 ((ctxOf s s.g.ctx).trapVa + frameOffset s.g.gid depth)

/-- The physical address of a group's trap frame. -/
def framePa (s : State) (depth : Nat) : Nat := (ctxOf s s.g.ctx).trapPa + frameOffset s.g.gid depth

/-- The handler descriptor as it stands at the point of coherence, if it can be read and is a valid trap-handler
descriptor. -/
def handlerOf (s : State) : Option Descriptor :=
  match readDescriptor s (ctxOf s s.g.ctx).trapvec with
  | .ok (some d) => if d.kind = 2 then some d else none
  | _ => none

/-- The group enters its handler: the frame at depth + 1 is filled in, the depth rises, no lane call is outstanding,
LANEBASE and the scalar PC come from the descriptor, S1 is the frame's address, privilege follows PRIV. -/
def enterHandler (s : State) (d : Descriptor) (r : TrapReq) (lpc : W32) (spc : W64) (tlanes : W32) : State :=
  let s := settleCruise (landResults (leaveQueues s s.g.gid s.g.core)) s.g.gid
  let g := s.g
  let depth := g.depth + 1
  let va := frameVa s depth
  let save : TrapSave :=
    { frame := va, code := r.code, fmask := r.fmask, call := g.call, splits := g.splits, overflow := g.overflow, meld := g.meld, lanebase := g.lanebase
      priv := g.priv, entry := s.ent, lane := r.lane, deliver := g.deliver
      tlanes := tlanes }
  let rec64 := trapRecord s r depth lpc spc tlanes
  let s := performWrite s g.gid (framePa s depth) rec64 false
  writeS { s with g := { g with
      depth := depth, saves := save :: g.saves, call := none, splits := List.replicate 8 Split.none, overflow := []
      meld := none, lanebase := d.lanebase, spc := d.scalar, priv := d.priv, wait := none, deliver := none } } 1 va

/-- TAKING A TRAP (18 R287): the group in focus traps for a request, to resume at `lpc` and `spc`. Without a usable
handler, or at depth 2, it halts and a context error is posted. -/
def takeTrap (s : State) (r : TrapReq) (lpc : W32) (spc : W64) (tlanes : W32) : State :=
  let vec := (ctxOf s s.g.ctx).trapvec
  match (if vec = 0 then none else handlerOf s) with
  | none => haltGroup (postError s .noHandler r.code vec)
  | some d =>
    if 2 ≤ s.g.depth then haltGroup (postError s .doubleFault r.code r.faddr)
    else enterHandler s d r lpc spc tlanes

/-- A scalar trap (18 R289): the handler's lanes are those of the interrupted call, or all; the other splits resume at
their own LPCs. -/
def takeScalarTrap (s : State) (r : TrapReq) (spc : W64) : State :=
  takeTrap s r 0 spc (match s.g.call with | some _ => callLanes s.g | none => BitVec.allOnes 32)

/-- A lane trap of the split in focus (18 R289): the handler's lanes are the split's MASK, the scalar stream resumes
at its next instruction. -/
def takeLaneTrap (s : State) (r : TrapReq) (lpc : W32) (mask : W32) : State :=
  takeTrap s r lpc s.g.spc mask

/-! ### Returning from a trap (06 R115; 18 R290) -/

/-- ERET's effect at depth 1 or 2, after its join: the store counter drains, SAVEDS1, LPC and SPC are read from the
record, and everything R287 saved is restored. An SPC that the handler has changed to one that is no multiple of 4 is taken
as it is, for the manual states no check of it (DESIGN CHOICE). The meld state restored is the path mask and the slot number
(08 R164): where the handler has loaded another table into that slot, the region goes on with it (DESIGN CHOICE: the manual
does not say which table it then resolves through). -/
def returnFromTrap (s : State) : State :=
  let s := release s
  match s.g.saves with
  | [] => s
  | v :: rest =>
    let pa := framePa s s.g.depth
    let lpc := read32 s (pa + 8)
    let spc := read64 s (pa + 24)
    let s1 := read64 s (pa + 40)
    let splits := if v.lane then v.splits.set v.entry { v.splits.getD v.entry Split.none with lpc := lpc } else v.splits
    writeS { s with g := { s.g with
        depth := s.g.depth - 1, saves := rest, call := v.call, splits := splits, overflow := v.overflow, meld := v.meld
        lanebase := v.lanebase, priv := v.priv, spc := spc, deliver := v.deliver } } 1 s1

/-! ### Waiting and finishing -/

/-- Firmware asked to grow a pool for which something waits (18 R276, R279); an unanswered request stands for later ones. -/
def askGrow (s : State) (ctx : Nat) (tasks : Bool) : State :=
  if s.asks.contains ⟨ctx, tasks⟩ then s else { s with asks := s.asks ++ [⟨ctx, tasks⟩] }

/-- What a wait asks of firmware as it begins. -/
def askFor (s : State) (w : Wait) : State :=
  match w with
  | .frames => askGrow s s.g.ctx false
  | .records => askGrow s s.g.ctx true
  | _ => s

/-- Why the scalar stream's wait began, with its clock. -/
def blockScalar (s : State) (w : Wait) : State :=
  askFor { s with g := { s.g with wait := some w, since := if s.g.wait.isSome then s.g.since else s.clock.toNat } } w

/-- The split in focus blocked. -/
def blockSplit (s : State) (w : Wait) : State :=
  askFor { s with g := setSplit s.g s.ent { curSplit s with wait := some w } } w

/-- A translation fault: the group is suspended and a fault record is posted to firmware (18 R286). -/
def suspendGroup (s : State) (r : TrapReq) : State :=
  let s := if r.lane then blockSplit s .suspended else blockScalar s .suspended
  { s with
    faults := s.faults ++ [⟨s.g.gid, r.faddr, r.sub, r.lane, r.fmask, 0⟩]
    g := { s.g with mapping := false, declined := false, since := s.clock.toNat } }

/-- The end of a scalar instruction. `s` is the state in which it issued: a trap, a wait or a suspension drops every
other change. A translation fault that firmware has declined to map is trap 0x04 (18 R286). -/
def finishScalar (s : State) : Except Stop State → Out
  | .ok s' => .next s'
  | .error (.trap r) => .next (takeScalarTrap s r s.g.spc)
  | .error (.wait w) => .next (blockScalar s w)
  | .error (.suspend r) => .next (if s.g.declined then takeScalarTrap s r s.g.spc else suspendGroup s r)

/-- The end of a lane instruction of the split in focus. -/
def finishLane (s : State) : Except Stop State → Out
  | .ok s' => .next s'
  | .error (.trap r) => .next (takeLaneTrap s r (curSplit s).lpc (curSplit s).mask)
  | .error (.wait w) => .next (blockSplit s w)
  | .error (.suspend r) =>
    .next (if s.g.declined then takeLaneTrap s r (curSplit s).lpc (curSplit s).mask else suspendGroup s r)

/-- The scalar PC moved to an address. -/
def setSpc (s : State) (pc : W64) : State := { s with g := { s.g with spc := pc } }

/-- The scalar PC moved past a word. -/
def nextSpc (s : State) : State := setSpc s (s.g.spc + 4)

/-- A record of the scalar instruction in focus. -/
def scalarRecord (s : State) (operand : LogOperand) (element : Nat) : LogRecord :=
  ⟨s.g.ctx, s.g.spc, false, operand, 0, element, false⟩

/-- The scalar registers that an instruction reads, by field (0 to 3 for a to d): UE and one log record for the first with
an uncorrectable error (02 R50). 06 R84 lets a scalar instruction set no flag but DZ; 02 R50 and 22 R311 set UE for any
operand element that is bad or lost, and the model follows these (DESIGN CHOICE). -/
def noteRegs (s : State) (regs : List (Nat × Nat)) : State × BitVec 8 :=
  match regs.find? (fun p => p.2 != 0 && s.g.poison.contains (scalarBad p.2)) with
  | some p => ({ s with log := s.log ++ [scalarRecord s (.reg p.1) 0] }, flagUE)
  | none => (s, 0)

/-- Flags raised by a scalar instruction that has retired, and the event trap they may call for (18 R285). `iaddr` is
the instruction's address. -/
def retireFlags (s : State) (fl : BitVec 8) (iaddr : W64) : State :=
  let r := raiseFlags s false fl
  if r.2.2 then takeScalarTrap r.1 { scalarTrap r.1 0x09 with events := r.2.1, iaddr := iaddr } r.1.g.spc else r.1

end Sys2Proof.Machine
end

