-- ==== Sys2Proof/Machine/Conflict.lean ====
section
/-! DEFINITION. Conflict detection in deterministic mode (23 R315 to R319). -/

namespace Sys2Proof.Machine

/-- How an access counts (06 R117; 08 R153; 23 R317): a read, a write with its WOP code, or a returning atomic, which
takes the read steps and then the write steps. -/
inductive Use where
  | read
  | write (wop : BitVec 4)
  | both
  deriving DecidableEq, Repr

/-- The team of a number. -/
def teamOf? (s : State) (tid : Nat) : Option Team := s.teams.find? (fun t => t.id == tid)

/-- The grid of a number. -/
def gridOf? (s : State) (gid : Nat) : Option Grid := s.grids.find? (fun x => x.id == gid)

/-- The grid of the group in focus. -/
def myGrid? (s : State) : Option Grid := (teamOf? s s.g.team).bind (fun t => gridOf? s t.grid)

/-- The stamp of an access by the group in focus (23 R315). -/
def myStamp (s : State) : AccessStamp :=
  match teamOf? s s.g.team with
  | none => AccessStamp.zero
  | some t =>
    match gridOf? s t.grid with
    | none => AccessStamp.zero
    | some x => ⟨x.number, BitVec.ofNat 32 t.index, BitVec.ofNat 5 s.g.index, BitVec.ofNat 16 s.g.phase⟩

/-- Whether `y`'s grid was spawned by `x`'s team and not awaited before `x`'s phase (23 R316). -/
def parentOf (s : State) (ctx : Nat) (x y : AccessStamp) : Bool :=
  s.grids.any (fun d => d.ctx == ctx && d.number == y.g && d.pg == x.g && d.pt == x.t && d.pg != 0 &&
    d.pfrom ≤ x.f.toNat && (match d.pto with | none => true | some p => x.f.toNat ≤ p))

/-- Whether two stamps are concurrent (23 R316). -/
def concurrent (s : State) (ctx : Nat) (x y : AccessStamp) : Bool :=
  (x.g == y.g && x.t != y.t) ||
  (x.g == y.g && x.t == y.t && x.p != y.p && x.f == y.f) ||
  parentOf s ctx x y || parentOf s ctx y x

/-- Whether an access meets a reader slot (23 R318). -/
def slotHit (s : State) (ctx : Nat) (x : AccessStamp) (r : ReaderSlot) : Bool :=
  r.valid && (concurrent s ctx x r.st || (r.xteam && x.g == r.st.g && x.t != r.st.t) ||
    (r.xgroup && x.g == r.st.g && x.t == r.st.t && x.f == r.st.f && x.p != r.st.p))

/-- A reader recorded in its grid's slot. -/
def mergeReader (x : AccessStamp) (r : ReaderSlot) : ReaderSlot :=
  if r.valid then
    { r with xteam := r.xteam || x.t != r.st.t
             xgroup := r.xgroup || (x.t == r.st.t && x.f == r.st.f && x.p != r.st.p) }
  else ⟨true, false, false, x⟩

/-- The read steps of 23 R318 on an entry. -/
def shadowRead (x : AccessStamp) (e : Shadow) : Shadow :=
  if e.a.valid && e.a.st.g == x.g then { e with a := mergeReader x e.a }
  else if e.b.valid && e.b.st.g == x.g then { e with b := mergeReader x e.b }
  else if !e.a.valid then { e with a := mergeReader x e.a }
  else if !e.b.valid then { e with b := mergeReader x e.b }
  else { e with full := true }

/-- The three words of a stamp in an entry (23 R317); `wop` and `low` fill the bits that only the write's third word has. -/
def AccessStamp.bytes (x : AccessStamp) (wop : BitVec 4) (low : BitVec 7) : List Byte :=
  bytes32 x.g ++ bytes32 x.t ++ bytes32 (x.f ++ x.p ++ wop ++ low)

/-- A reader slot's 16 bytes. -/
def ReaderSlot.bytes (r : ReaderSlot) : List Byte :=
  r.st.bytes 0 0 ++ leBytes 4 (r.valid.toNat + 2 * r.xteam.toNat + 4 * r.xgroup.toNat)

/-- The 64 bytes of a shadow entry (23 R317). -/
def Shadow.bytes (e : Shadow) : List Byte :=
  e.w.bytes e.wop (BitVec.ofNat 7 (e.wvalid.toNat + 2 * e.wxteam.toNat)) ++ leBytes 4 0 ++ e.a.bytes ++ e.b.bytes ++
    leBytes 4 e.full.toNat ++ List.replicate 12 0

/-- A stamp read from its three words. -/
def parseStamp (bs : List Byte) : AccessStamp :=
  let w := BitVec.ofNat 32 (field bs 8 4)
  ⟨BitVec.ofNat 32 (field bs 0 4), BitVec.ofNat 32 (field bs 4 4), w.extractLsb' 11 5, w.extractLsb' 16 16⟩

/-- A reader slot read from its bytes. -/
def parseReader (bs : List Byte) : ReaderSlot :=
  let w := BitVec.ofNat 32 (field bs 12 4)
  ⟨w.getLsbD 0, w.getLsbD 1, w.getLsbD 2, parseStamp bs⟩

/-- A shadow entry read from its bytes. -/
def parseShadow (bs : List Byte) : Shadow :=
  let w := BitVec.ofNat 32 (field bs 8 4)
  ⟨w.getLsbD 0, w.getLsbD 1, w.extractLsb' 7 4, parseStamp bs, parseReader (bs.drop 16), parseReader (bs.drop 32),
    (BitVec.ofNat 32 (field bs 48 4)).getLsbD 0⟩

/-- A cleared entry of the shadow region. -/
def clearedEntry : List Byte := List.replicate 64 0

/-- The procedure of 23 R318 on an entry: the new entry, or the subcode of the conflict. -/
def shadowStep (s : State) (ctx : Nat) (x : AccessStamp) (wop : BitVec 4) (write : Bool) (e : Shadow) :
    Except (BitVec 8) Shadow :=
  let commute := write && wop != 0 && e.wop == wop
  if e.wvalid && !commute && (concurrent s ctx x e.w || (e.wxteam && x.g == e.w.g)) then .error 0
  else if write then
    if slotHit s ctx x e.a || slotHit s ctx x e.b then .error 1
    else if e.full then .error 2
    else
      .ok { wvalid := true, wxteam := commute && e.wvalid && x.g == e.w.g && x.t != e.w.t, wop := wop, w := x,
            a := ReaderSlot.zero, b := ReaderSlot.zero, full := false }
  else .ok (shadowRead x e)

/-- A sector's entry after an access of the group in focus, or the subcode of the conflict. -/
def shadowAccess (s : State) (sector : Nat) (use : Use) : Except (BitVec 8) State :=
  let c := ctxOf s s.g.ctx
  let x := myStamp s
  let e := parseShadow (mapGet clearedEntry sector c.shadow)
  let r := match use with
    | .read => shadowStep s c.id x 0 false e
    | .write wop => shadowStep s c.id x wop true e
    | .both => shadowStep s c.id x 0 false e >>= shadowStep s c.id x 0 true
  match r with
  | .error sub => .error sub
  | .ok e' => .ok (modCtx s c.id (fun c => { c with shadow := mapSet clearedEntry sector e'.bytes c.shadow }))

/-- Whether an access to a page is checked (23 R315). -/
def isChecked (s : State) (a : Access) : Bool := (ctxOf s s.g.ctx).det && pteChk a.pte

/-- The number of the sector that an access reaches: those of another device apart from this one's (13 R242). -/
def sectorOf (s : State) (a : Access) : Nat :=
  (if a.peer then (peerDevice s s.g.ctx a + 1) * 2 ^ 64 else 0) + a.pa / 32

/-- A global access of the group in focus checked for conflicts. -/
def conflictCheck (s : State) (a : Access) (use : Use) : Except AccFault State :=
  if isChecked s a then
    match shadowAccess s (sectorOf s a) use with
    | .ok s' => .ok s'
    | .error sub => .error ⟨0x08, sub, a.va⟩
  else .ok s

/-- The sector number of a byte of a team's scratchpad, apart from every sector of memory: by team, its bank and the
offset, so that neither another team's use of the bank nor a spill changes it. A byte of a FIFO bank is no team's. -/
def spadSector (s : State) (core bank off : Nat) : Option Nat :=
  if 24 ≤ bank then some (2 ^ 60 + (bank - 24) * 4096 + off / 32) else
  match bankOf (coreOf s core) bank with
  | .scratch owner =>
    (teamOf? s owner).map (fun t =>
      let m := ((findIdx? (fun b => b == bank) t.banks 0).map (·.1)).getD 0
      2 ^ 60 + (owner * 16 + m) * 4096 + off / 32)
  | _ => none

/-- A scratchpad access checked for conflicts when the context declares scratchpad checked (08 R153, 23 R312). -/
def spadConflict (s : State) (core bank off : Nat) (use : Use) : Except (BitVec 8) State :=
  let c := ctxOf s s.g.ctx
  match (if c.det && c.spchk then spadSector s core bank off else none) with
  | some k => shadowAccess s k use
  | none => .ok s

end Sys2Proof.Machine
end

