-- ==== Sys2Proof/Machine/ScalarMemory.lean ====
section
/-! DEFINITION. Scalar loads, stores and atomics (06 R91 to R93, R117) and the future-word instructions (06 R104). -/

namespace Sys2Proof.Machine

/-- The effective address of a scalar load or store: the offset is scaled by the access size (06 R92). -/
def scalarEa (s : State) (sa : BitVec 8) (imm : BitVec 10) (size : Nat) : W64 :=
  readS s sa.toNat + imm.signExtend 64 * BitVec.ofNat 64 size

/-- A scalar access checked in the order of 18 R285, conflict detection last. -/
def scalarAccess (s : State) (classes : List Nat) (need : Need) (size : Nat) (use : Use) (va : W64) :
    Except Stop (Access × State) := do
  let a ← scalarCheck s (checkAccess s s.g.ctx s.g.core classes need size va)
  let s' ← scalarCheck s (conflictCheck s a use)
  pure (a, s')

/-- The state and the flags of a memory access of the scalar stream: UE and one log record for the first bad operand (02
R50), a register before memory, or for a device that the fabric cannot reach (22 R311). `s` is the state in which it
issued and `n` the bytes that it reads. -/
def noteAccess (s : State) (regs : List (Nat × Nat)) (a : Access) (n : Nat) (t : State) : State × BitVec 8 :=
  match noteRegs s regs with
  | (u, fl) =>
    if fl != 0 then ({ t with log := t.log ++ u.log.drop s.log.length }, fl)
    else if peerLost s a then ({ t with log := t.log ++ [scalarRecord s (.mem a.pa) 0] }, flagUE)
    else match (if a.peer then none else badWord? s a.pa n) with
      | some i => ({ t with log := t.log ++ [scalarRecord s (.mem (a.pa + 4 * i)) i] }, flagUE)
      | none => (t, 0)

/-- A memory access of the scalar stream retired with its flags. -/
def retireAccess (s : State) (regs : List (Nat × Nat)) (a : Access) (n : Nat) (t : State) : State :=
  let r := noteAccess s regs a n t
  retireFlags r.1 r.2 s.g.spc

/-- The bytes of an access of `n` bytes with every bad word as +0 (02 R50). -/
def cleanBytes (s : State) (a : Access) (n : Nat) (bs : List Byte) : List Byte :=
  if a.peer || (badWord? s a.pa n).isNone then bs
  else bs.zipIdx.map (fun p => if s.poison.contains ((a.pa + p.2) / 4) then 0 else p.1)

/-- A scalar load: the register takes a function of the bytes read (06 R92). -/
def scalarLoad (size : Nat) (f : List Byte → W64) (sd sa : BitVec 8) (imm : BitVec 10) (s : State) : Out :=
  finishScalar s do
    let (a, s1) ← scalarAccess s [0] .read size .read (scalarEa s sa imm size)
    let (bs, s2) := loadBytes s1 a size
    pure (retireAccess s [(0, sa.toNat)] a size (nextSpc (writeS s2 sd.toNat (f (cleanBytes s2 a size bs)))))

/-- A scalar store (06 R92): it counts until it is acknowledged and retires without waiting. -/
def scalarStore (size : Nat) (f : W64 → List Byte) (sd sa : BitVec 8) (imm : BitVec 10) (s : State) : Out :=
  finishScalar s do
    let (a, s1) ← scalarAccess s [0] .write size (.write 0) (scalarEa s sa imm size)
    let (w, s2) := storeWord s1 a (f (readS s sd.toNat)) 0
    let n := noteRegs s [(0, sa.toNat), (3, sd.toNat)]
    let s3 := { s2 with log := s2.log ++ n.1.log.drop s.log.length }
    pure (retireFlags (nextSpc (issueStore s3 false [w] s.g.spc n.2)) n.2 s.g.spc)

/-- SLD (06 R92). -/
def execSld (sd sa : BitVec 8) (imm : BitVec 10) (s : State) : Out := scalarLoad 8 word64 sd sa imm s
/-- SLW: sign-extended (06 R92). -/
def execSlw (sd sa : BitVec 8) (imm : BitVec 10) (s : State) : Out :=
  scalarLoad 4 (fun bs => (word32 bs).signExtend 64) sd sa imm s
/-- SLWU: zero-extended (06 R92). -/
def execSlwu (sd sa : BitVec 8) (imm : BitVec 10) (s : State) : Out :=
  scalarLoad 4 (fun bs => (word32 bs).zeroExtend 64) sd sa imm s
/-- SST (06 R92). -/
def execSst (sd sa : BitVec 8) (imm : BitVec 10) (s : State) : Out := scalarStore 8 bytes64 sd sa imm s
/-- SSTW: bits [31:0] (06 R92). -/
def execSstw (sd sa : BitVec 8) (imm : BitVec 10) (s : State) : Out :=
  scalarStore 4 (fun v => bytes32 (v.setWidth 32)) sd sa imm s

/-- How a scalar atomic counts in conflict detection (06 R117; 23 R317): the no-return forms of the commuting
operations have WOP codes of their own. -/
def scalarAtomicUse (sd : BitVec 8) (wop : BitVec 4) : Use := if sd = 0 then .write wop else .both

/-- The scalar registers that an atomic reads: SACAS, which compares, reads S[sd] too (06 R93). -/
def atomicRegs (cas : Bool) (sd sa sb : BitVec 8) : List (Nat × Nat) :=
  [(0, sa.toNat), (1, sb.toNat)] ++ (if cas then [(3, sd.toNat)] else [])

/-- A scalar atomic on an aligned 64-bit word at S[sa] (06 R93); `wop` is the WOP code of its no-return form. Under
ordering revision 1 the no-return form waits for the group's earlier stores (13 R243). -/
def scalarAtomic (cas : Bool) (wop : BitVec 4) (f : W64 → W64 → W64 → W64) (sd sa sb : BitVec 8) (s : State) : Out :=
  finishScalar s do
    let (a, s1) ← scalarAccess s [0] .write 8 (scalarAtomicUse sd wop) (readS s sa.toNat)
    let s1 := if sd = 0 && ordStr s s.g.ctx then drainStores s1 s1.g.gid else s1
    let (old, s2) := atomicAccess s1 none a 8 (fun bs => bytes64 (f (word64 bs) (readS s sb.toNat) (readS s sd.toNat)))
    pure (retireAccess s (atomicRegs cas sd sa sb) a 8 (nextSpc (writeS s2 sd.toNat (word64 old))))

/-- SAADD (06 R93). -/
def execSaadd (sd sa sb : BitVec 8) (s : State) : Out := scalarAtomic false 12 (fun old b _ => old + b) sd sa sb s
/-- SAMIN: signed (06 R93). -/
def execSamin (sd sa sb : BitVec 8) (s : State) : Out :=
  scalarAtomic false 13 (fun old b _ => if old.slt b then old else b) sd sa sb s
/-- SAMAX: signed (06 R93). -/
def execSamax (sd sa sb : BitVec 8) (s : State) : Out :=
  scalarAtomic false 14 (fun old b _ => if old.slt b then b else old) sd sa sb s
/-- SAXCHG (06 R93). -/
def execSaxchg (sd sa sb : BitVec 8) (s : State) : Out := scalarAtomic false 0 (fun _ b _ => b) sd sa sb s
/-- SAAND (06 R93). -/
def execSaand (sd sa sb : BitVec 8) (s : State) : Out := scalarAtomic false 6 (fun old b _ => old &&& b) sd sa sb s
/-- SAOR (06 R93). -/
def execSaor (sd sa sb : BitVec 8) (s : State) : Out := scalarAtomic false 7 (fun old b _ => old ||| b) sd sa sb s
/-- SAXOR (06 R93). -/
def execSaxor (sd sa sb : BitVec 8) (s : State) : Out := scalarAtomic false 8 (fun old b _ => old ^^^ b) sd sa sb s
/-- SACAS: S[sd] is the compare value; the no-return form compares with zero (06 R93). -/
def execSacas (sd sa sb : BitVec 8) (s : State) : Out :=
  scalarAtomic true 0 (fun old b d => if old == d then b else old) sd sa sb s

/-- The scalar atomic of a function code, as another device sends it (13 R242): SAADD, SAMIN, SAMAX, SAXCHG, SAAND, SAOR,
SAXOR, SACAS. -/
def atomic64 (op : Nat) (old b d : W64) : W64 :=
  match op with
  | 0 => old + b
  | 1 => if old.slt b then old else b
  | 2 => if old.slt b then b else old
  | 3 => b
  | 4 => old &&& b
  | 5 => old ||| b
  | 6 => old ^^^ b
  | _ => if old == d then b else old

/-! ### Future words (06 R104) -/

/-- Whether the future word at a physical address is FULL: its bit in the line record (17 R260). -/
def wordFull (s : State) (pa : Nat) : Bool := (recordOf s pa).full.getLsbD (pa % 64 / 8)

/-- The full state of a future word set. -/
def setFull (s : State) (pa : Nat) (full : Bool) : State :=
  let r := recordOf s pa
  let bit : BitVec 8 := 1 <<< (pa % 64 / 8)
  let r' := { r with full := if full then r.full ||| bit else r.full &&& ~~~bit }
  { s with records := mapSet LineRecord.zero (pa / 64) r' s.records }

/-- An FPUT performed at a word's home slice: the value, FULL, and the deferred-read list woken in the order in which
the waiters linked, each with the value this FPUT wrote; a waiter of another device is number 0. `src` is the key of what
the putter knows, which whoever gets the value learns (13 R236). -/
def putWord (s : State) (gid src pa : Nat) (v : W64) : State :=
  let s := retell (setFull (performWrite s gid pa (bytes64 v) false) pa true) src (futureKey pa)
  let woken := (s.waiters.filter (fun w => w.1 == pa)).map (·.2)
  let s := woken.foldl (fun acc w =>
    if w = 0 then { acc with replies := acc.replies ++ [.data (1 :: bytes64 v)] }
    else modGroup (learn acc w (futureKey pa)) w (fun g => { g with deliver := some v })) s
  { s with waiters := s.waiters.filter (fun w => w.1 != pa) }

/-- Whether a future word is FULL: one of another device is so freely (13 R242), and one of a lost device counts as FULL. -/
def futureFull (s : State) (a : Access) : Bool :=
  if a.peer then peerLost s a || choose s (freeKey 19 a.pa) 2 == 0 else wordFull s a.pa

/-- How an FPUT counts in conflict detection: on a FULL word it is a write of that word (06 R117). -/
def futureUse (s : State) (a : Access) (put : Bool) : Except AccFault State :=
  if put then (if futureFull s a then conflictCheck s a (.write 0) else .ok s) else conflictCheck s a .read

/-- A future word's access: aligned to 8, of class FUTURE (06 R104). -/
def futureAccess (s : State) (need : Need) (va : W64) : Except Stop Access :=
  scalarCheck s (checkAccess s s.g.ctx s.g.core [3] need 8 va)

/-- FPUT: the join, a release, then the value, FULL and the waiters woken (06 R104). -/
def execFput (sa sb : BitVec 8) (s : State) : Out :=
  finishScalar s do
    let a ← futureAccess s .write (readS s sa.toNat)
    let _ ← scalarCheck s (futureUse s a true)
    let s1 ← joinCall s
    let s1 := release s1
    let s2 ← scalarCheck s (futureUse s1 a true)
    pure (retireAccess s [(0, sa.toNat), (1, sb.toNat)] a 0
      (nextSpc (if a.peer then s2 else putWord s2 s.g.gid (groupKey s.g.gid) a.pa (readS s sb.toNat))))

/-- A peer future word as a free value finds it: FULL or not, and its value (13 R242). -/
def peerFuture (s : State) (a : Access) : Bool × W64 :=
  (futureFull s a, if peerLost s a then 0 else word64 (coherentBytes s s.g.ctx s.g.core a 8))

/-- A future word as FGET and FTRY find it: whether it is FULL, and its value, a bad word of it as +0 (02 R50). -/
def futureWord (s : State) (a : Access) : Bool × W64 :=
  if a.peer then peerFuture s a else (wordFull s a.pa, word64 (homeBytes s a.pa 8))

/-- The number under which a future word's waiters are listed: its physical address, and above it the peer index of a
word of another device. -/
def waiterKey (a : Access) : Nat := ptePeer a.pte * 2 ^ 56 + a.pa

/-- The group in focus links itself into a word's deferred-read list and is suspended (06 R104). -/
def linkWaiter (s : State) (key : Nat) : State :=
  let s := if s.waiters.contains (key, s.g.gid) then s else { s with waiters := s.waiters ++ [(key, s.g.gid)] }
  blockScalar s .future

/-- The acquire of a get that returns a future word's value: it observes the FPUT that wrote it (13 R236). -/
def acquireWord (s : State) (a : Access) : State :=
  if a.peer then acquire s else learn (acquire s) s.g.gid (futureKey a.pa)

/-- FGET: waits until FULL, then the value and an acquire; a waiter takes what its FPUT delivered (06 R104). -/
def execFget (sd sa : BitVec 8) (s : State) : Out :=
  match s.g.deliver with
  | some v =>
    let n := noteRegs s [(0, sa.toNat)]
    .next (retireFlags (nextSpc (writeS (acquire { n.1 with g := { s.g with deliver := none } }) sd.toNat v)) n.2 s.g.spc)
  | none =>
    match (do
      let a ← futureAccess s .read (readS s sa.toNat)
      let s1 ← scalarCheck s (futureUse s a false)
      pure (a, s1) : Except Stop (Access × State)) with
    | .error e => finishScalar s (.error e)
    | .ok (a, s1) =>
      let (full, v) := futureWord s1 a
      if full then .next (retireAccess s [(0, sa.toNat)] a 8 (nextSpc (writeS (acquireWord s1 a) sd.toNat v)))
      else .next (linkWaiter s1 (waiterKey a))

/-- FTRY: the value and an acquire when FULL, otherwise S[sb], ordering nothing (06 R104). -/
def execFtry (sd sa sb : BitVec 8) (s : State) : Out :=
  finishScalar s do
    let a ← futureAccess s .read (readS s sa.toNat)
    let s1 ← scalarCheck s (futureUse s a false)
    let (full, v) := futureWord s1 a
    pure (retireAccess s ((0, sa.toNat) :: if full then [] else [(1, sb.toNat)]) a (if full then 8 else 0)
      (nextSpc (if full then writeS (acquireWord s1 a) sd.toNat v else writeS s1 sd.toNat (readS s sb.toNat))))

/-- FCLR: EMPTY and value 0; waiters stay linked (06 R104). -/
def execFclr (sa : BitVec 8) (s : State) : Out :=
  finishScalar s do
    let a ← futureAccess s .write (readS s sa.toNat)
    pure (retireAccess s [(0, sa.toNat)] a 0
      (nextSpc (if a.peer then s else setFull (performWrite s s.g.gid a.pa (bytes64 0) false) a.pa false)))

end Sys2Proof.Machine
end

