-- ==== Sys2Proof/Machine/ScalarControl.lean ====
section
/-! DEFINITION. Branches, jumps, calls, lane calls, YIELD, barriers, register blocks and tiles, traps and system
control of the scalar stream (06 R94 to R98, R102, R103, R112, R115, R116). -/

namespace Sys2Proof.Machine

/-! ### Branches and jumps (06 R94, R95) -/

/-- A conditional branch: the target is the branch word's address plus four times the offset. -/
def branch (taken : W64 → W64 → Bool) (sa sb : BitVec 8) (off : BitVec 10) (s : State) : Out :=
  .next (if taken (readS s sa.toNat) (readS s sb.toNat) then setSpc s (s.g.spc + 4 * off.signExtend 64) else nextSpc s)

/-- SBEQ (06 R94). -/
def execSbeq (sa sb : BitVec 8) (off : BitVec 10) (s : State) : Out := branch (fun a b => a == b) sa sb off s
/-- SBNE (06 R94). -/
def execSbne (sa sb : BitVec 8) (off : BitVec 10) (s : State) : Out := branch (fun a b => a != b) sa sb off s
/-- SBLT (06 R94). -/
def execSblt (sa sb : BitVec 8) (off : BitVec 10) (s : State) : Out := branch (fun a b => a.slt b) sa sb off s
/-- SBGE (06 R94). -/
def execSbge (sa sb : BitVec 8) (off : BitVec 10) (s : State) : Out := branch (fun a b => !a.slt b) sa sb off s
/-- SBLTU (06 R94). -/
def execSbltu (sa sb : BitVec 8) (off : BitVec 10) (s : State) : Out := branch (fun a b => a.ult b) sa sb off s
/-- SBGEU (06 R94). -/
def execSbgeu (sa sb : BitVec 8) (off : BitVec 10) (s : State) : Out := branch (fun a b => !a.ult b) sa sb off s

/-- SJMP (06 R95). -/
def execSjmp (off : BitVec 26) (s : State) : Out := .next (setSpc s (s.g.spc + 4 * off.signExtend 64))

/-- SCALL: the link goes to S255 (06 R95). -/
def execScall (off : BitVec 26) (s : State) : Out :=
  .next (setSpc (writeS s 255 (s.g.spc + 4)) (s.g.spc + 4 * off.signExtend 64))

/-- SJR: a misaligned target raises trap 0x06 on the jump (06 R95, 03 R54). -/
def execSjr (sa : BitVec 8) (s : State) : Out :=
  finishScalar s <|
    let t := readS s sa.toNat
    if t.toNat % 4 != 0 then .error (.trap { scalarTrap s 0x06 with faddr := t }) else .ok (setSpc s t)

/-- SJALR: the target is read before the link is written; a misaligned target writes no link (06 R95, 03 R54). -/
def execSjalr (sd sa : BitVec 8) (s : State) : Out :=
  finishScalar s <|
    let t := readS s sa.toNat
    if t.toNat % 4 != 0 then .error (.trap { scalarTrap s 0x06 with faddr := t })
    else .ok (setSpc (writeS s sd.toNat (s.g.spc + 4)) t)

/-! ### Lane calls (06 R96, R97; 01 R13, R20; 18 R290) -/

/-- A lane call started at an offset from LANEBASE: the snapshot, the latched registers, one READY split with all 32
lanes, or the handler's lanes at trap depth 1 or 2. -/
def startCall (s : State) (target : W32) : State :=
  let g := s.g
  let call : LaneCall :=
    { snap := g.sregs, written := [], tilew := g.tilew, fmode := g.fmode, seedlo := g.seedlo, seedhi := g.seedhi
      cseq := g.cseq, draws := [], raised := 0, past := [], stale := [], id := g.calls + 1 }
  let mask := match g.saves with | [] => BitVec.allOnes 32 | v :: _ => v.tlanes
  let first : Split :=
    { mask := mask, lpc := target, token := 0x3FF, state := .ready, meld := false, last := 0, wait := none }
  { s with g := { g with call := some call, calls := g.calls + 1, splits := first :: List.replicate 7 Split.none, overflow := [] } }

/-- LCALL (06 R96). -/
def execLcall (off : BitVec 26) (s : State) : Out :=
  finishScalar s do
    let s1 ← joinCall s
    pure (nextSpc (startCall s1 (off.zeroExtend 32)))

/-- LCALLR: bits [63:26] of the target must be zero (06 R96). -/
def execLcallr (sa : BitVec 8) (s : State) : Out :=
  finishScalar s <|
    let t := readS s sa.toNat
    if t.extractLsb' 26 38 != 0 then .error (.trap (scalarTrap s 0x06))
    else do
      let s1 ← joinCall s
      pure (nextSpc (startCall s1 (t.setWidth 32)))

/-- LJOIN (06 R97). -/
def execLjoin (s : State) : Out :=
  finishScalar s do
    let s1 ← joinCall s
    pure (nextSpc s1)

/-- LTEST: joins nothing (06 R97). -/
def execLtest (sd : BitVec 8) (s : State) : Out :=
  .next (nextSpc (writeS s sd.toNat (if s.g.call.isNone || callStopped s.g then 1 else 0)))

/-- YIELD: no architectural effect; the scheduler prefers other groups for a round (06 R102, 18 R280). -/
def execYield (s : State) : Out := .next (nextSpc { s with g := { s.g with yielded := true } })

/-! ### Barriers (06 R103; 12 R230, R231; 13 R237) -/

/-- A team changed. -/
def modTeam (s : State) (tid : Nat) (f : Team → Team) : State :=
  { s with teams := s.teams.map (fun t => if t.id == tid then f t else t) }

/-- A departure from a phase for each member, in the given order: a resident member acquires at once, a parked one at
its unpark; `named` receives 1, and each learns what the arrivals have released under `key`. -/
def departMembers (s : State) (members : List Nat) (named key : Nat) : State :=
  members.foldl (fun acc gid =>
    let acc := modGroup (learn acc gid key) gid (fun g => { g with named := if gid = named then 1 else 0 })
    match groupOf? acc gid with
    | some g => if g.run = .resident then acquireFor acc gid else acc
    | none => acc) s

/-- The members of a team phase: every group of the team. -/
def teamSize (s : State) (t : Team) : Nat := ((gridOf? s t.grid).map (·.desc.groups)).getD 1

/-- The arrival of the group in focus at its team's phase: a release; the last member's arrival completes the phase. -/
def arriveTeam (s : State) (t : Team) : State :=
  let key := phaseKey false t.id t.phase
  let s := tell (release s) (groupKey s.g.gid) key
  let s := { s with g := { s.g with arrived := true } }
  let arr := t.arrivals ++ [s.g.index]
  if arr.length < teamSize s t then modTeam s t.id (fun t => { t with arrivals := arr })
  else
    let s := modTeam s t.id (fun t => { t with arrivals := [], phase := t.phase + 1 })
    let named := if (ctxOf s s.g.ctx).det then t.groups.getLastD 0 else s.g.gid
    departMembers s t.groups named key

/-- Whether the team's phase that the group arrived at is complete. -/
def teamPassed (s : State) : Bool :=
  match teamOf? s s.g.team with
  | some t => s.g.phase < t.phase
  | none => true

/-- A team barrier after its join: arrival once, then a wait for the phase, then departure. -/
def teamBarrier (dest : Option Nat) (s : State) : Out :=
  match joinCall s with
  | .error e => finishScalar s (.error e)
  | .ok s1 =>
    let s2 := if s1.g.arrived then s1 else
      match teamOf? s1 s1.g.team with
      | some t => arriveTeam s1 t
      | none => acquire (release s1)
    if teamPassed s2 then
      let s3 := { s2 with g := { s2.g with arrived := false, phase := s2.g.phase + 1 } }
      .next (nextSpc (match dest with | some d => writeS s3 d (BitVec.ofNat 64 s3.g.named) | none => s3))
    else .next (blockScalar s2 (.barrier s2.g.phase))

/-- The teams of the cluster of a team: those of its grid with the same first team. -/
def clusterFirst (s : State) (t : Team) : Nat :=
  match gridOf? s t.grid with
  | some x => if x.desc.clustered then t.index - t.index % (x.desc.crows * x.desc.ccols) else t.index
  | none => t.index

/-- The teams of a cluster, in CLUSTERIDX order. -/
def clusterTeams (s : State) (t : Team) : List Team :=
  sortBy (·.cidx) (s.teams.filter (fun u => u.grid == t.grid && clusterFirst s u == clusterFirst s t))

/-- The number of teams of a team's cluster; the last cluster of a grid may hold fewer than its shape has cores. -/
def clusterSize (s : State) (t : Team) : Nat :=
  match gridOf? s t.grid with
  | some x => if x.desc.clustered then min (x.desc.crows * x.desc.ccols) (x.nteams - clusterFirst s t) else 1
  | none => 1

/-- The open phase of a team's cluster. -/
def clusterPhase (s : State) (t : Team) : ClusterPhase :=
  (s.clusters.find? (fun c => c.grid == t.grid && c.first == clusterFirst s t)).getD
    ⟨t.grid, clusterFirst s t, [], 0⟩

/-- A cluster's phase replaced. -/
def setClusterPhase (s : State) (c : ClusterPhase) : State :=
  { s with clusters := c :: s.clusters.filter (fun d => !(d.grid == c.grid && d.first == c.first)) }

/-- The arrival of the group in focus at its cluster's phase. -/
def arriveCluster (s : State) (t : Team) : State :=
  let c := clusterPhase s t
  let key := phaseKey true (((clusterTeams s t).headD t).id) c.phase
  let s := tell (release s) (groupKey s.g.gid) key
  let s := { s with g := { s.g with carrived := true } }
  let arr := c.arrivals ++ [(t.cidx, s.g.index)]
  if arr.length < teamSize s t * clusterSize s t then setClusterPhase s { c with arrivals := arr }
  else
    let s := setClusterPhase s { c with arrivals := [], phase := c.phase + 1 }
    let members := (clusterTeams s t).flatMap (·.groups)
    let named := if (ctxOf s s.g.ctx).det then members.getLastD 0 else s.g.gid
    departMembers s members named key

/-- Whether the cluster's phase that the group arrived at is complete. -/
def clusterPassed (s : State) : Bool :=
  match teamOf? s s.g.team with
  | some t => s.g.cphase < (clusterPhase s t).phase
  | none => true

/-- A cluster barrier after its join; without a cluster it acts over the team, with phases of its own. -/
def clusterBarrier (dest : Option Nat) (s : State) : Out :=
  match joinCall s with
  | .error e => finishScalar s (.error e)
  | .ok s1 =>
    let s2 := if s1.g.carrived then s1 else
      match teamOf? s1 s1.g.team with
      | some t => arriveCluster s1 t
      | none => acquire (release s1)
    if clusterPassed s2 then
      let s3 := { s2 with g := { s2.g with carrived := false, cphase := s2.g.cphase + 1 } }
      .next (nextSpc (match dest with | some d => writeS s3 d (BitVec.ofNat 64 s3.g.named) | none => s3))
    else .next (blockScalar s2 (.cbarrier s2.g.cphase))

/-- BAR (06 R103). -/
def execBar (s : State) : Out := teamBarrier none s
/-- BARL (06 R103). -/
def execBarl (sd : BitVec 8) (s : State) : Out := teamBarrier (some sd.toNat) s
/-- CBAR (06 R103). -/
def execCbar (s : State) : Out := clusterBarrier none s
/-- CBARL (06 R103). -/
def execCbarl (sd : BitVec 8) (s : State) : Out := clusterBarrier (some sd.toNat) s

/-! ### Register blocks and tiles (01 R14, R15; 06 R112) -/

/-- Whether a group holds a slot of its core: it is resident, or it halted there and drains (18 R274, R288). -/
def Group.onCore (g : Group) : Bool := g.run == .resident || g.run == .failing

/-- The extended blocks of a core's pool that no resident group holds: 32 in all. -/
def freeBlocks (s : State) (core : Nat) : Nat :=
  32 - (allGroups s).foldl (fun n g => if g.core = core && g.onCore then n + g.blocks else n) 0

/-- The tiles of a core that no resident group holds: 48 in all. -/
def freeTiles (s : State) (core : Nat) : Nat :=
  48 - (allGroups s).foldl (fun n g => if g.core = core && g.onCore then n + g.tiles else n) 0

/-- Vector registers from `r` on dropped: released blocks lose their contents, granted blocks read as zero with RAW. -/
def dropVFrom (g : Group) (r : Nat) : Group :=
  { g with
    vregs := g.vregs.filter (fun p => p.1 < r * 32)
    vtags := g.vtags.filter (fun p => p.1 < r)
    poison := g.poison.filter (fun k => k < r * 32 || 16384 ≤ k) }

/-- Tiles from `t` on dropped. -/
def dropTFrom (g : Group) (t : Nat) : Group :=
  { g with
    tregs := g.tregs.filter (fun p => p.1 < t * 4096)
    ttags := g.ttags.filter (fun p => p.1 < t)
    poison := g.poison.filter (fun k => k < tileBad t 0 0 || 32768 ≤ k) }

/-- The extended blocks the group's descriptor lets it acquire. -/
def declaredBlocks (s : State) : Nat := ((myGrid? s).map (·.desc.regs)).getD 0

/-- Whether a request may be granted now: it is the oldest waiting, and enough is free. -/
def grantable (queue : List (Nat × Nat)) (gid n free : Nat) : Bool :=
  n ≤ free && (match queue with | [] => true | (q, _) :: _ => q == gid)

/-- A queue of requests without the last one of a group for a number of blocks or tiles. -/
def dropRequest (queue : List (Nat × Nat)) (r : Nat × Nat) : List (Nat × Nat) := (queue.reverse.erase r).reverse

/-- VACQ (01 R14): all blocks at once, in the order the requests issued. -/
def execVacq (n : BitVec 2) (s : State) : Out :=
  if s.g.blocks != 0 || declaredBlocks s < n.toNat then finishScalar s (.error (.trap (scalarTrap s 0x01))) else
  match joinCall s with
  | .error e => finishScalar s (.error e)
  | .ok s1 =>
    let c := coreOf s1 s1.g.core
    if grantable c.vreq s1.g.gid n.toNat (freeBlocks s1 s1.g.core) then
      let s2 := setCore s1 { c with vreq := c.vreq.filter (fun p => p.1 != s1.g.gid) }
      .next (nextSpc { s2 with g := { dropVFrom s2.g 128 with blocks := n.toNat } })
    else
      let c' := if c.vreq.any (fun p => p.1 == s1.g.gid) then c else { c with vreq := c.vreq ++ [(s1.g.gid, n.toNat)] }
      .next (blockScalar (setCore s1 c') (.vblocks n.toNat))

/-- VREL: keeps blocks 1 to n (01 R14). -/
def execVrel (n : BitVec 2) (s : State) : Out :=
  finishScalar s do
    let s1 ← joinCall s
    pure (nextSpc (if n.toNat < s1.g.blocks then
      { s1 with g := { dropVFrom s1.g (128 * (n.toNat + 1)) with blocks := n.toNat } } else s1))

/-- TACQ: legal only while no tile is held (06 R112). -/
def execTacq (n : BitVec 3) (s : State) : Out :=
  if s.g.tiles != 0 then finishScalar s (.error (.trap (scalarTrap s 0x01))) else
  match joinCall s with
  | .error e => finishScalar s (.error e)
  | .ok s1 =>
    let c := coreOf s1 s1.g.core
    if grantable c.treq s1.g.gid n.toNat (freeTiles s1 s1.g.core) then
      let s2 := setCore s1 { c with treq := c.treq.filter (fun p => p.1 != s1.g.gid) }
      .next (nextSpc { s2 with g := { dropTFrom s2.g 0 with tiles := n.toNat } })
    else
      let c' := if c.treq.any (fun p => p.1 == s1.g.gid) then c else { c with treq := c.treq ++ [(s1.g.gid, n.toNat)] }
      .next (blockScalar (setCore s1 c') (.tiles n.toNat))

/-- TREL: keeps T0 to T(n−1) (06 R112). -/
def execTrel (n : BitVec 3) (s : State) : Out :=
  finishScalar s do
    let s1 ← joinCall s
    pure (nextSpc (if n.toNat < s1.g.tiles then
      { s1 with g := { dropTFrom s1.g n.toNat with tiles := n.toNat } } else s1))

/-! ### Traps and system control (06 R115, R116) -/

/-- TRAP: code 0x0A, resuming at PC + 4. -/
def execTrap (n : BitVec 8) (s : State) : Out :=
  .next (takeScalarTrap s { scalarTrap s 0x0A with num := n } (s.g.spc + 4))

/-- SYSC: code 0x0B, resuming at PC + 4. -/
def execSysc (n : BitVec 8) (s : State) : Out :=
  .next (takeScalarTrap s { scalarTrap s 0x0B with num := n } (s.g.spc + 4))

/-- BKPT: code 0x0C, resuming at PC. -/
def execBkpt (n : BitVec 8) (s : State) : Out :=
  .next (takeScalarTrap s { scalarTrap s 0x0C with num := n } s.g.spc)

/-- ERET: legal only at trap depth 1 or 2; it joins an outstanding call first (06 R115, 18 R290). -/
def execEret (s : State) : Out :=
  finishScalar s <|
    if s.g.depth = 0 then .error (.trap (scalarTrap s 0x01))
    else (joinCall s).map returnFromTrap

/-- HALT: the group ends in error and a context error with the code HALT is posted (06 R116, 18 R288). -/
def execHalt (s : State) : Out := .next (haltGroup (postError s .halt 0 s.g.spc))

/-- Whether two ranges of bytes touch. -/
def rangesTouch (a n b m : Nat) : Bool := a < b + m && b < a + n

/-- Every core changed. -/
def mapCores (s : State) (f : Core → Core) : State := { s with cores := s.cores.map (fun p => (p.1, f p.2)) }

/-- TLBINV: every cached translation whose mapped range touches the range is dropped from every TLB, once the accesses
in flight under them are complete (06 R116; 17 R265). -/
def execTlbinv (sa sb : BitVec 8) (s : State) : Out :=
  finishScalar s <|
    if !s.g.priv then .error (.trap (scalarTrap s 0x05))
    else
      let start := (readS s sa.toNat).toNat % 2 ^ 55
      let n := (readS s sb.toNat).toNat
      if n = 0 then .ok (nextSpc s)
      else
        let s1 := ackWhere s (fun st => (groupOf? s st.gid).any (fun g => g.ctx == s.g.ctx))
        let keep (l : Leaf) : Bool := !(l.ctx == s.g.ctx && rangesTouch start n l.va l.size)
        let s2 := mapCores s1 (fun c => { c with
          tlb := c.tlb.filter keep, scheds := c.scheds.map (fun x => { x with tlb := x.tlb.filter keep }) })
        .ok (nextSpc { s2 with dtlb := s2.dtlb.filter (fun p => keep p.2) })

/-- Whether a code line lies within the physical pages of a virtual range of a context. A range of more than 65,536 lines
takes in every line (DESIGN CHOICE, log 86: 03 R65 names the lines of the range; that an ICINV drops others too, the manual neither
says nor forbids). -/
def lineInRange (s : State) (ctx : Nat) (start n line : Nat) : Bool :=
  let first := start / 128
  let last := (start + n - 1) / 128
  (List.range (if 65536 < last - first then 0 else last - first + 1)).any (fun i =>
    match walk s (ctxOf s ctx) (BitVec.ofNat 64 ((first + i) * 128)) with
    | .ok l => (ptePage l.entry + ((first + i) * 128 % 2 ^ 55 - l.va)) / 128 == line
    | .error _ => false) || 65536 < last - first

/-- A group of another agent than the ICINV of a number: until an edge orders it after that ICINV it may still execute what
its core's instruction caches held (03 R65). -/
def keepFetched (s : State) (id : Nat) (hit : CodeLine → Bool) (g : Group) : Group :=
  if g.gid = s.g.gid || !(g.run == .resident || g.run == .parked) then g
  else { g with leftover := ((coreOf s g.core).icache.filter hit).map (fun l => (id, l)) ++ g.leftover }

/-- ICINV: every instruction cache of the device drops the range (06 R116, 03 R65). Its number is that of the step's free
values, which no other step has. -/
def execIcinv (sa sb : BitVec 8) (s : State) : Out :=
  let start := (readS s sa.toNat).toNat
  let n := (readS s sb.toNat).toNat
  let hit (l : CodeLine) : Bool := lineInRange s s.g.ctx start n l.line
  .next (nextSpc (if n = 0 then s else
    let s1 := { s with
      groups := s.groups.map (fun p => (p.1, keepFetched s s.frees hit p.2))
      g := { s.g with leftover := s.g.leftover.filter (fun l => !hit l.2) } }
    mapCores (addKnown s1 (groupKey s.g.gid) [s.frees]) (fun c => { c with icache := c.icache.filter (fun l => !hit l) })))

end Sys2Proof.Machine
end

