-- ==== Sys2Proof/Machine/Tasks.lean ====
section
/-! DEFINITION. Frames, task records, spawn bins and the task pool, the creation of teams and groups, ends and their
reports (18 R272 to R279; 06 R99 to R101; 08 R165 to R167; 01 R26, R27). -/

namespace Sys2Proof.Machine

/-! ### Frames (18 R276) -/

/-- The bytes of a frame. -/
abbrev frameSize : Nat := 128

/-- The physical address of a frame of a context's pool. -/
def poolPa (c : Context) (va : Nat) : Nat := c.framePa + (va - c.frameVa)

/-- A 64-bit field of a frame. -/
def frame64 (s : State) (ctx va off : Nat) : W64 := read64 s (poolPa (ctxOf s ctx) va + off)

/-- The join count of a frame. -/
def frameJoin (s : State) (ctx va : Nat) : Nat := (read32 s (poolPa (ctxOf s ctx) va + 16)).toNat

/-- Bytes of a frame written at its home slice. -/
def frameWrite (s : State) (ctx va off : Nat) (bs : List Byte) : State :=
  performWrite s s.g.gid (poolPa (ctxOf s ctx) va + off) bs false

/-- A frame's join count raised. -/
def joinAdd (s : State) (ctx va n : Nat) : State :=
  frameWrite s ctx va 16 (leBytes 4 (frameJoin s ctx va + n))

/-- A frame taken from the pool of a context, zeroed, with PARENT and CONT; `none` while the pool is empty. -/
def takeFrame (s : State) (ctx parent cont : Nat) : Option (Nat × State) :=
  let c := ctxOf s ctx
  match (List.range c.frames).find? (fun n => !c.used.contains n) with
  | none => none
  | some n =>
    let va := c.frameVa + n * frameSize
    let s := modCtx s ctx (fun x => { x with used := n :: x.used })
    let s := { s with know := mapSet [] (frameKeyOf va) [] s.know }
    some (va, frameWrite s ctx va 0 (leBytes 8 parent ++ leBytes 8 cont ++ List.replicate 112 0))

/-- A frame given back to its pool. -/
def freeFrame (s : State) (ctx va : Nat) : State :=
  modCtx { s with zeros := s.zeros.filter (fun z => !(z.ctx == ctx && z.frame == va)) } ctx (fun x => { x with used := x.used.filter (fun n => x.frameVa + n * frameSize != va) })

/-- The frame to which the end of a group's team reports: its spawner's, 0 for a root launch and for a task group. -/
def spawnerFrame (s : State) : Nat :=
  match myGrid? s with
  | none => 0
  | some x =>
    match x.origin with
    | .spawn f _ => f
    | .consumer f _ _ _ _ _ => f
    | _ => 0

/-- The group frame of the group in focus, taken at its first spawn (06 R99); a wait while the pool is empty. -/
def groupFrame (s : State) : Except Stop (Nat × State) :=
  if s.g.gframe != 0 then .ok (s.g.gframe, s) else
  match takeFrame s s.g.ctx (spawnerFrame s) 0 with
  | none => .error (.wait .frames)
  | some (va, s') => .ok (va, { s' with g := { s'.g with gframe := va } })

/-! ### Grids, teams, groups -/

/-- A fresh number. -/
def fresh (s : State) : Nat × State := (s.next + 1, { s with next := s.next + 1 })

/-- A grid added, numbered in launch order in its context (23 R315). -/
def addGrid (s : State) (x : Grid) : State :=
  let n := (ctxOf s x.ctx).grids + 1
  let s := modCtx s x.ctx (fun c => { c with grids := n })
  { s with grids := s.grids ++ [{ x with number := n }] }

/-- The common tag of a register saved by continuation lanes, RAW when they differ (01 R27). -/
def commonTag (ts : List (BitVec 4)) : BitVec 4 :=
  match ts with
  | [] => 0
  | t :: rest => if rest.all (· == t) then t else 0

/-- The tag that stands in a frame for V(4 + m) (18 R276). -/
def frameTag (s : State) (ctx va m : Nat) : BitVec 4 :=
  if m = 9 then (frame64 s ctx va 0).setWidth 4
  else if m = 8 then (frame64 s ctx va 8).setWidth 4
  else (read32 s (poolPa (ctxOf s ctx) va + 20)).extractLsb' (4 * m) 4

/-- The tag with which a frame saved V(4 + m) (18 R276). A reserved one, which only a program's store can have put there, is
read as RAW: no register ever holds it (01 R16; DEDUCED). -/
def savedTag (s : State) (ctx va m : Nat) : BitVec 4 :=
  let t := frameTag s ctx va m
  if 13 ≤ t.toNat then 0 else t

/-- The lane registers of a task group (01 R27). -/
def taskRegisters (s : State) (ctx : Nat) (recs : List TaskRecord) (g : Group) : Group :=
  let lanes := recs.zipIdx
  let plain (f : TaskRecord → W32) : List (Nat × W32) := lanes.map (fun p => (p.2, f p.1))
  let g := writeReg g 0 0 (plain (·.arg0))
  let g := writeReg g 1 0 (plain (·.arg1))
  let g := writeReg g 2 10 (plain (fun r => BitVec.ofNat 32 r.frame))
  let g := writeReg g 3 10 (plain (fun r => BitVec.ofNat 32 (r.frame / 2 ^ 32)))
  (List.range 10).foldl (fun acc m =>
    let conts := lanes.filter (fun p => p.1.cont)
    writeReg acc (4 + m) (commonTag (conts.map (fun p => savedTag s ctx p.1.frame m)))
      (conts.map (fun p => (p.2, read32 s (poolPa (ctxOf s ctx) p.1.frame + 24 + 4 * m))))) g

/-- What a group's scalar registers hold at its start (01 R27; 06 R114): S1 to S5. -/
def startScalars (x : Grid) (team index : Nat) : List (Nat × W64) :=
  let nat (v : Nat) : W64 := BitVec.ofNat 64 v
  match x.origin with
  | .tasks recs => [(1, x.entryVa), (4, nat recs.length)]
  | .consumer _ _ _ _ slot off => [(1, off), (2, nat slot), (3, nat index), (4, nat x.desc.groups), (5, 1)]
  | _ => [(1, x.args), (2, nat team), (3, nat index), (4, nat x.desc.groups), (5, nat x.nteams)]

/-- A group in its starting state (01 R26, R27). -/
def newGroup (s : State) (x : Grid) (tid core gid team index : Nat) : Group :=
  let base : Group := { Group.none with
    gid := gid, ctx := x.ctx, core := core, team := tid, index := index, run := .waiting, spc := x.desc.scalar
    lanebase := x.desc.lanebase, entryVa := x.entryVa, tiles := x.desc.tiles
    role := x.desc.roles.getD index 0, seedlo := x.seedlo, seedhi := x.seedhi
    sregs := (startScalars x team index).foldl (fun m p => mapSet 0 p.1 p.2 m) [] }
  match x.origin with
  | .tasks recs =>
    let g := taskRegisters s x.ctx recs base
    let parentOfRec (r : TaskRecord) : Nat :=
      if r.cont then (frame64 s x.ctx r.frame 0).toNat / 64 * 64 else r.frame
    { g with
      kregs := mapSet 0 1 (BitVec.ofNat 32 (2 ^ recs.length - 1)) []
      tasks := recs.zipIdx.map (fun p => (p.2, 1 + parentOfRec p.1))
      wframes := (recs.zipIdx.filter (fun p => p.1.cont)).map (fun p => (p.2, p.1.frame)) }
  | _ => writeReg base 0 2 ((List.range 32).map (fun l => (l, BitVec.ofNat 32 (index * 32 + l))))

/-- Banks of a core that a new team may take (17 R254): unowned scratchpad banks first, then cache ways in descending
index down to L1MIN; `none` when they cannot be found. -/
def findBanks (c : Core) (n : Nat) : Option (List Nat) :=
  let unowned := upto 24 (fun b => bankOf c b == .scratch 0)
  let ways := (upto 24 (fun b => bankOf c b == .cache)).reverse
  let avail := unowned ++ ways.take (ways.length - c.l1min)
  if n ≤ avail.length then some (avail.take n) else none

/-- A bank's mode set; cache ways are not listed. -/
def setBank (c : Core) (b : Nat) (m : BankMode) : Core :=
  let others := c.banks.filter (fun p => p.1 != b)
  { c with banks := if m = .cache then others else sortBy (·.1) ((b, m) :: others) }

/-- The bytes of a bank. -/
abbrev bankSize : Nat := 131072

/-- A bank's contents cleared. -/
def clearBank (c : Core) (b : Nat) : Core :=
  { c with spad := c.spad.filter (fun p => p.1 / bankSize != b) }

/-- The lines that a bank holds as a way of the L1 leave it (17 R256). -/
def dropWay (c : Core) (b : Nat) : Core := { c with lines := c.lines.filter (fun l => l.way != b) }

/-- A bank given to a team as scratchpad, reading as zero (17 R254). -/
def giveBank (c : Core) (team b : Nat) : Core :=
  let c := if bankOf c b = .cache then dropWay c b else c
  setBank (clearBank c b) b (.scratch team)

/-- A team's banks on a core, filled with the contents that a spill saved of them (01 R31). -/
def refill (c : Core) (team : Nat) (banks : List Nat) (spill : List (SMap Byte)) : Core :=
  (spill.zip banks).foldl (fun c p =>
    { c with spad := p.1.foldl (fun m q => mapSet 0 (p.2 * bankSize + q.1) q.2 m) c.spad })
    (banks.foldl (fun c b => giveBank c team b) c)

/-- The admitted teams of a core. -/
def admittedTeams (s : State) (core : Nat) : List Team :=
  s.teams.filter (fun t => t.core == core && (t.state == .admitted || t.state == .resident || t.state == .parked))

/-- Whether a core of a context can admit a team of a shape now (18 R270, R273). -/
def canAdmit (s : State) (ctx core : Nat) (d : Descriptor) : Bool :=
  (coreOf s core).ctx == some ctx && (admittedTeams s core).length < 128 &&
  (findBanks (coreOf s core) d.scratch).isSome

/-- A team of a grid admitted to a core with its banks and its groups in their starting state. -/
def admitTeam (s : State) (x : Grid) (index core : Nat) (cluster : List Nat) (cidx : Nat) : State :=
  let banks := (findBanks (coreOf s core) x.desc.scratch).getD []
  let (tid, s) := fresh s
  let gids := (List.range x.desc.groups).map (fun i => s.next + 1 + i)
  let groups := gids.zipIdx.map (fun p => (p.1, newGroup s x tid core p.1 index p.2))
  let t : Team :=
    { id := tid, ctx := x.ctx, grid := x.id, index := index, core := core, cluster := cluster, cidx := cidx
      banks := banks, spill := [], state := .admitted, prio := x.prio, ready := true, readyAt := s.clock.toNat, aged := 0
      sliced := false, groups := gids, arrivals := [], phase := 0 }
  let c := banks.foldl (fun c b => giveBank c tid b) (coreOf s core)
  let s := setCore s c
  let ids := known s (gridKey x.id) ++ (match x.origin with | .tasks recs => recs.flatMap (·.know) | _ => [])
  gids.foldl (fun acc gid => addKnown acc (groupKey gid) ids)
    { s with next := s.next + x.desc.groups, teams := s.teams ++ [t], groups := s.groups ++ groups }

/-- The first index at or after `k` that is not among those taken ahead of their turn. -/
def settlePlaced (ahead : List Nat) : Nat → Nat → Nat
  | 0, k => k
  | n + 1, k => if ahead.contains k then settlePlaced ahead n (k + 1) else k

/-- A grid with teams of given indices distributed. -/
def Grid.distributed (x : Grid) (indices : List Nat) : Grid :=
  let all := x.ahead ++ indices
  let placed := settlePlaced all all.length x.placed
  { x with placed := placed, ahead := all.filter (fun i => placed ≤ i) }

/-- The teams of a grid distributed so far. -/
def Grid.launched (x : Grid) : Nat := x.placed + x.ahead.length

/-- Teams of a grid noted as distributed. -/
def placeTeams (s : State) (grid : Nat) (indices : List Nat) : State :=
  { s with grids := s.grids.map (fun x => if x.id == grid then x.distributed indices else x) }

/-! ### Task records (18 R277 to R279) -/

/-- A context error posted to firmware for a context. -/
def errorFor (s : State) (ctx : Nat) (kind : ErrorKind) (code : BitVec 8) (addr : W64) : State :=
  { s with errors := s.errors ++ [⟨ctx, kind, code, addr⟩] }

/-- The descriptor at an address as a context and core read it. -/
def descriptorFor (s : State) (ctx core : Nat) (va : W64) : Option Descriptor :=
  match (checkRange s ctx core [0] .read va 64) with
  | .ok accs => parseDescriptor ((accs.flatMap (fun a => coherentBytes s ctx core a (64 - a.pa % 64))).take 64)
  | .error _ => none

/-- A grid of one team that runs task records. Its parent team is that of the SPAWN or LSPAWN that made its first record,
which in deterministic mode made them all; a continuation, which a LAWAIT makes, has none (23 R315; DEDUCED). -/
def taskGrid (id ctx : Nat) (d : Descriptor) (recs : List TaskRecord) : Grid :=
  let first := recs.headD TaskRecord.zero
  { id := id, ctx := ctx, number := 0, origin := .tasks recs, root := first.root, home := none, desc := d, entryVa := first.entry
    args := 0, seedlo := first.key.setWidth 32, seedhi := first.key.extractLsb' 32 32, prio := first.prio, nteams := 1
    placed := 0, ahead := [], ended := 0, failed := false, descErr := false, aborted := false, pg := first.pg
    pt := first.pt, pfrom := first.pfrom, pto := none, done := false }

/-- Records formed into a task group that waits to be admitted on one core. -/
def queueTasks (s : State) (ctx core : Nat) (d : Descriptor) (recs : List TaskRecord) : State :=
  let (id, s) := fresh s
  addGrid s { taskGrid id ctx d recs with home := some core }

/-- Records launched as one task group on a core, which must be able to admit it (18 R278). -/
def launchTasks (s : State) (ctx core : Nat) (d : Descriptor) (recs : List TaskRecord) : State :=
  let s := queueTasks s ctx core d recs
  match s.grids.getLast? with
  | some x => placeTeams (admitTeam s x 0 core [core] 0) x.id [0]
  | none => s

/-- Whether a core still waits for a bank table of a context, before which no further team is admitted (17 R332). -/
def tablePending (s : State) (ctx core : Nat) : Bool := (coreOf s core).tables.any (fun t => t.ctx == ctx)

/-! ### The task pool (18 R277, R279) -/

/-- The 32 bytes of a task record. -/
def TaskRecord.bytes (r : TaskRecord) : List Byte :=
  bytes64 r.entry ++ bytes32 r.arg0 ++ bytes32 r.arg1 ++ leBytes 8 (r.frame / 128 * 128 + r.prio.toNat) ++ bytes64 r.key

/-- A task record with the fields that its 32 bytes hold. -/
def TaskRecord.withBytes (r : TaskRecord) (bs : List Byte) : TaskRecord :=
  { r with
    entry := BitVec.ofNat 64 (field bs 0 8)
    arg0 := BitVec.ofNat 32 (field bs 8 4)
    arg1 := BitVec.ofNat 32 (field bs 12 4)
    frame := field bs 16 8 / 128 * 128
    prio := BitVec.ofNat 3 (field bs 16 8)
    key := BitVec.ofNat 64 (field bs 24 8) }

/-- The physical address of a place of the pool. -/
def recordPa (c : Context) (n : Nat) : Nat := c.poolPa + 32 * n

/-- The records of a context's pool as they stand in memory, oldest first, with their places. -/
def poolRecords (s : State) (ctx : Nat) : List (Nat × TaskRecord) :=
  let c := ctxOf s ctx
  c.pool.map (fun p => (p.1, p.2.withBytes (readBytes s (recordPa c p.1) 32)))

/-- A record put at the end of the pool, in the lowest place that no record holds: the order of the places is not
architectural (DESIGN CHOICE). -/
def pushPool (s : State) (ctx : Nat) (r : TaskRecord) : State :=
  let c := ctxOf s ctx
  let n := ((List.range (c.pool.length + 1)).find? (fun i => !c.pool.any (fun p => p.1 == i))).getD 0
  performWrite (modCtx s ctx (fun c => { c with pool := c.pool ++ [(n, r)] })) 0 (recordPa c n) r.bytes false

/-- Whether a context's pool has room for further records. -/
def poolRoom (s : State) (ctx n : Nat) : Bool :=
  let c := ctxOf s ctx
  c.excess.isEmpty && c.pool.length + n ≤ c.records

/-- A record given to the pool; one that finds no room waits for it, and firmware is asked to grow the pool. -/
def givePool (s : State) (ctx : Nat) (r : TaskRecord) : State :=
  if poolRoom s ctx 1 then pushPool s ctx r
  else askGrow (modCtx s ctx (fun c => { c with excess := c.excess ++ [r] })) ctx true

/-- The records that wait for room in the pool put there, as many as it takes. -/
def fillPool (s : State) (ctx : Nat) : State :=
  let c := ctxOf s ctx
  let n := min c.excess.length (c.records - c.pool.length)
  if n = 0 then s else
  (c.excess.take n).foldl (fun acc r => pushPool acc ctx r) (modCtx s ctx (fun c => { c with excess := c.excess.drop n }))

/-! ### Bins (18 R278) -/

/-- A bin that holds 32 records launches at once when its core can admit the group; otherwise the launch waits, for one
further period of its timer from when it began to. -/
def fullBin (s : State) (ctx core i : Nat) (b : Bin) : State :=
  let since := if b.waiting then b.timer else s.clock.toNat
  let wait := setCore s { coreOf s core with bins := (coreOf s core).bins.set i { b with waiting := true, timer := since } }
  match descriptorFor s ctx core b.key with
  | some d =>
    if d.kind = 1 && !(ctxOf s ctx).halted && canAdmit s ctx core d && !tablePending s ctx core then
      let s := launchTasks s ctx core d b.records
      setCore s { coreOf s core with bins := (coreOf s core).bins.set i Bin.none }
    else wait
  | none => wait

/-- A record placed on a core outside deterministic mode: the bin of its ENTRY, an empty bin, or the pool. A full bin whose
launch waits takes no record, and the search goes on as if it were none (the manual does not say: DESIGN CHOICE). -/
def binRecord (s : State) (ctx core : Nat) (r : TaskRecord) : State :=
  let c := coreOf s core
  let same (b : Bin) : Bool := !b.records.isEmpty && b.key == r.entry && b.records.length < 32 && b.ctx == ctx
  match findIdx? same c.bins 0 with
  | some (i, b) =>
    let b := { b with records := b.records ++ [r] }
    if b.records.length = 32 then fullBin s ctx core i b else setCore s { c with bins := c.bins.set i b }
  | none =>
    match findIdx? (fun (b : Bin) => b.records.isEmpty) c.bins 0 with
    | some (i, _) => setCore s { c with bins := c.bins.set i ⟨r.entry, [r], s.clock.toNat, false, ctx⟩ }
    | none => givePool s ctx r

/-- A continuation's record placed: in a bin, or in deterministic mode as a one-lane task group on the core
(18 R278, R279). Its descriptor was checked at the LAWAIT. -/
def placeRecord (s : State) (ctx core : Nat) (r : TaskRecord) : State :=
  if (ctxOf s ctx).det && !(ctxOf s ctx).halted then
    match descriptorFor s ctx core r.entry with
    | some d => if d.kind = 1 then queueTasks s ctx core d [r] else binRecord s ctx core r
    | none => binRecord s ctx core r
  else binRecord s ctx core r

/-- The continuation of a wait frame binned on a core (08 R166; 18 R277, R278). -/
def startContinuation (s : State) (core : Nat) (a : Awaiting) : State :=
  placeRecord s a.ctx core { TaskRecord.zero with
    entry := frame64 s a.ctx a.frame 8 &&& ~~~63, frame := a.frame, prio := (frame64 s a.ctx a.frame 72).setWidth 3
    key := frame64 s a.ctx a.frame 64, cont := true, root := a.root, know := known s (frameKeyOf a.frame) }

/-- An end reported to a frame (18 R276): its join count falls by one. At zero, the continuation of a wait frame whose
lane has left is binned on the core of this end, which is kept for a lane that has not left yet; and a wait frame without
a continuation reports to its group frame and is freed (08 R165, R166). -/
def reportEnd (s : State) (ctx core frame : Nat) : State :=
  if frame = 0 then s else
  let n := frameJoin s ctx frame - 1
  let s := frameWrite s ctx frame 16 (leBytes 4 n)
  if n != 0 then s else
  match s.awaits.find? (fun a => a.ctx == ctx && a.frame == frame) with
  | some a =>
    startContinuation { s with awaits := s.awaits.filter (fun b => !(b.ctx == ctx && b.frame == frame)) } core a
  | none =>
    -- a wait frame of a lane that holds no task: it reports to the group frame and is freed
    match (allGroups s).find? (fun g => g.ctx == ctx && g.wframes.any (fun p => p.2 == frame) &&
        frame64 s ctx frame 8 &&& ~~~63 == 0) with
    | some g =>
      let parent := (frame64 s ctx frame 0 &&& ~~~63).toNat
      let s := modGroup s g.gid (fun g => { g with wframes := g.wframes.filter (fun p => p.2 != frame) })
      let s := freeFrame (tell s (frameKeyOf frame) (frameKeyOf parent)) ctx frame
      if parent = 0 then s else frameWrite s ctx parent 16 (leBytes 4 (frameJoin s ctx parent - 1))
    | none =>
      if frame64 s ctx frame 8 &&& ~~~63 == 0 then s else
      { s with zeros := s.zeros.filter (fun z => !(z.ctx == ctx && z.frame == frame)) ++ [⟨ctx, frame, core⟩] }

/-- The tasks of records that are not started end at once in error: a task is reported to the frame of its record, a
continuation to its wait frame's PARENT, and that frame is freed; the grids at the roots complete with an error
(18 R272). -/
def endRecords (s : State) (ctx core : Nat) (recs : List TaskRecord) : State :=
  let s := recs.foldl (fun acc r =>
    if r.cont then
      let parent := (frame64 acc ctx r.frame 0 &&& ~~~63).toNat
      freeFrame (reportEnd acc ctx core parent) ctx r.frame
    else reportEnd acc ctx core r.frame) s
  { s with grids := s.grids.map (fun x =>
      if x.id != 0 && recs.any (fun r => r.root == x.id) then { x with descErr := true } else x) }

/-- Records whose descriptor is invalid end, with a context error that names it (18 R272). -/
def failRecords (s : State) (ctx core : Nat) (recs : List TaskRecord) : State :=
  errorFor (endRecords s ctx core recs) ctx .descriptor 0 (recs.headD TaskRecord.zero).entry

/-- Records launched if the descriptor is a valid task descriptor and the core has room; the flag says whether they
were taken. In a context that has been reset they end in error. -/
def tryLaunch (s : State) (ctx core : Nat) (recs : List TaskRecord) : State × Bool :=
  match recs with
  | [] => (s, true)
  | r :: _ =>
    if (ctxOf s ctx).halted then (endRecords s ctx core recs, true) else
    match descriptorFor s ctx core r.entry with
    | some d =>
      if d.kind != 1 then (failRecords s ctx core recs, true)
      else if canAdmit s ctx core d && !tablePending s ctx core then (launchTasks s ctx core d recs, true)
      else (s, false)
    | none => (failRecords s ctx core recs, true)

/-- A list cut into runs of 32. -/
def chunks32 {α : Type} : Nat → List α → List (List α)
  | 0, _ => []
  | n + 1, l => if l.isEmpty then [] else l.take 32 :: chunks32 n (l.drop 32)

/-- The records of one SPAWN or LSPAWN placed: into bins in order, or in deterministic mode as task groups of their own
that wait for the spawner's core (18 R278, R279). -/
def placeRecords (s : State) (ctx core : Nat) (d : Descriptor) (recs : List TaskRecord) : State :=
  if (ctxOf s ctx).det then
    (chunks32 (recs.length + 1) recs).foldl (fun acc chunk => queueTasks acc ctx core d chunk) s
  else recs.foldl (fun acc r => binRecord acc ctx core r) s

end Sys2Proof.Machine
end

