-- ==== Sys2Proof/Machine/Spawn.lean ====
section
/-! DEFINITION. SPAWN, AWAITG and TEXIT, and the ends of groups, teams and grids (06 R99 to R101; 13 R233, R234;
18 R288; 19 R293). -/

namespace Sys2Proof.Machine

/-- The priority of the group's team. -/
def myPrio (s : State) : BitVec 3 := ((teamOf? s s.g.team).map (·.prio)).getD 0

/-- The host grid at the root of the group's spawn tree. -/
def myRoot (s : State) : Nat := ((myGrid? s).map (fun x => match x.origin with | .host .. => x.id | _ => x.root)).getD 0

/-- The key of SPAWN's records: the group's CSEEDLO and CSEEDHI (18 R277). -/
def spawnKey (s : State) : W64 := s.g.seedhi ++ s.g.seedlo

/-- The checks of the argument words of a task SPAWN, before its join: of several faults the kind that comes first
(06 R99; 18 R285). The loads are no checked accesses of deterministic mode (06 R117). -/
def checkArgs (s : State) (base : W64) (n : Nat) : Except AccFault (List Access) :=
  allChecks ((List.range n).map (fun i => checkAccess s s.g.ctx s.g.core [0] .read 4 (base + BitVec.ofNat 64 (4 * i))))

/-- The argument words loaded in ascending order, each read once (06 R99). -/
def spawnArgs (s : State) (accs : List Access) : List W32 × State :=
  accs.foldl (fun acc a =>
    let r := loadBytes acc.2 a 4
    (acc.1 ++ [word32 (cleanBytes r.2 a 4 r.1)], r.2)) ([], s)

/-- UE and one log record for a bad register of SPAWN, or else for the lowest word of its descriptor, or of its argument
words, that is bad or lost (02 R50, R52; 22 R311). -/
def noteArgs (s : State) (entry : W64) (regs : List (Nat × Nat)) (accs : List Access) : State × BitVec 8 :=
  let n := noteRegs s regs
  if n.2 != 0 then n else
  match (lostDescriptor? s entry).or ((accs.zipIdx.find? (fun p => wordLost s p.1)).map (fun p => (p.2, p.1.pa))) with
  | some p => ({ s with log := s.log ++ [scalarRecord s (.mem p.2) p.1] }, flagUE)
  | none => (s, 0)

/-- A grid that a group in focus spawns (23 R315 for its parent's team and phase). -/
def childGrid (s : State) (id : Nat) (origin : Origin) (d : Descriptor) (entry args : W64) (n : Nat) (home : Option Nat) :
    Grid :=
  let st := myStamp s
  { id := id, ctx := s.g.ctx, number := 0, origin := origin, root := myRoot s, home := home, desc := d, entryVa := entry
    args := args, seedlo := s.g.seedlo, seedhi := s.g.seedhi, prio := myPrio s, nteams := n, placed := 0, ahead := []
    ended := 0, failed := false, descErr := false, aborted := false, pg := st.g, pt := st.t, pfrom := st.f.toNat, pto := none
    done := false }

/-- A task record of the group in focus (18 R277; 23 R315). -/
def childRecord (s : State) (entry : W64) (arg0 arg1 : W32) (frame : Nat) (key : W64) : TaskRecord :=
  let st := myStamp s
  { entry := entry, arg0 := arg0, arg1 := arg1, frame := frame, prio := myPrio s, key := key, cont := false, root := myRoot s
    by_ := s.g.gid, pg := st.g, pt := st.t, pfrom := st.f.toNat, know := known s (groupKey s.g.gid) }

/-- Whether the records placed since `s0` found no room in their pool. -/
def poolShort (s0 s : State) : Bool := (ctxOf s0 s0.g.ctx).excess.length < (ctxOf s s.g.ctx).excess.length

/-- SPAWN's own effect after its join and release, for at least one child, with its flags. Task records that do not all
find room in bins and pool are not placed one by one: none is, and the instruction waits as a whole (DESIGN CHOICE: 06 R99
places record by record and does not say what stands while it waits). -/
def spawnChildren (s : State) (regs : List (Nat × Nat)) (d : Descriptor) (n : Nat) (entry base : W64) :
    Except Stop (State × BitVec 8) := do
  let (f, s) ← groupFrame s
  let s := joinAdd s s.g.ctx f n
  if d.kind = 1 then
    let accs ← if base = 0 then Except.ok [] else scalarCheck s (checkArgs s base n)
    let (loaded, s1) := spawnArgs s accs
    let args := if base = 0 then List.replicate n 0 else loaded
    let recs := args.zipIdx.map (fun p => childRecord s entry (BitVec.ofNat 32 p.2) p.1 f (spawnKey s))
    let s2 := placeRecords s1 s.g.ctx s.g.core d recs
    if poolShort s1 s2 then .error (.wait .records) else pure (noteArgs s2 entry regs accs)
  else
    let (id, s) := fresh s
    pure (noteArgs (addGrid (tell s (groupKey s.g.gid) (gridKey id)) (childGrid s id (.spawn f s.g.gid) d entry base n none))
      entry regs [])

/-- SPAWN (06 R99): the checks come before the join and leave everything unchanged on a fault. -/
def execSpawn (sd sa sb : BitVec 8) (s : State) : Out :=
  finishScalar s do
    let entry := readS s sa.toNat
    let base := readS s sb.toNat
    let n := (readS s sd.toNat).toNat % 2 ^ 32
    if entry.toNat % 64 != 0 then throw (.trap { scalarTrap s 0x06 with faddr := entry })
    let d? ← scalarCheck s (readDescriptor s entry)
    match d? with
    | none => throw (.trap (scalarTrap s 0x01))
    | some d =>
      if 2 ≤ d.kind then throw (.trap (scalarTrap s 0x01))
      let _ ← if d.kind = 1 && base != 0 then scalarCheck s (checkArgs s base n) else .ok []
      let s1 ← joinCall s
      let s2 := release s1
      let regs := [(0, sa.toNat), (1, sb.toNat), (3, sd.toNat)]
      let r ← if n = 0 then Except.ok (noteArgs s2 entry regs []) else spawnChildren s2 regs d n entry base
      pure (retireFlags (nextSpc r.1) r.2 s.g.spc)

/-- AWAITG: waits until the group frame's join count is zero, then an acquire; the grids the group spawned are awaited
from this phase on (06 R100, 23 R315). -/
def execAwaitg (s : State) : Out :=
  finishScalar s do
    let s1 ← joinCall s
    if s1.g.gframe != 0 && frameJoin s1 s1.g.ctx s1.g.gframe != 0 then throw (.wait .awaitg)
    let phase := s1.g.phase % 65536
    let mine (x : Grid) : Bool := match x.origin with
      | .spawn _ p => p == s1.g.gid
      | .consumer _ p _ _ _ _ => p == s1.g.gid
      | .tasks recs => recs.any (fun r => r.by_ == s1.g.gid)
      | .host .. => false
    let s2 := { s1 with grids := s1.grids.map (fun x => if mine x && x.pto.isNone then { x with pto := some phase } else x) }
    pure (nextSpc (if s2.g.gframe = 0 then acquire s2 else learn (acquire s2) s2.g.gid (frameKeyOf s2.g.gframe)))

/-! ### The end of a group -/

/-- Whether a group issues no more. -/
def Group.gone (g : Group) : Bool := g.run == .exited || g.run == .failed || g.run == .ended

/-- Whether every group of a team issues no more. -/
def teamGone (s : State) (t : Team) : Bool :=
  t.groups.all (fun gid => match groupOf? s gid with | some g => g.gone | none => true)

/-- A team that has ended gives back its admission and its banks: a spilled team that waits to return to the core claims
its own from them at once, and the others are cache ways again (17 R254; 06 R101). -/
def releaseTeam (s : State) (t : Team) : State :=
  let s := modTeam s t.id (fun t => { t with state := .ended, banks := [], spill := [] })
  if t.banks.isEmpty then s else
  let c := t.banks.foldl (fun c b => setBank (clearBank c b) b (.scratch 0)) (viewOf s t.ctx t.core)
  let toCache (c : Core) : Core := t.banks.foldl (fun c b => if bankOf c b = .scratch 0 then setBank c b .cache else c) c
  match s.teams.find? (fun u => u.core == t.core && u.ctx == t.ctx && u.ready && !u.spill.isEmpty) with
  | none => putView s t.ctx (toCache c)
  | some u =>
    match findBanks c u.spill.length with
    | none => putView s t.ctx (toCache c)
    | some banks =>
      modTeam (putView s t.ctx (toCache (refill c u.id banks u.spill))) u.id (fun u => { u with banks := banks, spill := [] })

/-- The ends of the tasks that the group in focus still holds, and its own end, to be reported (06 R101, 08 R167). -/
def endsOf (g : Group) : List HeldEnd :=
  g.tasks.map (fun p => ⟨g.gid, true, mapGet 0 p.1 g.wframes, p.2 - 1⟩) ++ [⟨g.gid, false, 0, 0⟩]

/-- What the group in focus knows told to those that observe its end and the ends of its tasks (13 R234; 19 R293). -/
def tellEnds (s : State) : State :=
  let me := groupKey s.g.gid
  let s := s.g.tasks.foldl (fun acc p => tell acc me (frameKeyOf (p.2 - 1))) s
  match myGrid? s with
  | none => s
  | some x =>
    match x.origin with
    | .spawn f _ => tell s me (frameKeyOf f)
    | .consumer f _ core bank slot _ => tell (tell s me (frameKeyOf f)) me (slotKey core bank slot)
    | _ => tell s me (endKey x.id)

/-- The group in focus leaves: its blocks, tiles and handles are released, its tasks end, and its team ends with its
last group. -/
def leaveGroup (s : State) (run : RunState) : State :=
  let ends := endsOf s.g
  let g := { dropTFrom (dropVFrom s.g 128) 0 with
    blocks := 0, tiles := 0, handles := [], tasks := [], run := run, wait := none
    wframes := s.g.wframes.filter (fun p => mapGet 0 p.1 s.g.tasks == 0) }
  let s := { tellEnds s with g := g, ends := s.ends ++ ends }
  match teamOf? s g.team with
  | some t => if teamGone s t then releaseTeam s t else s
  | none => s

/-- TEXIT (06 R101): a wait until the four engine counters are zero, the store counter drained, then the group ends. -/
def execTexit (s : State) : Out :=
  finishScalar s do
    let s1 ← joinCall s
    if !s1.g.counters.isEmpty then throw (.wait .engines)
    pure (leaveGroup (release s1) .exited)

/-- GROUP_END_IN_ERROR (18 R288, steps 2 to 4): once its engine operations have ended, the halted group's stores drain,
its resources are released and its end is held until its children have ended. -/
def execGroupEndInError (s : State) : Out :=
  let s0 := focus s s.ev.gid
  if s0.g.gid = s.ev.gid && s0.g.run = .failing && s0.g.counters.isEmpty then
    let s1 := leaveGroup (release s0) .failed
    let grid := ((myGrid? s1).map (·.id)).getD 0
    .next { s1 with grids := s1.grids.map (fun x => if x.id == grid then { x with failed := true } else x) }
  else .next s

/-! ### Reports (06 R101; 08 R167; 19 R293) -/

/-- Whether an end may be reported: the task's own wait frame is at zero, and a group that holds a group frame has
exited with that frame's join count at zero. -/
def endReady (s : State) (h : HeldEnd) : Bool :=
  match groupOf? s h.gid with
  | none => true
  | some g =>
    (h.wframe == 0 || frameJoin s g.ctx h.wframe == 0) &&
    (if g.gframe = 0 then h.task || g.gone else g.gone && frameJoin s g.ctx g.gframe == 0) &&
    (h.task || g.wframes.all (fun p => frameJoin s g.ctx p.2 == 0))

/-- A FIFO slot's state set; a slot that is no longer queued leaves the publication order. -/
def setSlot (s : State) (ctx core bank slot : Nat) (v : SlotState) : State :=
  let c := viewOf s ctx core
  match bankOf c bank with
  | .fifo u e slots q =>
    putView s ctx (setBank c bank (.fifo u e (slots.set slot v) (q.filter (fun i => i != slot || v == .queued))))
  | _ => s

/-- A FIFO slot's state. -/
def slotOf (s : State) (ctx core bank slot : Nat) : SlotState :=
  match bankOf (viewOf s ctx core) bank with
  | .fifo _ _ slots _ => slots.getD slot (.free false)
  | _ => .free false

/-- A consumer's slot freed at its end, unless QFREE has freed it already (06 R114). -/
def freeConsumed (s : State) (ctx grid core bank slot : Nat) : State :=
  if slotOf s ctx core bank slot = .consuming grid then setSlot s ctx core bank slot (.free true) else s

/-- A team whose groups' ends have all been counted: its slot is freed if it is a consumer, and its end is counted in
its spawner's frame and in its grid. -/
def countTeam (s : State) (t : Team) : State :=
  let s := modTeam s t.id (fun t => { t with state := .counted })
  match gridOf? s t.grid with
  | none => s
  | some x =>
    let s := { s with grids := s.grids.map (fun y => if y.id == x.id then { y with ended := y.ended + 1 } else y) }
    match x.origin with
    | .spawn f _ => reportEnd s t.ctx t.core f
    | .consumer f _ core bank slot _ => reportEnd (freeConsumed s x.ctx x.id core bank slot) t.ctx t.core f
    | _ => s

/-- A group's end counted: its group frame is freed, and its team's end follows when it is the last (06 R101). -/
def countGroup (s : State) (gid : Nat) : State :=
  match groupOf? s gid with
  | none => s
  | some g =>
    let up := match (teamOf? s g.team).bind (fun t => gridOf? s t.grid) with
      | some x => (match x.origin with
        | .spawn f _ => frameKeyOf f
        | .consumer f _ _ _ _ _ => frameKeyOf f
        | _ => endKey x.id)
      | none => nobody
    let s := if g.gframe = 0 then s else freeFrame (tell s (frameKeyOf g.gframe) up) g.ctx g.gframe
    let s := modGroup s gid (fun g => { g with run := .ended, gframe := 0 })
    match teamOf? s g.team with
    | none => s
    | some t =>
      if t.groups.all (fun i => match groupOf? s i with | some g => g.run == .ended | none => true) then countTeam s t
      else s

/-- TASK_END_REPORT (06 R101; 08 R167): the n-th held end reported if it may be. A task's end frees its own wait frame
and is counted in its parent frame; a group's end is counted in its team. -/
def execTaskEndReport (s : State) : Out :=
  match s.ends[s.ev.n]? with
  | none => .next s
  | some h =>
    if !endReady s h then .next s else
    let s := { s with ends := dropAt s.ev.n s.ends }
    match groupOf? s h.gid with
    | none => .next s
    | some g =>
      if h.task then
        let s := if h.wframe = 0 then s else freeFrame (tell s (frameKeyOf h.wframe) (frameKeyOf h.parent)) g.ctx h.wframe
        .next (reportEnd s g.ctx g.core h.parent)
      else .next (countGroup s h.gid)

end Sys2Proof.Machine
end

