-- ==== Sys2Proof/Machine/Fifo.lean ====
section
/-! DEFINITION. BANKCFG and the FIFO instructions (06 R113, R114; 17 R253 to R256; 19 R293). -/

namespace Sys2Proof.Machine

/-- Where the FIFO windows begin in a scratchpad address (06 R114). -/
abbrev fifoBase : Nat := 0x400000

/-- A slot's window offset (06 R114). -/
def windowOffset (bank slot units : Nat) : Nat := fifoBase + bank * bankSize + slot * units * 64

/-- The ENTRY address of a configuration word: bits [54:6], sign-extended (06 R113). -/
def configEntry (w : W64) : W64 := ((w.extractLsb' 15 49) ++ (0 : BitVec 6)).signExtend 64

/-- Whether an engine address is one of a bank's window (06 R105). -/
def addressesBank (bank : Nat) (a : W64) : Bool :=
  a.extractLsb' 56 8 == 0x40 && (a.extractLsb' 0 23).toNat / bankSize == (fifoBase + bank * bankSize) / bankSize

/-- Whether the indexed side of a GATH or SCAT may reach a bank's window: its indices, which are read as it goes, may lead
from a scratchpad base to any bank (17 R255 does not say which banks it then targets: DESIGN CHOICE). -/
def mayReachBank (base : W64) : Bool := base.extractLsb' 56 8 == 0x40

/-- Whether an outstanding engine operation of a context on a core targets a bank's window (17 R255). -/
def engineOnBank (s : State) (ctx core bank : Nat) : Bool :=
  s.ops.any (fun o => o.ctx == ctx && o.core == core && (match o.kind with
    | .cpy d r _ => addressesBank bank d || addressesBank bank r
    | .gath d _ b _ _ => addressesBank bank d || mayReachBank b
    | .scat r _ b _ _ => addressesBank bank r || mayReachBank b
    | _ => false))

/-- Whether a slot is FREE. -/
def SlotState.isFree : SlotState → Bool
  | .free _ => true
  | _ => false

/-- Whether a FIFO bank of a core is empty (17 R255). -/
def fifoEmpty (s : State) (ctx : Nat) (c : Core) (bank : Nat) (slots : List SlotState) : Bool :=
  slots.all SlotState.isFree && !c.qwait.any (fun p => p.2 == bank) && !engineOnBank s ctx c.id bank

/-- Whether a descriptor is valid for auto-launch (18 R272). -/
def autoLaunch (d : Descriptor) : Bool := d.kind == 0 && !d.clustered

/-- The number of slots of a bank (17 R255). -/
def slotCount (units depth : Nat) : Nat := min (min 32 (2048 / units)) depth

/-- The FIFO depth a configuration takes from its ENTRY's descriptor; `none` when it cannot be read or is not valid for
auto-launch (06 R113). -/
def configDepth (s : State) (ctx core : Nat) (entry : W64) : Option Nat :=
  if entry = 0 then some 32 else
  match descriptorFor s ctx core entry with
  | some d => if autoLaunch d then some d.fdepth else none
  | none => none

/-- One bank of a core switched by a configuration word: the status and the state (06 R113; 17 R256). Of several statuses
that apply, 3 is given before the others, which the manual does not order (DESIGN CHOICE). -/
def configureBank (s : State) (ctx core : Nat) (w : W64) : Nat × State :=
  let bank := (w.extractLsb' 0 5).toNat
  let mode := (w.extractLsb' 5 2).toNat
  let units := (w.extractLsb' 7 8).toNat
  let entry := configEntry w
  let c := coreOf s core
  let depth := configDepth s ctx core entry
  if 24 ≤ bank || mode = 3 || (mode = 2 && units = 0) || (mode != 2 && (units != 0 || entry != 0)) ||
     (mode = 2 && depth.isNone) then (3, s)
  else
    let target : BankMode :=
      if mode = 0 then .cache
      else if mode = 1 then .scratch 0
      else .fifo units entry (List.replicate (slotCount units (depth.getD 32)) (.free false)) []
    match bankOf c bank with
    | .cache =>
      if mode = 0 then (0, s)
      else if (upto 24 (fun b => b != bank && bankOf c b == .cache)).isEmpty then (4, s)
      else (0, setCore s (setBank (dropWay c bank) bank target))
    | .scratch owner =>
      if owner != 0 then (1, s)
      else if mode = 1 then (0, s)
      else (0, setCore s (setBank (clearBank c bank) bank target))
    | .fifo _ _ slots _ =>
      if !fifoEmpty s ctx c bank slots then (2, s)
      else (0, setCore s (setBank (if mode = 2 then c else clearBank c bank) bank target))

/-- The state in which a configuration word's descriptor is read: the group's own earlier stores to it come first (12 R225). -/
def settleEntry (s : State) (entry : W64) : State :=
  if entry = 0 then s else
  match checkRange s s.g.ctx s.g.core [0] .read entry 64 with
  | .ok accs => settleRange s accs
  | .error _ => s

/-- BANKCFG: the status goes to S[sa]; a refusal changes nothing (06 R113). A word of the descriptor that is bad or lost sets
UE (02 R50; 22 R311). -/
def execBankcfg (sa : BitVec 8) (s : State) : Out :=
  let w := readS s sa.toNat
  let s1 := settleEntry s (configEntry w)
  let r := configureBank s1 s1.g.ctx s1.g.core w
  let lost := if configEntry w = 0 then none else lostDescriptor? s1 (configEntry w)
  let t := nextSpc (writeS r.2 sa.toNat (BitVec.ofNat 64 r.1))
  .next (match lost with
    | some p => retireFlags { t with log := t.log ++ [scalarRecord s (.mem p.2) p.1] } flagUE s.g.spc
    | none => t)

/-- A FIFO bank named by a register: its units, ENTRY, slots and queue, or trap 0x06 (06 R114). -/
def fifoBank (s : State) (v : W64) : Except Stop (Nat × Nat × W64 × List SlotState × List Nat) :=
  if 24 ≤ v.toNat then .error (.trap (scalarTrap s 0x06)) else
  match bankOf (coreOf s s.g.core) v.toNat with
  | .fifo u e slots q => .ok (v.toNat, u, e, slots, q)
  | _ => .error (.trap (scalarTrap s 0x06))

/-- The group in focus among the waiters of a bank; one that waits there already keeps its place. -/
def waitBank (s : State) (bank : Nat) : State :=
  let c := coreOf s s.g.core
  if c.qwait.contains (s.g.gid, bank) then s
  else setCore s { c with qwait := c.qwait.filter (fun p => p.1 != s.g.gid) ++ [(s.g.gid, bank)] }

/-- The group in focus removed from the waiters of every bank. -/
def leaveBank (s : State) : State :=
  let c := coreOf s s.g.core
  setCore s { c with qwait := c.qwait.filter (fun p => p.1 != s.g.gid) }

/-- Whether another group reached a bank before a group with the same operation and waits there: operations on one bank
are performed in the order in which they reach it (17 R255). -/
def bankTaken (s : State) (g : Group) (bank : Nat) (w : Wait) : Bool :=
  ((viewOf s g.ctx g.core).qwait.takeWhile (fun p => p.1 != g.gid)).any (fun p =>
    p.2 == bank && (groupOf? s p.1).any (fun h => h.wait == some w))

/-- QCLAIM: the lowest free slot; a slot that a consumer's end freed makes it an acquire (06 R114; 19 R293). -/
def execQclaim (sd sa : BitVec 8) (s : State) : Out :=
  match fifoBank s (readS s sa.toNat) with
  | .error e => finishScalar s (.error e)
  | .ok (bank, units, _, slots, _) =>
    match (if bankTaken s s.g bank (.qclaim bank) then none else findIdx? SlotState.isFree slots 0) with
    | none => .next (blockScalar (waitBank s bank) (.qclaim bank))
    | some (i, was) =>
      let s1 := setSlot (leaveBank s) s.g.ctx s.g.core bank i .taken
      let s2 := if was = .free true then learn (acquire s1) s1.g.gid (slotKey s1.g.core bank i) else s1
      .next (nextSpc (writeS s2 sd.toNat (BitVec.ofNat 64 (windowOffset bank i units))))

/-- A consumer launched for a published slot: a one-team grid from the ENTRY on the bank's core; an invalid descriptor
frees the slot and posts a context error (06 R114). A descriptor that cannot be read any more counts as invalid, which the
manual does not say (DESIGN CHOICE). -/
def launchConsumer (s : State) (bank slot units : Nat) (entry : W64) : Except Stop State :=
  match descriptorFor s s.g.ctx s.g.core entry with
  | some d =>
    if autoLaunch d then do
      let (f, s1) ← groupFrame s
      let s1 := joinAdd s1 s1.g.ctx f 1
      let (id, s1) := fresh s1
      let s1 := tell s1 (groupKey s1.g.gid) (gridKey id)
      let off := BitVec.ofNat 64 (windowOffset bank slot units)
      let x := childGrid s1 id (.consumer f s1.g.gid s1.g.core bank slot off) d entry 0 1 (some s1.g.core)
      pure (setSlot (addGrid s1 x) s1.g.ctx s1.g.core bank slot (.consuming id))
    else pure (postError (setSlot s s.g.ctx s.g.core bank slot (.free false)) .descriptor 0 entry)
  | none => pure (postError (setSlot s s.g.ctx s.g.core bank slot (.free false)) .descriptor 0 entry)

/-- A slot queued for QPOP. -/
def queueSlot (s : State) (core bank slot : Nat) : State :=
  let c := coreOf s core
  match bankOf c bank with
  | .fifo u e slots q => setCore s (setBank c bank (.fifo u e (slots.set slot .queued) (q ++ [slot])))
  | _ => s

/-- QPUB: the slot must be TAKEN; the join, a release, then a consumer or the queue (06 R114). -/
def execQpub (sa sb : BitVec 8) (s : State) : Out :=
  finishScalar s do
    let (bank, units, entry, slots, _) ← fifoBank s (readS s sa.toNat)
    let slot := (readS s sb.toNat).toNat
    if !(slot < slots.length && slots.getD slot (.free false) == .taken) then throw (.trap (scalarTrap s 0x06))
    let s1 ← joinCall s
    let s2 := release s1
    if entry = 0 then
      pure (nextSpc (queueSlot (retell s2 (groupKey s2.g.gid) (slotKey s2.g.core bank slot)) s2.g.core bank slot))
    else do
      let s3 ← launchConsumer s2 bank slot units entry
      pure (nextSpc s3)

/-- QFREE: the slot becomes FREE whatever its state (06 R114). -/
def execQfree (sa sb : BitVec 8) (s : State) : Out :=
  finishScalar s do
    let (bank, _, _, slots, _) ← fifoBank s (readS s sa.toNat)
    let slot := (readS s sb.toNat).toNat
    if !(slot < slots.length) then throw (.trap (scalarTrap s 0x06))
    if (slots.getD slot (.free false)).isFree then pure (nextSpc s)
    else pure (nextSpc (setSlot s s.g.ctx s.g.core bank slot (.free false)))

/-- QPOP: the oldest published slot and an acquire; trap 0x06 on a bank with an ENTRY (06 R114). -/
def execQpop (sd sa : BitVec 8) (s : State) : Out :=
  match fifoBank s (readS s sa.toNat) with
  | .error e => finishScalar s (.error e)
  | .ok (bank, units, entry, _, q) =>
    if entry != 0 then finishScalar s (.error (.trap (scalarTrap s 0x06))) else
    match (if bankTaken s s.g bank (.qpop bank) then [] else q) with
    | [] => .next (blockScalar (waitBank s bank) (.qpop bank))
    | slot :: _ =>
      let s1 := acquire (setSlot (leaveBank s) s.g.ctx s.g.core bank slot .taken)
      let s1 := learn s1 s1.g.gid (slotKey s1.g.core bank slot)
      .next (nextSpc (writeS s1 sd.toNat (BitVec.ofNat 64 (windowOffset bank slot units))))

end Sys2Proof.Machine
end

