-- ==== Sys2Proof/Machine/MatrixSum.lean ====
section
/-! DEFINITION. The sums of the matrix array: what a row of A and a column of B add to an accumulator, and the whole
result of an MMA from what it has read (02 R46, R47, R49; 09 R173, R174, R176, R177). -/

namespace Sys2Proof.Machine

/-! ### What a row and a column give (02 R46, R47, R49) -/

/-- An E2M1 element in halves. -/
def e2m1Half (n : Nat) : Int :=
  let m : Int := [0, 1, 2, 3, 4, 6, 8, 12].getD (n % 8) 0
  if 8 ≤ n then -m else m

/-- Element i of the eight of a word. -/
def nibbleOf (w : W32) (i : Nat) : Nat := w.toNat / 16 ^ i % 16

/-- A block's exact sum in quarters, and whether a product of its elements is not zero. -/
def blockDot (a b : W32) : Int × Bool :=
  (List.range 8).foldl (fun acc i =>
    let p := e2m1Half (nibbleOf a i) * e2m1Half (nibbleOf b i)
    (acc.1 + p, acc.2 || p != 0)) (0, false)

/-- A segment's running sum in units of 2^−16, whether a product is not an exact zero, and whether a scale is poisoned. -/
structure Segment where
  sum : Int
  hit : Bool
  nan : Bool
  deriving DecidableEq, Repr

/-- One block added: its data words and scale codes. -/
def Segment.add (x : Segment) (a b : W32) (sa sb : Nat) : Segment :=
  match scaleUnits sa, scaleUnits sb with
  | some u, some v =>
    let d := blockDot a b
    { x with sum := x.sum + d.1 * ((u * v : Nat) : Int), hit := x.hit || (d.2 && u != 0 && v != 0) }
  | _, _ => { x with nan := true }

/-- A value rounded to nearest into FP32; an exact zero is +0 (02 R49). -/
def roundSum (x : XVal) : W32 × BitVec 8 :=
  let y := match x with | .fin _ 0 _ => XVal.fin false 0 0 | v => v
  let r := fp32.encode .rn false y
  (BitVec.ofNat 32 r.1, r.2)

/-- What one FB4 segment adds: nothing, or the rounded product of the segment with the two band scales (02 R46, R49). -/
def fb4Part (x : Segment) (ga gb : Nat) : Option (W32 × BitVec 8) :=
  let a := bf16.decode ga
  let b := bf16.decode gb
  if a.isFinite && b.isFinite && !x.nan && (!x.hit || a.isZero || b.isZero) then none
  else
    let v := if x.nan then XVal.nan else .fin (x.sum < 0) x.sum.natAbs (-16)
    let p := XVal.mul v a
    let q := XVal.mul p.1 b
    let r := roundSum q.1
    some (r.1, r.2 ||| p.2 ||| q.2 ||| flagIf (bf16.signalling ga || bf16.signalling gb) flagNV)

/-- The elements of a row of 8-bit words, in order. -/
def rowBytes (ws : List W32) : List Nat := ws.flatMap (fun w => (List.range 4).map (byteOf w))

/-- What 128 OCP products add: nothing when all are exact zeros, or their exact sum rounded once (02 R47). -/
def ocpPart (t : Fmt) (a b : List W32) : Option (W32 × BitVec 8) :=
  let xs := ((rowBytes a).zip (rowBytes b)).map (fun p => (t.decode p.1, t.decode p.2))
  if xs.all (fun p => p.1.isFinite && p.2.isFinite && (p.1.isZero || p.2.isZero)) then none
  else
    let prods := xs.map (fun p => XVal.mul p.1 p.2)
    let s := exactSum (prods.map (·.1))
    let r := roundSum s.1
    some (r.1, prods.foldl (fun fl p => fl ||| p.2) (r.2 ||| s.2))

/-- The halfwords of a row, as FP32 values. -/
def rowHalves (ws : List W32) : List W32 := ws.flatMap (fun (w : W32) => [w <<< (16 : Nat), w &&& (0xFFFF0000 : W32)])

/-- One level of the tree of FP32 additions. -/
def addPairs : List W32 → List W32 × BitVec 8
  | x :: y :: rest =>
    let s := f32Add .rn false x y
    let r := addPairs rest
    (s.1 :: r.1, s.2 ||| r.2)
  | xs => (xs, 0)

/-- The root of the tree of at most 2^n values. -/
def addTree : Nat → List W32 → W32 × BitVec 8
  | 0, xs => (xs.headD 0, 0)
  | n + 1, xs =>
    let l := addPairs xs
    let r := addTree n l.1
    (r.1, l.2 ||| r.2)

/-- What 64 BF16 products add: each rounded to FP32, then the fixed tree (02 R47). -/
def bfPart (a b : List W32) : Option (W32 × BitVec 8) :=
  let xs := (rowHalves a).zip (rowHalves b)
  let zero (p : W32 × W32) : Bool :=
    let x := fp32.decode p.1.toNat
    let y := fp32.decode p.2.toNat
    x.isFinite && y.isFinite && (x.isZero || y.isZero)
  if xs.all zero then none
  else
    let prods := xs.map (fun p => f32Mul .rn false p.1 p.2)
    let r := addTree 6 (prods.map (·.1))
    some (r.1, prods.foldl (fun fl p => fl ||| p.2) r.2)

/-- The exact sum of 128 signed products (02 R47). -/
def intDot (a b : List W32) : Int :=
  ((rowBytes a).zip (rowBytes b)).foldl (fun t p => t + byteInt false p.1 * byteInt false p.2) 0

/-! ### The B tile (09 R173) -/

/-- Bytes of a B tile, by format code (09 R173). -/
def bTileSize (fmt : Nat) : Nat := if fmt = 0 then 20480 else 16384

/-- A word of a B tile, by its place in the tile. -/
def bWord (b : SMap Byte) (off : Nat) : W32 := word32 ((List.range 4).map (fun i => mapGet 0 (off + i) b))

/-- The data words of a column. -/
def bColumn (b : SMap Byte) (j : Nat) : List W32 := (List.range 32).map (fun k => bWord b (128 * j + 4 * k))

/-- The block scales of a column. -/
def bScales (b : SMap Byte) (j : Nat) : List Nat :=
  (List.range 32).map (fun k => (mapGet 0 (16384 + 32 * j + k) b).toNat)

/-- A row's segment with a column. -/
def segmentOf (a b : List W32) (sa sb : List Nat) : Segment :=
  ((a.zip b).zip (sa.zip sb)).foldl (fun x p => x.add p.1.1 p.1.2 p.2.1 p.2.2) ⟨0, false, false⟩

/-! ### The result (09 R177) -/

/-- A contribution added to the accumulator, which keeps its bits when there is none (02 R49). -/
def accumulate (acc : W32) (p : Option (W32 × BitVec 8)) : W32 × BitVec 8 :=
  match p with
  | none => (acc, 0)
  | some (v, fl) => let r := f32Add .rn false acc v; (r.1, fl ||| r.2)

/-- An accumulator of the integer format. -/
def accumulateInt (sat : Bool) (acc : W32) (v : Int) : W32 × BitVec 8 :=
  let t := acc.toInt + v
  if sat then
    let u := if t < -2147483648 then -2147483648 else if 2147483647 < t then 2147483647 else t
    (BitVec.ofInt 32 u, flagIf (u != t) flagOF)
  else (BitVec.ofInt 32 t, 0)

/-- One element of the result in a format: the row's A and scales, the column's B and scales. -/
def mmaElem (fmt : Nat) (sat : Bool) (band : W64) (acc : W32) (j : Nat) (a b : List W32) (sa sb : List Nat) : W32 × BitVec 8 :=
  let ga := (band.extractLsb' 0 16).toNat
  let gb := (if j < 64 then band.extractLsb' 16 16 else band.extractLsb' 32 16).toNat
  match fmt with
  | 0 => accumulate acc (fb4Part (segmentOf a b sa sb) ga gb)
  | 1 => accumulate acc (ocpPart e4m3 a b)
  | 2 => accumulate acc (ocpPart e5m2 a b)
  | 3 => accumulateInt sat acc (intDot a b)
  | _ => accumulate acc (bfPart a b)

/-- The bytes of a core's B-store in a tile, by their places in the tile: +0 for an element with an uncorrectable error, of
two bytes in BF16 (02 R50; 09 R179). -/
def bTile (c : Core) (fmt base : Nat) : SMap Byte :=
  let bad (o : Nat) : Bool := c.poison.contains o || (fmt == 4 && c.poison.contains (o / 2 * 2 + (o + 1) % 2))
  ((c.bstore.filter (fun p => base ≤ p.1 && p.1 < base + bTileSize fmt)).filter (fun p => !bad p.1)).map
    (fun p => (p.1 - base, p.2))

/-- What an MMA's completion writes, and the flags of all its elements. -/
def MmaInputs.result (x : MmaInputs) : List (Nat × W32) × BitVec 8 :=
  let fb4 := x.fmt = 0
  let cols := (List.range 128).map (fun j => (j, bColumn x.tile j, if fb4 then bScales x.tile j else []))
  let rs := x.rows.flatMap (fun r => (cols.zip r.acc).map (fun k =>
    (r.lane * 128 + k.1.1, mmaElem x.fmt x.sat x.band k.2 k.1.1 r.a k.1.2.1 r.scales k.1.2.2)))
  (rs.map (fun p => (p.1, p.2.1)), rs.foldl (fun fl p => fl ||| p.2.2) 0)

/-- A unit of the B-store written while an MMA of the core is in progress: the MMA reads that unit of its tile before or
after the write, which is a free choice (09 R174). The flags that its result raises are those of what it has read: it has not
read the new bytes where they do not raise what it has raised at its issue (DESIGN CHOICE; `earlyCopies` reads them then). -/
def meetMma (s : State) (off : Nat) : State :=
  let c := coreOf s s.g.core
  match c.mma with
  | some ⟨gid, tile, tag, _, some x⟩ =>
    if c.ctx != some s.g.ctx || off + 64 ≤ x.base || x.base + bTileSize x.fmt ≤ off || choose s (freeKey 17 (off / 64)) 2 = 0 then s
    else
      let unit := (bTile c x.fmt x.base).filter (fun p => off ≤ x.base + p.1 && x.base + p.1 < off + 64)
      let kept (keep : Nat → Bool) := x.tile.filter (fun p => keep (x.base + p.1))
      let y := { x with tile := kept (· < off) ++ unit ++ kept (fun o => off + 64 ≤ o) }
      let r := y.result
      let new := r.2 &&& ~~~x.flags
      if x.flags &&& ~~~r.2 != 0 then s
      else
        let s := setCore s { c with mma := some ⟨gid, tile, tag, r.1, some { y with flags := r.2 }⟩ }
        if new = 0 then s else lateEvents (modGroup s gid (fun g => orFlags g true new)) gid x.pc new
  | _ => s

end Sys2Proof.Machine
end

