-- ==== Sys2Proof/Machine/Engines.lean ====
section
/-! DEFINITION. Engine commands, the copy engine, engine completions, waits on classes and handles
(06 R105 to R111; 22 R300; 13 R244, R245; 02 R53). -/

namespace Sys2Proof.Machine

/-! ### Address operands (06 R105) -/

/-- A place an engine reaches. -/
inductive Place where
  | global (va : W64)
  | team (off : Nat)
  | fifo (bank off : Nat)
  | cluster (cidx off : Nat)
  deriving DecidableEq, Repr

/-- The bytes of a team's scratchpad. -/
def scratchSize (s : State) (t : Team) : Nat := (((gridOf? s t.grid).map (·.desc.scratch)).getD 0) * bankSize

/-- The bytes of a FIFO bank that its window reaches; 0 for a bank in another mode. -/
def fifoReach (s : State) (core bank : Nat) : Nat :=
  match bankOf (viewOf s s.g.ctx core) bank with
  | .fifo u _ slots _ => slots.length * u * 64
  | _ => 0

/-- A window offset as a FIFO bank and an offset within it. -/
def fifoPlace (off : Nat) : Option (Nat × Nat) :=
  if fifoBase ≤ off && off < fifoBase + 24 * bankSize then
    some ((off - fifoBase) / bankSize, (off - fifoBase) % bankSize)
  else none

/-- Where an engine address operand points, if it has a listed form and its `n` bytes lie in range (06 R105). -/
def placeOf (s : State) (a : W64) (n : Nat) : Option Place :=
  let team := teamOf? s s.g.team
  if vaOk a then some (.global a)
  else if a.extractLsb' 56 8 == 0x40 then
    if a.extractLsb' 23 33 != 0 then none else
    let off := (a.extractLsb' 0 23).toNat
    match fifoPlace off with
    | some (bank, o) => if o < fifoReach s s.g.core bank && o + n ≤ fifoReach s s.g.core bank then some (.fifo bank o) else none
    | none =>
      let size := (team.map (scratchSize s)).getD 0
      if off < size && off + n ≤ size then some (.team off) else none
  else if a.extractLsb' 56 8 == 0x41 then
    if a.extractLsb' 28 28 != 0 || a.extractLsb' 21 3 != 0 then none else
    let off := (a.extractLsb' 0 21).toNat
    let cidx := (a.extractLsb' 24 4).toNat
    match team with
    | none => none
    | some t =>
      if cidx < clusterSize s t && off < scratchSize s t && off + n ≤ scratchSize s t then some (.cluster cidx off)
      else none
  else none

/-! ### Scratchpad bytes -/

/-- The number under which a bank of a team is reached whose contents have gone with its park image: another team of its
cluster finds them there, for a spill cannot be seen (01 R31). -/
def spilledBank (team m : Nat) : Nat := 24 + team * 16 + m

/-- The core, bank and offset within the bank of a scratchpad offset of a team. The scratchpad of a member of a cluster that has
ended is gone: an access to it by another member reads 0 and writes nothing, of which the manual is silent (DESIGN
CHOICE). -/
def teamByte (t : Team) (off : Nat) : Nat × Nat × Nat :=
  (t.core, if t.banks.isEmpty then spilledBank t.id (off / bankSize) else t.banks.getD (off / bankSize) 0, off % bankSize)

/-- A byte of a core's bank, as the context of the group in focus finds it. -/
def readBank (s : State) (core bank off : Nat) : Byte :=
  if bank < 24 then mapGet 0 (bank * bankSize + off) (viewOf s s.g.ctx core).spad
  else match teamOf? s ((bank - 24) / 16) with
    | some t => mapGet 0 off (t.spill.getD ((bank - 24) % 16) [])
    | none => 0

/-- A byte of a core's bank written. -/
def writeBank (s : State) (core bank off : Nat) (b : Byte) : State :=
  if bank < 24 then
    let c := viewOf s s.g.ctx core
    putView s s.g.ctx { c with spad := mapSet 0 (bank * bankSize + off) b c.spad }
  else modTeam s ((bank - 24) / 16) (fun t =>
    let m := (bank - 24) % 16
    { t with spill := t.spill.set m (mapSet 0 off b (t.spill.getD m [])) })

/-- Bytes of a core's bank written. -/
def writeBankBytes (s : State) (core bank off : Nat) (bs : List Byte) : State :=
  bs.zipIdx.foldl (fun acc p => writeBank acc core bank (off + p.2) p.1) s

/-- The team of the group in focus, or of a member of its cluster. -/
def clusterTeam (s : State) (t : Team) (cidx : Nat) : Team :=
  ((clusterTeams s t).find? (fun u => u.cidx == cidx)).getD t

/-! ### Engine reads and writes -/

/-- The engine error code of an access fault (06 R109). -/
def engineCode (f : AccFault) : BitVec 8 :=
  if f.code = 0x04 then 0x02 else if f.code = 0x05 then 0x03 else if f.code = 0x06 then 0x04 else 0x05

/-- Bytes read by an engine of the group in focus: global memory at the point of coherence, or scratchpad. -/
def engineRead (s : State) (p : Place) (n : Nat) : Except AccFault (List Byte) :=
  let t := teamOf? s s.g.team
  match p with
  | .global va => readGlobal s va n
  | .fifo bank off => .ok ((List.range n).map (fun i => readBank s s.g.core bank (off + i)))
  | .team off => .ok ((List.range n).map (fun i =>
      match t with | some t => let b := teamByte t (off + i); readBank s b.1 b.2.1 b.2.2 | none => 0))
  | .cluster cidx off => .ok ((List.range n).map (fun i =>
      match t with
      | some t => let b := teamByte (clusterTeam s t cidx) (off + i); readBank s b.1 b.2.1 b.2.2
      | none => 0))

/-- The number under which an engine's writes for the group in focus travel to replicas, apart from the group's own
(13 R241, R245). -/
def engineTag (s : State) : Nat := s.g.gid + 2 ^ 40

/-- Bytes written by an engine to global memory at the point of coherence. -/
def writeGlobal (s : State) (va : W64) (bs : List Byte) : Except AccFault State :=
  (checkRange s s.g.ctx s.g.core [0] .write va bs.length).map (fun accs =>
    (accs.foldl (fun (acc : State × List Byte) a =>
      let n := min (64 - a.pa % 64) acc.2.length
      (if a.peer then acc.1 else performWrite acc.1 (engineTag s) a.pa (acc.2.take n) (engineLag acc.1 a),
        acc.2.drop n)) (s, bs)).1)

/-- Bytes written by an engine. -/
def engineWrite (s : State) (p : Place) (bs : List Byte) : Except AccFault State :=
  let t := teamOf? s s.g.team
  let spad (t : Team) (off : Nat) : State :=
    bs.zipIdx.foldl (fun acc q => let b := teamByte t (off + q.2); writeBank acc b.1 b.2.1 b.2.2 q.1) s
  match p with
  | .global va => writeGlobal s va bs
  | .fifo bank off => .ok (writeBankBytes s s.g.core bank off bs)
  | .team off => .ok (match t with | some t => spad t off | none => s)
  | .cluster cidx off => .ok (match t with | some t => spad (clusterTeam s t cidx) off | none => s)

/-! ### Issue (06 R106) -/

/-- An operation added: its class counter rises, its handle becomes PENDING. -/
def addOp (s : State) (cls : Nat) (h : Nat) (kind : EngineKind) (finished : Bool) : State :=
  let (id, s) := fresh s
  let op : EngineOp :=
    { id := id, gid := s.g.gid, ctx := s.g.ctx, core := s.g.core, cls := cls, handle := h, kind := kind, done := 0
      ahead := [], held := [], parts := [], finished := finished, faulted := false, err := 0, errAddr := 0, cancelled := false, flags := 0, iaddr := s.g.spc, seed := s.frees }
  { s with
    ops := s.ops ++ [op]
    g := writeH { s.g with counters := mapSet 0 cls (counterOf s.g cls + 1) s.g.counters } h .pending }

/-- An engine command issued once its operands have passed their checks: it waits while its handle is PENDING or its
class counter is 63, and drains the stores first under `.rel`. -/
def issueEngine (s : State) (cls : Nat) (h : BitVec 4) (rel : Bool) (kind : EngineKind) (finished : Bool) :
    Except Stop State :=
  if readH s.g h.toNat = .pending then .error (.wait (.busy h.toNat))
  else if 63 ≤ counterOf s.g cls then .error (.wait (.room cls))
  else
    let s := if rel then release s else s
    let t := addOp s cls h.toNat kind finished
    .ok (nextSpc (retell t (releaseKey s.g.gid) (opKey t.next)))

/-- Trap 0x06 of an engine command at issue. -/
def engineTrap (s : State) : Except Stop State := .error (.trap (scalarTrap s 0x06))

/-- CPY (06 R107). -/
def execCpy (h : BitVec 4) (sa sb sc : BitVec 6) (rel : Bool) (s : State) : Out :=
  finishScalar s <|
    let dst := readS s sa.toNat
    let src := readS s sb.toNat
    let n := (readS s sc.toNat).toNat
    if 2 ^ 32 ≤ n || (placeOf s dst n).isNone || (placeOf s src n).isNone then engineTrap s
    else issueEngine s 0 h rel (.cpy dst src n) (n == 0)

/-- CPYB (06 R107): offset and count are multiples of 256 within 8 MiB, the source is global. -/
def execCpyb (h : BitVec 4) (sa sb sc : BitVec 6) (rel : Bool) (s : State) : Out :=
  finishScalar s <|
    let off := readS s sa.toNat
    let src := readS s sb.toNat
    let n := (readS s sc.toNat).toNat
    if 2 ^ 32 ≤ n || off.toNat % 256 != 0 || n % 256 != 0 || 0x800000 < off.toNat + n || !vaOk src then engineTrap s
    else issueEngine s 0 h rel (.cpyb off src n) (n == 0)

/-- The element sizes of GATH and SCAT (06 R107). -/
def elementSize (e : Nat) : Bool := [1, 2, 4, 8, 16, 32, 64, 128, 256].contains e

/-- The common checks of GATH and SCAT: `run` is the contiguous side. -/
def gatherChecks (s : State) (run idx base : W64) (size n : Nat) : Bool :=
  n < 2 ^ 32 && elementSize size && (placeOf s run (size * n)).isSome && vaOk idx && (placeOf s base 0).isSome

/-- GATH (06 R107). -/
def execGath (h : BitVec 4) (sa sb sc : BitVec 6) (rel : Bool) (s : State) : Out :=
  finishScalar s <|
    let dst := readS s sa.toNat
    let idx := readS s sb.toNat
    let base := readS s sc.toNat
    let size := (readS s (sc.toNat + 1)).toNat
    let n := (readS s (sc.toNat + 2)).toNat
    if !gatherChecks s dst idx base size n then engineTrap s
    else issueEngine s 1 h rel (.gath dst idx base size n) (n == 0)

/-- SCAT (06 R107). -/
def execScat (h : BitVec 4) (sa sb sc : BitVec 6) (rel : Bool) (s : State) : Out :=
  finishScalar s <|
    let src := readS s sa.toNat
    let idx := readS s sb.toNat
    let base := readS s sc.toNat
    let size := (readS s (sc.toNat + 1)).toNat
    let n := (readS s (sc.toNat + 2)).toNat
    if !gatherChecks s src idx base size n then engineTrap s
    else issueEngine s 1 h rel (.scat src idx base size n) (n == 0)

/-- XKICK (06 R108): 1 to 65,535 request blocks on ring 0 to 63. -/
def execXkick (h : BitVec 4) (sa sb : BitVec 6) (rel : Bool) (s : State) : Out :=
  finishScalar s <|
    let ring := (readS s sa.toNat).toNat
    let n := (readS s sb.toNat).toNat
    if 64 ≤ ring || n = 0 || 65536 ≤ n then engineTrap s
    else issueEngine s 2 h rel (.xkick ring 0 n) false

/-- COLL (06 R108): the descriptor's address is a multiple of 64. -/
def execColl (h : BitVec 4) (sa : BitVec 6) (rel : Bool) (s : State) : Out :=
  finishScalar s <|
    let desc := readS s sa.toNat
    if desc.toNat % 64 != 0 || !vaOk desc then engineTrap s
    else issueEngine s 3 h rel (.coll desc) false

/-! ### Units of work (22 R300) -/

/-- An operation changed. -/
def modOp (s : State) (id : Nat) (f : EngineOp → EngineOp) : State :=
  { s with ops := s.ops.map (fun o => if o.id == id then f o else o) }

/-- An operation ended with a code at an address. -/
def failOp (s : State) (id : Nat) (err : BitVec 8) (addr : W64) : State :=
  modOp s id (fun o => { o with finished := true, faulted := false, err := err, errAddr := addr })

/-- The first of the global bytes that an engine reads, or with `write` writes, that holds an uncorrectable error or belongs
to an unreachable device: its address and its physical address (02 R50; 22 R311). -/
def badGlobal (s : State) (write : Bool) (va : W64) (n : Nat) : Option (Nat × Nat) :=
  if s.poison.isEmpty && s.unreach.isEmpty then none else
  match checkRange s s.g.ctx s.g.core [0] (if write then .write else .read) va n with
  | .error _ => none
  | .ok accs => (accs.foldl (fun (acc : Option (Nat × Nat) × Nat) a =>
      let k := min (64 - a.pa % 64) acc.2
      let bad := if peerLost s a then some (a.va.toNat, a.pa)
        else if write || a.peer then none
        else (badWord? s a.pa k).map (fun i =>
          let pa := max a.pa ((a.pa / 4 + i) * 4)
          (a.va.toNat + (pa - a.pa), pa))
      (acc.1.or bad, acc.2 - k)) (none, n)).1

/-- The same for bytes at a place. -/
def badPlace (s : State) (write : Bool) (p : Place) (n : Nat) : Option (Nat × Nat) :=
  match p with
  | .global va => badGlobal s write va n
  | _ => none

/-- Of two bad words the one at the lower byte address (02 R52). -/
def lowerBad (x y : Option (Nat × Nat)) : Option (Nat × Nat) :=
  match y with
  | none => x
  | some p => lowerPlace x p

/-- UE set in an operation that met a bad or lost word; the lowest is kept for the log record of its completion
(02 R50, R52). -/
def noteBad (s : State) (id : Nat) (bad : Option (Nat × Nat)) : State :=
  match bad with
  | some p => modOp s id (fun o => { o with flags := o.flags ||| flagUE, bad := lowerPlace o.bad p })
  | none => s

/-- A fault record posted to firmware for an operation, which waits for the answer (06 R109). -/
def postMiss (s : State) (o : EngineOp) (f : AccFault) : State :=
  modOp { s with faults := s.faults ++ [⟨o.gid, f.va, f.sub, false, 0, o.id⟩] } o.id (fun o => { o with errAddr := f.va })

/-- An outcome of a unit: a translation miss is posted to firmware while the operation waits, any other fault ends the
operation (06 R109). `last` says whether it was the last unit, `bad` which word it met was bad. -/
def unitResult (s : State) (o : EngineOp) (last : Bool) (bad : Option (Nat × Nat)) : Except AccFault State → State
  | .ok s' =>
    noteBad (modOp s' o.id (fun o => { o with done := o.done + 1, finished := last, faulted := false })) o.id bad
  | .error f =>
    if f.code = 0x04 then
      if o.faulted then s
      else modOp (postMiss s o f) o.id (fun o => { o with faulted := true })
    else noteBad (failOp s o.id (engineCode f) f.va) o.id bad

/-- Whether an operation waits for firmware's answer: one that was asked to stop waits no more before a unit (06 R111). -/
def opWaits (o : EngineOp) : Bool := o.faulted && !(o.cancelled && (match o.kind with | .xkick .. => false | _ => true))

/-- The numbers of the 64-byte units that bytes `lo` to `lo + n − 1` reach. -/
def unitsOf (lo n : Nat) : List Nat := (List.range ((lo + n + 63) / 64 - lo / 64)).map (fun i => lo / 64 + i)

/-- Bytes `lo` to `lo + n − 1` of units held; those of other units as zeros. -/
def heldBytes (held : List (Nat × List Byte)) (lo n : Nat) : List Byte :=
  (((unitsOf lo n).flatMap (fun k => ((held.find? (fun p => p.1 == k)).map (·.2)).getD (List.replicate 64 0))).drop (lo % 64)).take n

/-- Whether every unit of a list is held. -/
def allHeld (held : List (Nat × List Byte)) (ks : List Nat) : Bool := ks.all (fun k => held.any (fun p => p.1 == k))

/-- Units of `total` bytes at an address read by an engine on a die, beside those held from before. -/
def readUnits (s : State) (die : Nat) (va : W64) (total : Nat) :
    List Nat → List (Nat × List Byte) → Except AccFault (List (Nat × List Byte))
  | [], held => .ok held
  | k :: ks, held =>
    if held.any (fun p => p.1 == k) then readUnits s die va total ks held
    else match readOn s die (va + BitVec.ofNat 64 (64 * k)) (min 64 (total - 64 * k)) with
      | .ok bs => readUnits s die va total ks (held ++ [(k, bs)])
      | .error f => .error f

/-- `total` bytes at an address as an operation reads them: the units that it has read before, and the others now. -/
def readSource (s : State) (die : Nat) (va : W64) (total : Nat) (held : List (Nat × List Byte)) :
    Except AccFault (List Byte) :=
  if held.isEmpty then readOn s die va total
  else match checkRange s s.g.ctx s.g.core [0] .read va total with
    | .error f => .error f
    | .ok _ => (readUnits s die va total (unitsOf 0 total) held).map (fun h => heldBytes h 0 total)

/-- The lowest bad or lost word that such a read meets in the units that it reads now. -/
def sourceBad (s : State) (va : W64) (total : Nat) (held : List (Nat × List Byte)) : Option (Nat × Nat) :=
  if held.isEmpty then badGlobal s false va total
  else (unitsOf 0 total).foldl (fun acc k =>
    if held.any (fun p => p.1 == k) then acc
    else lowerBad acc (badGlobal s false (va + BitVec.ofNat 64 (64 * k)) (min 64 (total - 64 * k)))) none

/-- What writing units gives: the state, the bytes written so far, the lowest lost word met, and the fault that ended it. -/
structure Written where
  s     : State
  n     : Nat
  bad   : Option (Nat × Nat)
  fault : Option AccFault

/-- Units of an output at an address written in order: those written before a fault stay. -/
def writeUnits (va : W64) (out : List Byte) : List Nat → Written → Written
  | [], w => w
  | k :: ks, w =>
    let bs := (out.drop (64 * k)).take 64
    let at_ := va + BitVec.ofNat 64 (64 * k)
    match writeGlobal w.s at_ bs with
    | .ok s' => writeUnits va out ks { w with s := s', n := w.n + bs.length, bad := lowerBad w.bad (badGlobal w.s true at_ bs.length) }
    | .error f => { w with fault := some f }

/-- A place moved on by a number of bytes; a scratchpad place keeps its space. -/
def Place.plus (p : Place) (k : Nat) : Place :=
  match p with
  | .global va => .global (va + BitVec.ofNat 64 k)
  | .team off => .team (off + k)
  | .fifo bank off => .fifo bank (off + k)
  | .cluster c off => .cluster c (off + k)

/-- An address fault of an engine unit. -/
def unitFault (va : W64) : AccFault := ⟨0x06, 0, va⟩

/-- The indexed element of GATH or SCAT: its place, aligned to its size (06 R107). -/
def elementPlace (s : State) (base : W64) (size index : Nat) : Except AccFault Place :=
  let a := base + BitVec.ofNat 64 (size * index)
  if a.toNat % size != 0 then .error (unitFault a)
  else match placeOf s a size with
    | some p => .ok p
    | none => .error (unitFault a)

/-- A 32-bit index read from the global array, aligned to 4. -/
def readIndex (s : State) (idx : W64) (i : Nat) : Except AccFault Nat :=
  let va := idx + BitVec.ofNat 64 (4 * i)
  if va.toNat % 4 != 0 then .error (unitFault va)
  else (readGlobal s va 4).map leNat

/-- The address of a place for a fault record, when it is one of scratchpad. -/
def placeOr (p : Option Place) (va : W64) : Except AccFault Place :=
  match p with
  | some p => .ok p
  | none => .error (unitFault va)

/-- Bytes of a CPYB's unit written to the B-store of the core in focus (09 R174). -/
def storeB (s : State) (off : Nat) (bs : List Byte) : State :=
  let c := viewOf s s.g.ctx s.g.core
  meetMma (putView s s.g.ctx { c with
    bstore := memWrite c.bstore off bs
    poison := c.poison.filter (fun o => o < off || off + bs.length ≤ o) }) off

/-- The 64-byte units of an operation of the copy engine: of the bytes copied, or of the contiguous side of a gather or
scatter (22 R300). -/
def opSize (o : EngineOp) : Nat :=
  match o.kind with
  | .cpy _ _ n => (n + 63) / 64
  | .cpyb _ _ n => (n + 63) / 64
  | .gath _ _ _ size n => (size * n + 63) / 64
  | .scat _ _ _ size n => (size * n + 63) / 64
  | _ => 1

/-- The source bytes of a copy's unit. -/
def unitBytes (s : State) (o : EngineOp) (k : Nat) : Except AccFault (List Byte) :=
  match o.kind with
  | .cpy _ src n => do
    let p ← placeOr (placeOf s src n) src
    engineRead s (p.plus (64 * k)) (min 64 (n - 64 * k))
  | .cpyb _ src _ => readGlobal s (src + BitVec.ofNat 64 (64 * k)) 64
  | _ => .ok []

/-- A copy's unit written. -/
def unitWrite (s : State) (o : EngineOp) (k : Nat) (bs : List Byte) : Except AccFault State :=
  match o.kind with
  | .cpy dst _ n => do
    let q ← placeOr (placeOf s dst n) dst
    engineWrite s (q.plus (64 * k)) bs
  | .cpyb off _ _ => .ok (storeB s (off.toNat + 64 * k) bs)
  | _ => .ok s

/-- The lowest bad or lost word that a copy's unit meets. -/
def unitBad (s : State) (o : EngineOp) (k : Nat) : Option (Nat × Nat) :=
  match o.kind with
  | .cpy dst src n =>
    let m := min 64 (n - 64 * k)
    lowerBad ((placeOf s src n).bind (fun p => badPlace s false (p.plus (64 * k)) m))
      ((placeOf s dst n).bind (fun q => badPlace s true (q.plus (64 * k)) m))
  | .cpyb _ src _ => badGlobal s false (src + BitVec.ofNat 64 (64 * k)) 64
  | _ => none

/-- Whether a unit of a copy has been performed. -/
def unitDone (o : EngineOp) (k : Nat) : Bool := k < o.done || o.ahead.contains k

/-- A copy with unit `k` performed: the count of those done in order takes in what was performed ahead. -/
def unitNoted (o : EngineOp) (k : Nat) : EngineOp :=
  let all := k :: o.ahead
  let done := settlePlaced all all.length o.done
  { o with
    done := done, ahead := all.filter (fun i => done < i), held := o.held.filter (fun p => p.1 != k)
    finished := o.finished || opSize o ≤ done, faulted := false }

/-- The read of a copy's unit before its write, or with `write` the write of one that has been read: the units of a copy are
unordered among themselves, and so are each one's read and write (13 R244). One that would fault or that meets a bad word is
left to its turn, so that the lowest address is reported (02 R52). Where source and destination overlap, each byte then is
one that a source byte held during the operation (06 R107); that a unit of 64 bytes is read and written whole is the model's
(DESIGN CHOICE). -/
def earlyUnit (s : State) (o : EngineOp) (k : Nat) (write : Bool) : State :=
  if o.finished || o.cancelled || opSize o ≤ k || unitDone o k || (unitBad s o k).isSome then s else
  match (if write then o.held.find? (fun p => p.1 == k) else none) with
  | some p =>
    match unitWrite s o k p.2 with
    | .ok s' => modOp s' o.id (fun o => unitNoted o k)
    | .error _ => s
  | none =>
    if write || o.held.any (fun p => p.1 == k) then s else
    match unitBytes s o k with
    | .ok bs => modOp s o.id (fun o => { o with held := o.held ++ [(k, bs)] })
    | .error _ => s

/-- The next unit of a copy in order: one read before is only written. -/
def copyNext (s : State) (o : EngineOp) : State :=
  let k := o.done
  match (do
    let bs ← match o.held.find? (fun p => p.1 == k) with
      | some p => Except.ok p.2
      | none => unitBytes s o k
    unitWrite s o k bs : Except AccFault State) with
  | .ok s' => noteBad (modOp s' o.id (fun o => unitNoted o k)) o.id (unitBad s o k)
  | .error f => unitResult s o false none (.error f)

/-! ### Gather and scatter (06 R107) -/

/-- The arguments of a gather or scatter: whether it gathers, its contiguous side, indices, base, element size and count. -/
structure Indexed where
  gather : Bool
  run    : W64
  idx    : W64
  base   : W64
  size   : Nat
  n      : Nat

/-- Bytes `lo` to `lo + k − 1` of element `i`, whose index is known, moved; with the lowest bad or lost word. -/
def movePart (s : State) (x : Indexed) (i index lo k : Nat) : Except AccFault (State × Option (Nat × Nat)) := do
  let p ← elementPlace s x.base x.size index
  let q ← placeOr (placeOf s x.run (x.size * x.n)) x.run
  if (x.run.toNat + x.size * i) % x.size != 0 then .error (unitFault (x.run + BitVec.ofNat 64 (x.size * i)))
  let (from_, dest) := if x.gather then (p.plus lo, q.plus (x.size * i + lo)) else (q.plus (x.size * i + lo), p.plus lo)
  let bs ← engineRead s from_ k
  let s' ← engineWrite s dest bs
  pure (s', lowerBad (badPlace s false from_ k) (badPlace s true dest k))

/-- The elements of a unit that holds whole ones, in ascending order: those before one that faults stand. -/
def moveElements (x : Indexed) : List Nat → State → State × Option (Nat × Nat) × Option AccFault
  | [], s => (s, none, none)
  | i :: is, s =>
    match (do
      let index ← readIndex s x.idx i
      movePart s x i index 0 x.size : Except AccFault (State × Option (Nat × Nat))) with
    | .error f => (s, none, some f)
    | .ok (s', bad) =>
      let r := moveElements x is s'
      (r.1, lowerBad (lowerBad (badGlobal s false (x.idx + BitVec.ofNat 64 (4 * i)) 4) bad) r.2.1, r.2.2)

/-- The next unit of a gather or scatter: the elements of 64 bytes of its contiguous side, or 64 bytes of one larger element,
whose index is read with its first unit (22 R300). -/
def indexedNext (s : State) (o : EngineOp) (x : Indexed) : State :=
  let k := o.done
  let last := opSize o ≤ k + 1
  if x.size ≤ 64 then
    let per := 64 / x.size
    let r := moveElements x ((List.range per).map (fun j => k * per + j) |>.filter (· < x.n)) s
    match r.2.2 with
    | none => unitResult r.1 o last r.2.1 (.ok r.1)
    | some f => if f.code = 0x04 then unitResult s o last none (.error f) else unitResult r.1 o last r.2.1 (.error f)
  else
    let i := 64 * k / x.size
    let lo := 64 * k % x.size
    match (do
      let index ← match (if lo = 0 then none else o.held.find? (fun p => p.1 == i)) with
        | some p => Except.ok (leNat p.2)
        | none => readIndex s x.idx i
      let r ← movePart s x i index lo (min 64 (x.size - lo))
      pure (index, r) : Except AccFault (Nat × State × Option (Nat × Nat))) with
    | .error f => unitResult s o last none (.error f)
    | .ok (index, s', bad) =>
      let ib := if lo = 0 then badGlobal s false (x.idx + BitVec.ofNat 64 (4 * i)) 4 else none
      modOp (unitResult s o last (lowerBad ib bad) (.ok s')) o.id (fun o => { o with held := [(i, leBytes 4 index)] })

/-- The next 64-byte unit of an operation of the group in focus on its core's copy engine. A cancelled operation stops
before its next unit (06 R111). -/
def engineUnit (s : State) (o : EngineOp) : State :=
  if o.finished then s
  else if o.cancelled then failOp s o.id 0x01 0
  else match o.kind with
  | .cpy .. => copyNext s o
  | .cpyb .. => copyNext s o
  | .gath dst idx base size n => indexedNext s o ⟨true, dst, idx, base, size, n⟩
  | .scat src idx base size n => indexedNext s o ⟨false, src, idx, base, size, n⟩
  | _ => s

/-- Whether an operation is one of its core's copy engine. -/
def onCopyEngine (o : EngineOp) : Bool := o.cls ≤ 1

/-- The operations that a core's copy engine has to serve. -/
def copyWork (s : State) (core : Nat) : List EngineOp :=
  s.ops.filter (fun o => o.core == core && onCopyEngine o && !o.finished && !opWaits o)

/-- Whether the copy engine of an operation's core serves its group next: the groups take turns, one unit each
(22 R300). -/
def copyTurn (s : State) (o : EngineOp) : Bool :=
  let served := (coreOf s o.core).served
  let rank (gid : Nat) : Nat := (gid + 2 ^ 60 - served - 1) % 2 ^ 60
  !(copyWork s o.core).any (fun p => rank p.gid < rank o.gid)

/-- The units of an operation of a copy engine that have been served: for a copy, read. -/
def unitsServed (o : EngineOp) : Nat :=
  match o.kind with
  | .cpy .. => o.done + o.ahead.length + o.held.length
  | .cpyb .. => o.done + o.ahead.length + o.held.length
  | _ => o.done

/-- Whether an operation's unit `k` may be performed now: on a copy engine in its group's turn, a unit that has been read
at any time. -/
def unitTurn (s : State) (o : EngineOp) (k : Nat) : Bool :=
  !onCopyEngine o || copyTurn s o ||
    (match o.kind with
     | .cpy .. => o.held.any (fun p => p.1 == k)
     | .cpyb .. => o.held.any (fun p => p.1 == k)
     | _ => false)

/-- An operation's step, with the turn of its group on its core's copy engine counted if a unit was served (22 R300). -/
def noteServed (o : EngineOp) (t : State) : State :=
  if onCopyEngine o && (t.ops.find? (fun p => p.id == o.id)).any (fun p => unitsServed p != unitsServed o) then
    setCore t { coreOf t o.core with served := o.gid }
  else t

/-- A computation on a group brought into focus; the old focus returns. -/
def withFocus (s : State) (gid : Nat) (f : State → State) : State :=
  let old := s.g.gid
  let s' := f (focus s gid)
  if old = 0 then s' else focus s' old

/-! ### Completion (06 R106, R109; 02 R53) -/

/-- Whether an operation is the oldest outstanding of its group and class: completions keep issue order. -/
def oldestOp (s : State) (o : EngineOp) : Bool :=
  match s.ops.find? (fun p => p.gid == o.gid && p.cls == o.cls) with
  | some p => p.id == o.id
  | none => false

/-- What a completion leaves in its group: the counter falls, the handle becomes DONE or ERROR, or the class latch
keeps the error. -/
def completeInGroup (o : EngineOp) (g : Group) : Group :=
  let g := { g with counters := mapSet 0 o.cls (counterOf g o.cls - 1) g.counters }
  if o.handle != 0 then
    writeH g o.handle (if o.err = 0 then .done else .error o.err (BitVec.ofNat 2 o.cls) o.errAddr)
  else if o.err != 0 then setLatch g o.cls o.err o.errAddr
  else g

/-- Flags of a completed operation, one event for each class; a trap that they ask for is taken at the group's next
instruction boundary, after it returns when it is parked (02 R53). -/
def engineFlags (s : State) (o : EngineOp) : State :=
  if o.flags = 0 then s
  else lateEvents { s with g := orFlags s.g false o.flags } s.g.gid o.iaddr o.flags

/-! ### Waiting (06 R110, R111; 13 R245) -/

/-- WAITC: an acquire once the counter is at most n; an error in the class latch is cleared and raises trap 0x0F. -/
def execWaitc (cls : BitVec 2) (n : BitVec 6) (s : State) : Out :=
  if n.toNat < counterOf s.g cls.toNat then finishScalar s (.error (.wait (.counter cls.toNat n.toNat))) else
  let s1 := acquire { s with g := { s.g with parkable := false } }
  let l := latchOf s1.g cls.toNat
  if l.1 = 0 then .next (nextSpc s1)
  else
    let s2 := { s1 with g := { s1.g with latches := mapSet (0, 0) cls.toNat (0, 0) s1.g.latches } }
    .next (takeScalarTrap s2 { scalarTrap s2 0x0F with sub := l.1, faddr := l.2 } s2.g.spc)

/-- WAITH (06 R111). -/
def execWaith (h : BitVec 4) (s : State) : Out :=
  let s0 := { s with g := { s.g with parkable := false } }
  match readH s.g h.toNat with
  | .pending => finishScalar s (.error (.wait (.handle h.toNat)))
  | .free => .next (nextSpc s0)
  | .done => .next (nextSpc (acquire { s0 with g := writeH s0.g h.toNat .free }))
  | .error code _ addr =>
    if code = 0x01 then .next (nextSpc (acquire { s0 with g := writeH s0.g h.toNat .free }))
    else finishScalar s (.error (.trap { scalarTrap s 0x0F with sub := code, faddr := addr }))

/-- The word TESTH writes: the state in [1:0] and the error code in [15:8]. -/
def handleWord : HandleState → W64
  | .free => 0
  | .pending => 1
  | .done => 2
  | .error code _ _ => code.zeroExtend 64 <<< 8 ||| 3

/-- TESTH: a DONE result is an acquire (06 R111). -/
def execTesth (sd : BitVec 8) (h : BitVec 4) (s : State) : Out :=
  let v := readH s.g h.toNat
  let s1 := if v = .done then acquire s else s
  .next (nextSpc (writeS s1 sd.toNat (handleWord v)))

/-- CANCH: a PENDING operation is asked to stop before its next unit (06 R111). -/
def execCanch (h : BitVec 4) (s : State) : Out :=
  .next (nextSpc (if readH s.g h.toNat = .pending then
    { s with ops := s.ops.map (fun o => if o.gid == s.g.gid && o.handle == h.toNat then { o with cancelled := true } else o) }
  else s))

/-- The handle of the group's operation on one handle changed. -/
def moveOp (s : State) (from_ dest : Nat) : State :=
  { s with ops := s.ops.map (fun o => if o.gid == s.g.gid && o.handle == from_ then { o with handle := dest } else o) }

/-- HMOV (06 R111). With hd = ha nothing happens, and nothing is waited for either while that handle is pending, which the
manual leaves open (DESIGN CHOICE). -/
def execHmov (hd ha : BitVec 4) (s : State) : Out :=
  finishScalar s <|
    if hd = ha then .ok (nextSpc s)
    else if readH s.g hd.toNat = .pending then .error (.wait (.busy hd.toNat))
    else if ha = 0 then .ok (nextSpc { s with g := writeH s.g hd.toNat .free })
    else
      let v := readH s.g ha.toNat
      let s1 := if v = .pending then moveOp s ha.toNat hd.toNat else s
      let g := writeH s1.g ha.toNat .free
      if hd = 0 then
        .ok (nextSpc { s1 with g := match v with
          | .error code cls addr => if code = 0x01 then g else setLatch g cls.toNat code addr
          | _ => g })
      else .ok (nextSpc { s1 with g := writeH g hd.toNat v })

end Sys2Proof.Machine
end

