-- ==== Sys2Proof/Machine/Hash.lean ====
section
/-! DEFINITION. SHAKE256 (FIPS 202), which 22 R304, 24 R329 and R330 name: the sponge over Keccak-f[1600] with a rate of
136 bytes. -/

namespace Sys2Proof.Machine

/-- The permutation's state as five sheets, one for each x, each of the five words of its y. -/
abbrev Sheets := List (List W64)

/-- The word at (x, y). -/
def sheetWord (a : Sheets) (x y : Nat) : W64 := (a.getD x []).getD y 0

/-- A word put at (x, y). -/
def setSheetWord (a : Sheets) (x y : Nat) (w : W64) : Sheets := a.set x ((a.getD x []).set y w)

/-- The feedback register of the round constants, shifted once. -/
def shiftConstants (r : Nat) : Nat := if r < 128 then 2 * r else (2 * r - 256) ^^^ 0x71

/-- A round constant and the register after it: seven of its bits stand at the places 2^j − 1. -/
def roundConstant : Nat → Nat → W64 × Nat
  | 0, r => (0, r)
  | n + 1, r =>
    let rest := roundConstant n (shiftConstants r)
    (if r % 2 = 1 then rest.1 ||| BitVec.ofNat 64 (2 ^ (2 ^ (6 - n) - 1)) else rest.1, rest.2)

/-- Theta: each sheet takes in the parities of its neighbours. -/
def mixSheets (a : Sheets) : Sheets :=
  let parity := a.map (fun sheet => sheet.foldl (· ^^^ ·) 0)
  let behind := parity.getLastD 0 :: parity
  let before := parity.tail ++ parity
  (a.zip (behind.zip before)).map (fun p => p.1.map (fun w => w ^^^ p.2.1 ^^^ p.2.2.rotateLeft 1))

/-- Rho and pi in one walk over the words other than the first: each goes to the place where the walk steps next, turned by
the triangular numbers. -/
def walkWords (a : Sheets) : Nat → Nat → Nat → Nat → Sheets → Sheets
  | 0, _, _, _, out => out
  | n + 1, turn, x, y, out =>
    let z := (2 * x + 3 * y) % 5
    let step := 25 - n
    walkWords a n (turn + step) y z (setSheetWord out y z ((sheetWord a x y).rotateLeft (turn % 64)))

/-- Chi: a sheet with the two that follow it. -/
def chiSheet (p q r : List W64) : List W64 := (p.zip (q.zip r)).map (fun w => w.1 ^^^ (w.2.2 &&& ~~~w.2.1))

/-- Chi over all sheets. -/
def chiSheets (a : Sheets) : Sheets :=
  match a with
  | [p, q, r, s, t] => [chiSheet p q r, chiSheet q r s, chiSheet r s t, chiSheet s t p, chiSheet t p q]
  | _ => a

/-- Rounds of the permutation, the feedback register carried along. -/
def permute : Nat → Nat → Sheets → Sheets
  | 0, _, a => a
  | n + 1, r, a =>
    let m := mixSheets a
    let c := chiSheets (walkWords m 24 1 1 0 m)
    let k := roundConstant 7 r
    permute n k.2 (setSheetWord c 0 0 (sheetWord c 0 0 ^^^ k.1))

/-- Keccak-f[1600]. -/
def keccak (a : Sheets) : Sheets := permute 24 1 a

/-- The rate of SHAKE256 in bytes. -/
abbrev shakeRate : Nat := 136

/-- A block of 136 bytes taken in. -/
def absorb (a : Sheets) (block : List Byte) : Sheets :=
  keccak (a.zipIdx.map (fun sheet => sheet.1.zipIdx.map (fun w =>
    w.1 ^^^ BitVec.ofNat 64 (leNat ((block.drop (8 * (sheet.2 + 5 * w.2))).take 8)))))

/-- A message's last block: SHAKE's suffix after its bytes, and the closing bit. -/
def lastBlock (m : List Byte) : List Byte :=
  let fill := m ++ 0x1F :: List.replicate (shakeRate - 1 - m.length) 0
  fill.take (shakeRate - 1) ++ [fill.getD (shakeRate - 1) 0 ||| 0x80]

/-- A message taken in, with at most `n` blocks before the last. -/
def absorbAll : Nat → Sheets → List Byte → Sheets
  | 0, a, m => absorb a (lastBlock m)
  | n + 1, a, m => if m.length < shakeRate then absorb a (lastBlock m) else absorbAll n (absorb a (m.take shakeRate)) (m.drop shakeRate)

/-- The bytes that a state gives out. -/
def stateBytes (a : Sheets) : List Byte :=
  ((List.range 5).flatMap (fun y => a.flatMap (fun sheet => leBytes 8 (sheet.getD y 0).toNat))).take shakeRate

/-- The bytes of `n` + 1 states in sequence. -/
def squeeze : Nat → Sheets → List Byte
  | 0, a => stateBytes a
  | n + 1, a => stateBytes a ++ squeeze n (keccak a)

/-- The first `n` bytes of SHAKE256 of a message. -/
def shake256 (m : List Byte) (n : Nat) : List Byte :=
  (squeeze (n / shakeRate) (absorbAll (m.length / shakeRate) (List.replicate 5 (List.replicate 5 0)) m)).take n

end Sys2Proof.Machine
end

