-- ==== Sys2Proof/Machine/Operands.lean ====
section
/-! DEFINITION. The operand forms of lane instructions: how a code is resolved, read, written and checked, with the
meld names and the waits on results in flight (01 R13 to R19; 02 R44, R45, R50; 03 R57, R61, R62; 07 R118 to R121;
08 R163), and the issue and retirement that every lane instruction shares. -/

namespace Sys2Proof.Machine

/-! ### The call's latched values (01 R22, R23) -/

/-- FMODE as the lane call holds it. -/
def callFmode (g : Group) : BitVec 6 := (g.call.map (·.fmode)).getD g.fmode
/-- TILEW as the lane call holds it. -/
def callTilew (g : Group) : Nat := ((g.call.map (·.tilew)).getD g.tilew).toNat
/-- FMODE.FTZ. -/
def ftzOf (fm : BitVec 6) : Bool := fm.getLsbD 2
/-- FMODE.RM. -/
def rmOf (fm : BitVec 6) : BitVec 2 := fm.extractLsb' 0 2
/-- FMODE.TAGCHK. -/
def tagCheck (fm : BitVec 6) : Bool := fm.getLsbD 3
/-- FMODE.LVCHK. -/
def lvCheck (fm : BitVec 6) : Bool := fm.getLsbD 5
/-- FMODE.UVTRAP. -/
def uvTrap (fm : BitVec 6) : Bool := fm.getLsbD 4

/-! ### Meld names (01 R19; 08 R162, R163) -/

/-- Whether the split in focus is inside a melded region. -/
def melded (s : State) : Bool := (curSplit s).meld && s.g.meld.isSome

/-- The entry of the active renaming table for a name on a path. -/
def renEntry (g : Group) (path name : Nat) : BitVec 10 :=
  match g.meld with
  | none => 0x200
  | some m =>
    match g.ren.getD m.slot none with
    | none => 0x200
    | some t => t.entries.getD (64 * path + name) 0x200

/-- The path of a lane. -/
def pathOf (g : Group) (l : Nat) : Nat :=
  match g.meld with
  | none => 0
  | some m => (m.path.getLsbD l).toNat

/-- The register that a path maps for a code: the V register itself, or what the table gives for an L name; none for
an unmapped name and for every other code. -/
def pathReg (g : Group) (path code : Nat) : Option Nat :=
  if isV code then some code
  else if isL code then
    let e := renEntry g path (code - 0x200)
    if e.getLsbD 9 then none else some (e.toNat % 512)
  else none

/-- The register a lane uses for a code. -/
def laneReg (g : Group) (code l : Nat) : Option Nat := pathReg g (pathOf g l) code

/-- The registers a code may name on either path, by the keys under which results land: V numbers, and the codes of
scalar registers. -/
def codeKeys (g : Group) (code : Nat) : List Nat :=
  if isV code || isS code then [code]
  else ((pathReg g 0 code).toList ++ (pathReg g 1 code).toList).eraseDups

/-! ### Reading (07 R118; 03 R57) -/

/-- The values that an element may give its own lane: the one it holds, and those from before a VINS of another split
until the splits rejoin (07 R121). -/
def elemValues (g : Group) (r l : Nat) : List W32 :=
  readV g r l :: (match g.call with
    | some c => (c.stale.filter (fun p => p.key == r * 32 + l)).map (·.value)
    | none => [])

/-- An element of a vector register as its own lane reads it: +0 for one with an uncorrectable error (02 R50). -/
def readElem (s : State) (r l : Nat) : W32 :=
  if s.g.poison.contains (r * 32 + l) then 0 else
  let vs := elemValues s.g r l
  vs.getD (choose s (freeKey 2 (r * 32 + l)) vs.length) 0

/-- An operand code as lane `l` reads it, 32 bits wide. -/
def readOpnd (s : State) (code l : Nat) : W32 :=
  if isS code then (laneReadS s (code - 0x400)).setWidth 32
  else if code = 0x240 then BitVec.ofNat 32 l
  else if code = 0x241 then BitVec.ofNat 32 (l % callTilew s.g)
  else if code = 0x242 then BitVec.ofNat 32 s.g.index
  else if code = 0x243 then BitVec.ofNat 32 (l / callTilew s.g)
  else match laneReg s.g code l with
    | some r => readElem s r l
    | none => 0

/-- The values that an element of another split's lane held at earlier moments since the two splits divided (07 R121):
those overwritten by a split that has not rejoined the reader's, whose lanes are `mask`. -/
def pastValues (g : Group) (mask : W32) (k : Nat) : List W32 :=
  match g.call with
  | some c => (c.past.filter (fun p => p.key == k && p.lanes &&& mask == 0)).map (·.value)
  | none => []

/-- A register of another lane as a cross-lane instruction reads it: the lane's current value when the lane belongs to
the issuing split; otherwise any value that it has held since the two splits divided (07 R121). A value that it will
hold later, before they rejoin, is read where a latency keeps this split from issuing until then (`State.busy`; DEDUCED). -/
def readAcross (s : State) (code l : Nat) : W32 :=
  let mask := (curSplit s).mask
  if !isV code || mask.getLsbD l || s.g.poison.contains (code * 32 + l) then readOpnd s code l else
  let vs := pastValues s.g mask (code * 32 + l)
  match choose s (freeKey 3 (code * 32 + l)) (vs.length + 1) with
  | 0 => readOpnd s code l
  | i + 1 => vs.getD i 0

/-- The tag of a code on a path: RAW for an unmapped name, a special or a scalar operand (02 R44; 08 R163). -/
def pathTag (g : Group) (path code : Nat) : BitVec 4 :=
  if isT code then tagT g (code - 0x300)
  else match pathReg g path code with
    | some r => tagV g r
    | none => 0

/-! ### Writing (07 R118, R119; 08 R163) -/

/-- What a result writes, by register key: `vals` rise by lane, `t` gives each path's tag (08 R163). Where both paths map an
L name to one register and their tags differ, path 1's stands (DESIGN CHOICE: the manual does not say which). -/
def keyWrites (g : Group) (code : Nat) (vals : List (Nat × W32)) (t : Nat → BitVec 4) :
    List (Nat × BitVec 4 × List (Nat × W32)) :=
  if isL code then
    match pathReg g 0 code, pathReg g 1 code with
    | some r, some q =>
      if r = q then [(r, t 1, vals)]
      else [(r, t 0, vals.filter (fun p => pathOf g p.1 == 0)), (q, t 1, vals.filter (fun p => pathOf g p.1 == 1))]
    | some r, none => [(r, t 0, vals.filter (fun p => pathOf g p.1 == 0))]
    | none, some q => [(q, t 1, vals.filter (fun p => pathOf g p.1 == 1))]
    | none, none => []
  else [(code, if t 0 = t 1 then t 0 else 0, vals)]

/-- Results written at once. -/
def writeKeys (g : Group) (ws : List (Nat × BitVec 4 × List (Nat × W32))) : Group :=
  ws.foldl (fun acc w => writeKey acc w.1 w.2.1 w.2.2) g

/-- A result written to a destination code. -/
def writeOpnd (g : Group) (code : Nat) (vals : List (Nat × W32)) (t : Nat → BitVec 4) : Group :=
  writeKeys g (keyWrites g code vals t)

/-! ### What an instruction names -/

/-- The tags an operand may carry besides RAW (02 R44). `unread` is for a register of an operand's range that is held like
the others and is not read. -/
inductive Accept where
  | any
  | only (tags : List (BitVec 4))
  | unread
  deriving DecidableEq, Repr

/-- Whether a tag is accepted. -/
def Accept.ok (a : Accept) (t : BitVec 4) : Bool :=
  match a with
  | .any | .unread => true
  | .only ts => t == 0 || ts.contains t

/-- An operand that an instruction reads or writes: its field (0 to 3 for a to d), a code, how many consecutive codes, and
the tags it accepts. -/
structure Opnd where
  slot : Nat
  code : Nat
  n    : Nat
  tags : Accept
  deriving DecidableEq, Repr

/-- A source operand. -/
def src (slot : Nat) (code : BitVec 11) (tags : Accept) : Opnd := ⟨slot, code.toNat, 1, tags⟩
/-- A source of several consecutive registers. -/
def srcs (slot : Nat) (code : BitVec 11) (n : Nat) (tags : Accept) : Opnd := ⟨slot, code.toNat, n, tags⟩
/-- A destination operand of `n` registers. -/
def dst (code : BitVec 11) (n : Nat) : Opnd := ⟨3, code.toNat, n, .any⟩

/-- The codes an operand covers. -/
def Opnd.codes (o : Opnd) : List Nat := (List.range o.n).map (fun i => o.code + i)

/-! ### Faults before any effect (03 R61; 18 R285) -/

/-- A fault of the whole instruction: its mask is the active lanes, or the split's lanes when none is active. -/
def wholeFault (s : State) (act : W32) (code : BitVec 8) : Stop :=
  .trap { laneTrap s code with fmask := if act = 0 then (curSplit s).mask else act }

/-- A fault of some lanes. -/
def lanesFault (s : State) (ls : List Nat) (code : BitVec 8) : Stop :=
  .trap { laneTrap s code with fmask := maskOf ls }

/-- The active lanes whose path leaves a named code unmapped (01 R19). -/
def unmappedLanes (s : State) (act : W32) (codes : List Nat) : List Nat :=
  (lanesOf act).filter (fun l => codes.any (fun c => isL c && (laneReg s.g c l).isNone))

/-- Whether a code's registers on either path, or its tile, are held (01 R14, R15, R19). -/
def codeHeld (g : Group) (code : Nat) : Bool :=
  if isT code then code - 0x300 < g.tiles
  else ((pathReg g 0 code).toList ++ (pathReg g 1 code).toList).all (heldV g)

/-- Whether an operand's tags are accepted on both paths; a path on which a name is unmapped contributes none
(02 R45; 08 R163). -/
def Opnd.formatOk (g : Group) (o : Opnd) : Bool :=
  o.codes.all (fun c => o.tags.ok (pathTag g 0 c) && o.tags.ok (pathTag g 1 c))

/-- The checks of 03 R61 that come before memory faults, in order. -/
def laneChecks (s : State) (act : W32) (reads writes : List Opnd) : Except Stop Unit := do
  let codes := (reads ++ writes).flatMap Opnd.codes
  if codes.any isL && !melded s then throw (wholeFault s act 0x01)
  let bad := unmappedLanes s act codes
  if !bad.isEmpty then throw (lanesFault s bad 0x01)
  if !codes.all (codeHeld s.g) then throw (wholeFault s act 0x03)
  if tagCheck (callFmode s.g) && !reads.all (Opnd.formatOk s.g) then throw (wholeFault s act 0x02)

/-! ### Results in flight and bad elements at issue -/

/-- Operands without the registers that are not read. -/
def readOnly (reads : List Opnd) : List Opnd := reads.filter (fun o => o.tags != .unread)

/-- The registers an instruction is about to read: past their windows they land first. The flag says whether one was
read inside a window (03 R62). -/
def touchReads (s : State) (reads : List Opnd) : State × Bool :=
  (((readOnly reads).flatMap Opnd.codes).flatMap (codeKeys s.g)).foldl (fun acc r =>
    let x := readTouch acc.1 (curSplit s).mask r
    (x.1, acc.2 || x.2)) (s, false)

/-- The registers an instruction is about to write: earlier results for them land first. -/
def touchWrites (s : State) (writes : List Opnd) : State :=
  { s with g := ((writes.flatMap Opnd.codes).flatMap (codeKeys s.g)).foldl writeTouch s.g }

/-- The place of a record in the order of 02 R50 and R52: lane, operand, element. -/
def LogRecord.rank (r : LogRecord) : Nat :=
  let op := match r.operand with | .reg i => i | .bstore _ => 4 | .mem _ => 5
  (r.laneNo * 8 + op) * 4096 + r.element

/-- A record of a lane instruction of the split in focus. -/
def laneRecord (s : State) (operand : LogOperand) (lane element : Nat) : LogRecord :=
  ⟨s.g.ctx, lanePc s, true, operand, lane, element, false⟩

/-- The first code of an operand's field: a record whose words carry several tags is listed in parts. -/
def Opnd.start (reads : List Opnd) (o : Opnd) : Nat :=
  ((reads.find? (fun p => 1 < p.n && p.slot == o.slot && p.code + p.n == o.code)).map (·.code)).getD o.code

/-- The records of the operands with uncorrectable elements among the lanes `ls` (02 R50). -/
def badElements (s : State) (ls : List Nat) (reads : List Opnd) : List LogRecord :=
  ls.flatMap (fun l => (readOnly reads).flatMap (fun o =>
    ((o.codes.map (fun c => (c, c - o.start reads))).filter (fun c =>
      if isS c.1 then s.g.poison.contains (scalarBad (c.1 - 0x400))
      else match laneReg s.g c.1 l with
        | some r => s.g.poison.contains (r * 32 + l)
        | none => false)).map (fun c => laneRecord s (.reg o.slot) l c.2)))

/-- UE and one log record for the lowest bad element (02 R50, R52). -/
def notePoison (s : State) (ls : List Nat) (reads : List Opnd) : State × BitVec 8 :=
  if s.g.poison.isEmpty then (s, 0) else
  match sortBy LogRecord.rank (badElements s ls reads) with
  | [] => (s, 0)
  | x :: _ => ({ s with log := s.log ++ [x] }, flagUE)

/-- The records that an instruction has written since the state `s0` in which it issued, of which the lowest stays
(02 R50, R52); records of other instructions' no-return operations all stay. -/
def settleLog (s0 s : State) : State :=
  let new := s.log.drop s0.log.length
  match sortBy LogRecord.rank (new.filter (fun r => !r.late)) with
  | x :: _ :: _ => { s with log := s0.log ++ new.filter (·.late) ++ [x] }
  | _ => s

/-- What precedes the effect of every lane instruction: the MMA of its group and results in flight land where it reads
or writes them. The flags are LV and UE. An instruction with no active lane that names a destination inside its window as a
source sets LV too (DESIGN CHOICE: 03 R62 has the read set it, and 07 R118 lets flags arise from active lanes only). -/
def laneReady (s : State) (act : W32) (reads writes : List Opnd) : State × BitVec 8 :=
  let s := if ((reads ++ writes).flatMap Opnd.codes).any isT then settleMma s else s
  let (s, inside) := if s.g.landings.isEmpty then (s, false) else touchReads s reads
  let s := if s.g.landings.isEmpty then s else touchWrites s writes
  let (s, ue) := notePoison s (lanesOf act) reads
  (s, ue ||| flagIf (inside && lvCheck (callFmode s.g)) flagLV)

/-- One instruction of the split in focus counted in its open windows. -/
def countIssue (s : State) : State :=
  if s.g.landings.isEmpty then s else { s with g := countWindows s.g (curSplit s).mask }

/-- The same, and the instruction counted in its split's windows. -/
def laneTouch (s : State) (act : W32) (reads writes : List Opnd) : State × BitVec 8 :=
  let t := laneReady s act reads writes
  (countIssue t.1, t.2)

/-! ### Issue and retirement -/

/-- The lanes an instruction acts in (07 R118; 01 R17). -/
def activeLanes (s : State) (pred : BitVec 4) : W32 := (curSplit s).mask &&& readK s.g pred.toNat

/-- The lane PC of the split in focus moved on. -/
def advanceLpc (s : State) (len : Nat) : State :=
  let x := curSplit s
  { s with g := setSplit s.g s.ent { x with lpc := x.lpc + BitVec.ofNat 32 len } }

/-- Flags raised by a lane instruction that has retired, and the trap that a false uniformity claim or an event
threshold calls for (18 R285; 08 R158; 02 R53); its record lists every class that fired (18 R289). `s0` is the state in which it issued. -/
def retireLane (s0 : State) (act : W32) (fl : BitVec 8) (s : State) : State :=
  let r := raiseFlags (settleLog s0 s) true fl
  let uv := fl.getLsbD 6 && uvTrap (callFmode s0.g) && s0.g.depth == 0
  if !uv && !r.2.2 then r.1
  else
    let req : TrapReq :=
      { code := if uv then 0x0E else 0x09, lane := true, fmask := if act = 0 then (curSplit s0).mask else act
        sub := 0, num := 0, events := r.2.1, faddr := 0, iaddr := lanePc s0 }
    takeLaneTrap r.1 req (curSplit r.1).lpc (curSplit s0).mask

/-- A lane instruction that keeps its split: waits on results, checks, its effect, the next lane PC, flags. The tags
checked are those of the values read: a result that has landed brings its own (02 R45; 03 R62). `body` gets the active
lanes and the flags that its operands raised, and gives the state with the flags raised besides. -/
def laneIssueWith (len : Nat) (pred : BitVec 4) (reads writes : List Opnd) (s : State)
    (body : W32 → BitVec 8 → State → Except Stop (State × BitVec 8)) : Out :=
  let act := activeLanes s pred
  finishLane s do
    let t := laneTouch s act reads writes
    laneChecks t.1 act reads writes
    let r ← body act t.2 t.1
    pure (retireLane s act (r.2 ||| t.2) (advanceLpc r.1 len))

/-- The same for an instruction that issues no store. -/
def laneIssue (len : Nat) (pred : BitVec 4) (reads writes : List Opnd) (s : State)
    (body : W32 → State → Except Stop (State × BitVec 8)) : Out :=
  laneIssueWith len pred reads writes s (fun act _ s => body act s)

/-! ### Elementwise instructions -/

/-- What an elementwise instruction computes with besides its operands. -/
structure LaneEnv where
  fmode  : BitVec 6
  seedlo : W32
  seedhi : W32
  deriving DecidableEq, Repr

/-- The environment of the split in focus. -/
def laneEnv (g : Group) : LaneEnv :=
  match g.call with
  | some c => ⟨c.fmode, c.seedlo, c.seedhi⟩
  | none => ⟨g.fmode, g.seedlo, g.seedhi⟩

/-- An elementwise lane instruction: the sources it reads with the tags they may carry, whether a b of 0x244 reads
imm31, the result's tag from the sources' tags, and the result's value and flags. -/
structure Elem where
  a    : Option Accept
  b    : Option Accept
  c    : Option Accept
  immB : Bool
  tag  : BitVec 4 → BitVec 4 → BitVec 4 → BitVec 4
  val  : LaneEnv → W32 → W32 → W32 → W32 × BitVec 8

/-- The operands an elementwise instruction reads. -/
def Elem.reads (e : Elem) (f : LaneWord) : List Opnd :=
  (e.a.map (src 0 f.a)).toList ++ (e.b.map (src 1 f.b)).toList ++ (e.c.map (src 2 f.c)).toList

/-- imm31, sign-extended. -/
def immWord (f : LaneWord) : W32 := f.imm.signExtend 32

/-- Operand b in a lane: imm31 in place of `%zero` where the opcode takes it (05 R78). -/
def Elem.readB (e : Elem) (f : LaneWord) (s : State) (l : Nat) : W32 :=
  if e.immB && f.b == 0x244 then immWord f else readOpnd s f.b.toNat l

/-- The value and flags of an elementwise instruction in a lane. -/
def Elem.at (e : Elem) (f : LaneWord) (s : State) (l : Nat) : W32 × BitVec 8 :=
  e.val (laneEnv s.g) (readOpnd s f.a.toNat l) (e.readB f s l) (readOpnd s f.c.toNat l)

/-- The tag of the result on a path. -/
def Elem.tagOn (e : Elem) (f : LaneWord) (g : Group) (path : Nat) : BitVec 4 :=
  e.tag (pathTag g path f.a.toNat) (pathTag g path f.b.toNat) (pathTag g path f.c.toNat)

/-- The values an elementwise instruction gives in the active lanes, and the flags of all of them. -/
def Elem.values (e : Elem) (f : LaneWord) (s : State) (act : W32) : List (Nat × W32) × BitVec 8 :=
  let rs := (lanesOf act).map (fun l => (l, e.at f s l))
  (rs.map (fun p => (p.1, p.2.1)), rs.foldl (fun fl p => fl ||| p.2.2) 0)

/-- An elementwise instruction executed. -/
def execElem (e : Elem) (f : LaneWord) (s : State) : Out :=
  laneIssue f.form.length f.pred (e.reads f) [dst f.d 1] s (fun act s =>
    let r := e.values f s act
    .ok ({ s with g := writeOpnd s.g f.d.toNat r.1 (e.tagOn f s.g) }, r.2))

/-- The operands a pair reads. -/
def pairReads (e0 e1 : Elem) (f0 f1 : LaneWord) : List Opnd := e0.reads f0 ++ e1.reads f1

/-- A pair executed: both halves read before either writes; their faults together make one trap (03 R59). -/
def execPair (len : Nat) (e0 e1 : Elem) (f0 f1 : LaneWord) (s : State) : Out :=
  laneIssue len 0 (pairReads e0 e1 f0 f1) [dst f0.d 1, dst f1.d 1] s (fun act s =>
    let r0 := e0.values f0 s act
    let r1 := e1.values f1 s act
    let g := writeOpnd s.g f0.d.toNat r0.1 (e0.tagOn f0 s.g)
    .ok ({ s with g := writeOpnd g f1.d.toNat r1.1 (e1.tagOn f1 s.g) }, r0.2 ||| r1.2))

end Sys2Proof.Machine
end

