-- ==== Sys2Proof/Machine/ScalarAlu.lean ====
section
/-! DEFINITION. Scalar integer arithmetic, logic, constants and moves (06 R86 to R90). -/

namespace Sys2Proof.Machine

/-- A register–register operation (06 R86): S[sd] := f(S[sa], S[sb]). -/
def alu3 (f : W64 → W64 → W64) (sd sa sb : BitVec 8) (s : State) : Out :=
  .next (nextSpc (writeS s sd.toNat (f (readS s sa.toNat) (readS s sb.toNat))))

/-- A unary operation of major 0x07 (06 R86). -/
def alu2 (f : W64 → W64) (sd sa : BitVec 8) (s : State) : Out :=
  .next (nextSpc (writeS s sd.toNat (f (readS s sa.toNat))))

/-- A register–immediate operation (06 R87). -/
def aluImm (f : W64 → W64) (sd sa : BitVec 8) (s : State) : Out :=
  .next (nextSpc (writeS s sd.toNat (f (readS s sa.toNat))))

/-- A division or remainder: a zero divisor sets DZ (02 R33, R51). -/
def aluDiv (f : W64 → W64 → W64) (sd sa sb : BitVec 8) (s : State) : Out :=
  let n := noteRegs s [(0, sa.toNat), (1, sb.toNat)]
  .next (retireFlags (nextSpc (writeS n.1 sd.toNat (f (readS s sa.toNat) (readS s sb.toNat))))
    (n.2 ||| flagIf (readS s sb.toNat == 0) flagDZ) s.g.spc)

/-- A truth value as a register value. -/
def boolWord (b : Bool) : W64 := if b then 1 else 0

/-- Bits [127:64] of the signed product. -/
def mulHigh (a b : W64) : W64 := (a.signExtend 128 * b.signExtend 128).extractLsb' 64 64

/-- Signed quotient truncated towards zero; all ones for a zero divisor (02 R33). -/
def divSigned (a b : W64) : W64 := if b = 0 then BitVec.allOnes 64 else a.sdiv b
/-- Unsigned quotient; all ones for a zero divisor. -/
def divUnsigned (a b : W64) : W64 := if b = 0 then BitVec.allOnes 64 else a.udiv b
/-- Signed remainder with the dividend's sign; the dividend for a zero divisor. -/
def remSigned (a b : W64) : W64 := if b = 0 then a else a.srem b
/-- Unsigned remainder; the dividend for a zero divisor. -/
def remUnsigned (a b : W64) : W64 := if b = 0 then a else a.umod b

/-- A shift amount: b modulo 64. -/
def shiftAmount (b : W64) : Nat := b.toNat % 64

/-- Leading zeros of a number below 2^w. -/
def leadingZeros (w n : Nat) : Nat := if n = 0 then w else w - 1 - Nat.log2 n

/-- Trailing zeros of a number: `w` for zero. -/
def trailingZeros : Nat → Nat → Nat
  | 0, _ => 0
  | w + 1, n => if n % 2 = 1 then 0 else 1 + trailingZeros w (n / 2)

/-- The number of ones among the low `w` bits. -/
def countOnes : Nat → Nat → Nat
  | 0, _ => 0
  | w + 1, n => n % 2 + countOnes w (n / 2)

/-- The low `w` bits reversed. -/
def reverseBits : Nat → Nat → Nat
  | 0, _ => 0
  | w + 1, n => n % 2 * 2 ^ w + reverseBits w (n / 2)

/-- SADD (06 R86). -/
def execSadd (sd sa sb : BitVec 8) (s : State) : Out := alu3 (fun a b => a + b) sd sa sb s
/-- SSUB (06 R86). -/
def execSsub (sd sa sb : BitVec 8) (s : State) : Out := alu3 (fun a b => a - b) sd sa sb s
/-- SMUL: bits [63:0] of the product (06 R86). -/
def execSmul (sd sa sb : BitVec 8) (s : State) : Out := alu3 (fun a b => a * b) sd sa sb s
/-- SMULH (06 R86). -/
def execSmulh (sd sa sb : BitVec 8) (s : State) : Out := alu3 mulHigh sd sa sb s
/-- SDIV (06 R86, 02 R33). -/
def execSdiv (sd sa sb : BitVec 8) (s : State) : Out := aluDiv divSigned sd sa sb s
/-- SDIVU (06 R86, 02 R33). -/
def execSdivu (sd sa sb : BitVec 8) (s : State) : Out := aluDiv divUnsigned sd sa sb s
/-- SREM (06 R86, 02 R33). -/
def execSrem (sd sa sb : BitVec 8) (s : State) : Out := aluDiv remSigned sd sa sb s
/-- SREMU (06 R86, 02 R33). -/
def execSremu (sd sa sb : BitVec 8) (s : State) : Out := aluDiv remUnsigned sd sa sb s
/-- SAND (06 R86). -/
def execSand (sd sa sb : BitVec 8) (s : State) : Out := alu3 (fun a b => a &&& b) sd sa sb s
/-- SOR (06 R86). -/
def execSor (sd sa sb : BitVec 8) (s : State) : Out := alu3 (fun a b => a ||| b) sd sa sb s
/-- SXOR (06 R86). -/
def execSxor (sd sa sb : BitVec 8) (s : State) : Out := alu3 (fun a b => a ^^^ b) sd sa sb s
/-- SANDN: a AND NOT b (06 R86). -/
def execSandn (sd sa sb : BitVec 8) (s : State) : Out := alu3 (fun a b => a &&& ~~~b) sd sa sb s
/-- SSHL (06 R86). -/
def execSshl (sd sa sb : BitVec 8) (s : State) : Out := alu3 (fun a b => a <<< shiftAmount b) sd sa sb s
/-- SSHR (06 R86). -/
def execSshr (sd sa sb : BitVec 8) (s : State) : Out := alu3 (fun a b => a >>> shiftAmount b) sd sa sb s
/-- SSRA (06 R86). -/
def execSsra (sd sa sb : BitVec 8) (s : State) : Out := alu3 (fun a b => a.sshiftRight (shiftAmount b)) sd sa sb s
/-- SROR (06 R86). -/
def execSror (sd sa sb : BitVec 8) (s : State) : Out := alu3 (fun a b => a.rotateRight (shiftAmount b)) sd sa sb s
/-- SSLT (06 R86). -/
def execSslt (sd sa sb : BitVec 8) (s : State) : Out := alu3 (fun a b => boolWord (a.slt b)) sd sa sb s
/-- SSLTU (06 R86). -/
def execSsltu (sd sa sb : BitVec 8) (s : State) : Out := alu3 (fun a b => boolWord (a.ult b)) sd sa sb s
/-- SSEQ (06 R86). -/
def execSseq (sd sa sb : BitVec 8) (s : State) : Out := alu3 (fun a b => boolWord (a == b)) sd sa sb s
/-- SSNE (06 R86). -/
def execSsne (sd sa sb : BitVec 8) (s : State) : Out := alu3 (fun a b => boolWord (a != b)) sd sa sb s
/-- SMIN (06 R86). -/
def execSmin (sd sa sb : BitVec 8) (s : State) : Out := alu3 (fun a b => if a.slt b then a else b) sd sa sb s
/-- SMAX (06 R86). -/
def execSmax (sd sa sb : BitVec 8) (s : State) : Out := alu3 (fun a b => if a.slt b then b else a) sd sa sb s
/-- SMINU (06 R86). -/
def execSminu (sd sa sb : BitVec 8) (s : State) : Out := alu3 (fun a b => if a.ult b then a else b) sd sa sb s
/-- SMAXU (06 R86). -/
def execSmaxu (sd sa sb : BitVec 8) (s : State) : Out := alu3 (fun a b => if a.ult b then b else a) sd sa sb s
/-- SCLZ (06 R86). -/
def execSclz (sd sa : BitVec 8) (s : State) : Out := alu2 (fun a => BitVec.ofNat 64 (leadingZeros 64 a.toNat)) sd sa s
/-- SCTZ (06 R86). -/
def execSctz (sd sa : BitVec 8) (s : State) : Out := alu2 (fun a => BitVec.ofNat 64 (trailingZeros 64 a.toNat)) sd sa s
/-- SPOP (06 R86). -/
def execSpop (sd sa : BitVec 8) (s : State) : Out := alu2 (fun a => BitVec.ofNat 64 (countOnes 64 a.toNat)) sd sa s
/-- SBREV (06 R86). -/
def execSbrev (sd sa : BitVec 8) (s : State) : Out := alu2 (fun a => BitVec.ofNat 64 (reverseBits 64 a.toNat)) sd sa s
/-- SADDI (06 R87). -/
def execSaddi (sd sa : BitVec 8) (imm : BitVec 10) (s : State) : Out := aluImm (fun a => a + imm.signExtend 64) sd sa s
/-- SANDI (06 R87). -/
def execSandi (sd sa : BitVec 8) (imm : BitVec 10) (s : State) : Out :=
  aluImm (fun a => a &&& imm.signExtend 64) sd sa s
/-- SORI: the immediate is zero-extended (06 R87). -/
def execSori (sd sa : BitVec 8) (imm : BitVec 10) (s : State) : Out :=
  aluImm (fun a => a ||| imm.zeroExtend 64) sd sa s
/-- SXORI (06 R87). -/
def execSxori (sd sa : BitVec 8) (imm : BitVec 10) (s : State) : Out :=
  aluImm (fun a => a ^^^ imm.signExtend 64) sd sa s
/-- SSHLI (06 R87). -/
def execSshli (sd sa : BitVec 8) (imm : BitVec 6) (s : State) : Out := aluImm (fun a => a <<< imm.toNat) sd sa s
/-- SSHRI (06 R87). -/
def execSshri (sd sa : BitVec 8) (imm : BitVec 6) (s : State) : Out := aluImm (fun a => a >>> imm.toNat) sd sa s
/-- SSRAI (06 R87). -/
def execSsrai (sd sa : BitVec 8) (imm : BitVec 6) (s : State) : Out := aluImm (fun a => a.sshiftRight imm.toNat) sd sa s
/-- SSLTI (06 R87). -/
def execSslti (sd sa : BitVec 8) (imm : BitVec 10) (s : State) : Out :=
  aluImm (fun a => boolWord (a.slt (imm.signExtend 64))) sd sa s

/-- SLI (06 R88). -/
def execSli (sd : BitVec 8) (imm : BitVec 18) (s : State) : Out :=
  .next (nextSpc (writeS s sd.toNat (imm.signExtend 64)))

/-- The value of a literal (06 R88). -/
def literalValue : Literal → W64
  | .signed w => w.signExtend 64
  | .unsigned w => w.zeroExtend 64
  | .full w0 w1 => w1 ++ w0

/-- The bytes of an SLIT with its literal words (03 R54). -/
def literalLength : Literal → W64
  | .full _ _ => 12
  | _ => 8

/-- SLIT: the scalar PC steps past the literal words (06 R88). -/
def execSlit (sd : BitVec 8) (lit : Literal) (s : State) : Out :=
  .next (setSpc (writeS s sd.toNat (literalValue lit)) (s.g.spc + literalLength lit))

/-- SMOV: 10-bit fields reach all of S0 to S1023 (06 R89). -/
def execSmov (sd sa : BitVec 10) (s : State) : Out := .next (nextSpc (writeS s sd.toNat (readS s sa.toNat)))

/-- SCMOVN: moves when S[sb] is nonzero (06 R89). -/
def execScmovn (sd sa sb : BitVec 8) (s : State) : Out :=
  .next (nextSpc (if readS s sb.toNat = 0 then s else writeS s sd.toNat (readS s sa.toNat)))

/-- SCMOVZ: moves when S[sb] is zero (06 R89). -/
def execScmovz (sd sa sb : BitVec 8) (s : State) : Out :=
  .next (nextSpc (if readS s sb.toNat = 0 then writeS s sd.toNat (readS s sa.toNat) else s))

end Sys2Proof.Machine
end

