-- ==== Sys2Proof/Machine/LaneInteger.lean ====
section
/-! DEFINITION. Lane integer instructions (07 R122 to R124; 02 R33, R44). -/

namespace Sys2Proof.Machine

/-! ### Tags (02 R44) -/

/-- I32, U32 or ADDR. -/
def acceptAddr : Accept := .only [1, 2, 10]
/-- I32 or U32. -/
def acceptInt : Accept := .only [1, 2]

/-- ADDR if either source is ADDR, otherwise I32. -/
def tagAdd (a b _c : BitVec 4) : BitVec 4 := if a = 10 || b = 10 then 10 else 1
/-- The tag of operand a. -/
def tagA (a _b _c : BitVec 4) : BitVec 4 := a
/-- A fixed tag. -/
def tagIs (t : BitVec 4) (_a _b _c : BitVec 4) : BitVec 4 := t

/-! ### Values -/

/-- An exact result under the modifier of 05 R78: wrapped, or clamped to the signed or the unsigned range with OF. -/
def clampMod (mod : BitVec 5) (v : Int) : W32 × BitVec 8 :=
  let clamp (lo hi : Int) : W32 × BitVec 8 :=
    if v < lo then (BitVec.ofInt 32 lo, flagOF) else if hi < v then (BitVec.ofInt 32 hi, flagOF) else (BitVec.ofInt 32 v, 0)
  match mod.toNat with
  | 1 => clamp (-2147483648) 2147483647
  | 2 => clamp 0 4294967295
  | _ => (BitVec.ofInt 32 v, 0)

/-- An operand as the modifier reads it: unsigned under `.satu`, otherwise signed. The manual says so of VADD, VSUB and VABSD
(07 R122); that VMUL and VMAD, its c too, read their operands likewise is the model's (DESIGN CHOICE). -/
def readMod (mod : BitVec 5) (w : W32) : Int := if mod.toNat = 2 then w.toNat else w.toInt

/-- An integer instruction of two sources without flags. -/
def intElem (acc : Accept) (tag : BitVec 4 → BitVec 4 → BitVec 4 → BitVec 4) (f : W32 → W32 → W32) : Elem :=
  { a := some acc, b := some acc, c := none, immB := true, tag := tag, val := fun _ a b _ => (f a b, 0) }

/-- An integer instruction of one source without flags. -/
def unaryElem (tag : BitVec 4 → BitVec 4 → BitVec 4 → BitVec 4) (f : W32 → W32) : Elem :=
  { a := some .any, b := none, c := none, immB := false, tag := tag, val := fun _ a _ _ => (f a, 0) }

/-- A two-source operation on exact values under the modifier. -/
def clampElem (acc : Accept) (tag : BitVec 4 → BitVec 4 → BitVec 4 → BitVec 4) (mod : BitVec 5) (f : Int → Int → Int) : Elem :=
  { a := some acc, b := some acc, c := none, immB := true, tag := tag
    val := fun _ a b _ => clampMod mod (f (readMod mod a) (readMod mod b)) }

/-- VADD. -/
def elemVadd (f : LaneWord) : Elem := clampElem acceptAddr tagAdd f.mod (· + ·)
/-- VSUB. -/
def elemVsub (f : LaneWord) : Elem := clampElem acceptAddr tagAdd f.mod (· - ·)
/-- VMUL. -/
def elemVmul (f : LaneWord) : Elem := clampElem acceptInt (tagIs 1) f.mod (· * ·)
/-- VMULH: bits [63:32] of the signed product. -/
def elemVmulh (_f : LaneWord) : Elem :=
  intElem acceptInt (tagIs 1) (fun a b => BitVec.ofInt 32 (a.toInt * b.toInt / 4294967296))
/-- VMULHU: bits [63:32] of the unsigned product. -/
def elemVmulhu (_f : LaneWord) : Elem :=
  intElem acceptInt (tagIs 2) (fun a b => BitVec.ofNat 32 (a.toNat * b.toNat / 4294967296))
/-- VMAD: a × b + c clamped once on the exact value. -/
def elemVmad (f : LaneWord) : Elem :=
  { a := some acceptInt, b := some acceptInt, c := some acceptInt, immB := true, tag := tagIs 1
    val := fun _ a b c => clampMod f.mod (readMod f.mod a * readMod f.mod b + readMod f.mod c) }
/-- VABSD: `.sat` clamps at 2^31 − 1; `.satu` never clamps. -/
def elemVabsd (f : LaneWord) : Elem :=
  clampElem acceptInt (tagIs 1) f.mod (fun a b => ((a - b).natAbs : Int))
/-- VAND. -/
def elemVand (_f : LaneWord) : Elem := intElem .any tagA (· &&& ·)
/-- VOR. -/
def elemVor (_f : LaneWord) : Elem := intElem .any tagA (· ||| ·)
/-- VXOR. -/
def elemVxor (_f : LaneWord) : Elem := intElem .any tagA (· ^^^ ·)
/-- VANDN: a AND NOT b. -/
def elemVandn (_f : LaneWord) : Elem := intElem .any tagA (fun a b => a &&& ~~~b)
/-- VSHL: by b mod 32. -/
def elemVshl (_f : LaneWord) : Elem := intElem .any tagA (fun a b => a <<< (b.toNat % 32))
/-- VSHR. -/
def elemVshr (_f : LaneWord) : Elem := intElem .any tagA (fun a b => a >>> (b.toNat % 32))
/-- VSRA. -/
def elemVsra (_f : LaneWord) : Elem := intElem .any tagA (fun a b => a.sshiftRight (b.toNat % 32))
/-- VROR. -/
def elemVror (_f : LaneWord) : Elem := intElem .any tagA (fun a b => a.rotateRight (b.toNat % 32))
/-- VMIN: signed. -/
def elemVmin (_f : LaneWord) : Elem := intElem acceptInt (tagIs 1) (fun a b => if b.slt a then b else a)
/-- VMAX: signed. -/
def elemVmax (_f : LaneWord) : Elem := intElem acceptInt (tagIs 1) (fun a b => if a.slt b then b else a)
/-- VMINU. -/
def elemVminu (_f : LaneWord) : Elem := intElem acceptInt (tagIs 2) (fun a b => if b.ult a then b else a)
/-- VMAXU. -/
def elemVmaxu (_f : LaneWord) : Elem := intElem acceptInt (tagIs 2) (fun a b => if a.ult b then b else a)
/-- VCLZ: 32 for zero. -/
def elemVclz (_f : LaneWord) : Elem := unaryElem (tagIs 2) (fun a => BitVec.ofNat 32 (leadingZeros 32 a.toNat))
/-- VPOP. -/
def elemVpop (_f : LaneWord) : Elem := unaryElem (tagIs 2) (fun a => BitVec.ofNat 32 (countOnes 32 a.toNat))
/-- VBREV. -/
def elemVbrev (_f : LaneWord) : Elem := unaryElem tagA (fun a => BitVec.ofNat 32 (reverseBits 32 a.toNat))

/-- The position p of imm31[4:0] (07 R123). -/
def bfPos (imm : BitVec 31) : Nat := (imm.extractLsb' 0 5).toNat
/-- The width w of imm31[9:5], plus one. -/
def bfWidth (imm : BitVec 31) : Nat := (imm.extractLsb' 5 5).toNat + 1

/-- VBFX: bits p upwards, w wide, zero- or sign-extended from bit w − 1 (07 R123). -/
def elemVbfx (f : LaneWord) : Elem :=
  unaryElem tagA (fun a =>
    let w := bfWidth f.imm
    let v := a.toNat / 2 ^ bfPos f.imm % 2 ^ w
    if f.mod.getLsbD 0 && v / 2 ^ (w - 1) % 2 == 1 then BitVec.ofInt 32 ((v : Int) - 2 ^ w) else BitVec.ofNat 32 v)

/-- The ones at bits p to min(p + w, 32) − 1 (07 R123). -/
def bfMask (imm : BitVec 31) : W32 := BitVec.ofNat 32 ((2 ^ bfWidth imm - 1) * 2 ^ bfPos imm)

/-- VBFI: (a AND NOT M) OR ((c << p) AND M) (07 R123). -/
def elemVbfi (f : LaneWord) : Elem :=
  { a := some .any, b := none, c := some .any, immB := false, tag := tagA
    val := fun _ a _ c => (a &&& ~~~bfMask f.imm ||| (c <<< bfPos f.imm) &&& bfMask f.imm, 0) }
/-- VSEL: a where c is nonzero, otherwise b. -/
def elemVsel (_f : LaneWord) : Elem :=
  { a := some .any, b := some .any, c := some .any, immB := true, tag := tagA
    val := fun _ a b c => (if c != 0 then a else b, 0) }

/-- The conditions of VCMP (05 R78). -/
def intCond (cc : Nat) (a b : W32) : Bool :=
  match cc with
  | 0 => a == b
  | 1 => a != b
  | 2 => a.slt b
  | 3 => !b.slt a
  | 4 => b.slt a
  | 5 => !a.slt b
  | 6 => a.ult b
  | 7 => !b.ult a
  | 8 => b.ult a
  | _ => !a.ult b

/-- VCMP. -/
def elemVcmp (f : LaneWord) : Elem := intElem .any (tagIs 2) (fun a b => if intCond f.mod.toNat a b then 1 else 0)
/-- VMOV. -/
def elemVmov (_f : LaneWord) : Elem := unaryElem tagA (fun a => a)
/-- VMOVI: RAW. -/
def elemVmovi (f : LaneWord) : Elem :=
  { a := none, b := none, c := none, immB := false, tag := tagIs 0, val := fun _ _ _ _ => (immWord f, 0) }
/-- VADDC: the carry out of the unsigned sum. -/
def elemVaddc (_f : LaneWord) : Elem :=
  intElem acceptAddr tagAdd (fun a b => if 4294967296 ≤ a.toNat + b.toNat then 1 else 0)
/-- VDIV: truncated; a zero divisor gives all ones and DZ (07 R124). -/
def elemVdiv (_f : LaneWord) : Elem :=
  { a := some acceptInt, b := some acceptInt, c := none, immB := true, tag := tagIs 1
    val := fun _ a b _ => if b = 0 then (BitVec.allOnes 32, flagDZ) else (a.sdiv b, 0) }
/-- VREM: the dividend's sign; a zero divisor gives the dividend and DZ (07 R124). -/
def elemVrem (_f : LaneWord) : Elem :=
  { a := some acceptInt, b := some acceptInt, c := none, immB := true, tag := tagIs 1
    val := fun _ a b _ => if b = 0 then (a, flagDZ) else (a.srem b, 0) }

/-- VADD (07 R122). -/
def execVadd (f : LaneWord) (s : State) : Out := execElem (elemVadd f) f s
/-- VSUB (07 R122). -/
def execVsub (f : LaneWord) (s : State) : Out := execElem (elemVsub f) f s
/-- VMUL (07 R122). -/
def execVmul (f : LaneWord) (s : State) : Out := execElem (elemVmul f) f s
/-- VMULH (07 R122). -/
def execVmulh (f : LaneWord) (s : State) : Out := execElem (elemVmulh f) f s
/-- VMULHU (07 R122). -/
def execVmulhu (f : LaneWord) (s : State) : Out := execElem (elemVmulhu f) f s
/-- VMAD (07 R122). -/
def execVmad (f : LaneWord) (s : State) : Out := execElem (elemVmad f) f s
/-- VABSD (07 R122). -/
def execVabsd (f : LaneWord) (s : State) : Out := execElem (elemVabsd f) f s
/-- VAND (07 R122). -/
def execVand (f : LaneWord) (s : State) : Out := execElem (elemVand f) f s
/-- VOR (07 R122). -/
def execVor (f : LaneWord) (s : State) : Out := execElem (elemVor f) f s
/-- VXOR (07 R122). -/
def execVxor (f : LaneWord) (s : State) : Out := execElem (elemVxor f) f s
/-- VANDN (07 R122). -/
def execVandn (f : LaneWord) (s : State) : Out := execElem (elemVandn f) f s
/-- VSHL (07 R122). -/
def execVshl (f : LaneWord) (s : State) : Out := execElem (elemVshl f) f s
/-- VSHR (07 R122). -/
def execVshr (f : LaneWord) (s : State) : Out := execElem (elemVshr f) f s
/-- VSRA (07 R122). -/
def execVsra (f : LaneWord) (s : State) : Out := execElem (elemVsra f) f s
/-- VROR (07 R122). -/
def execVror (f : LaneWord) (s : State) : Out := execElem (elemVror f) f s
/-- VMIN (07 R122). -/
def execVmin (f : LaneWord) (s : State) : Out := execElem (elemVmin f) f s
/-- VMAX (07 R122). -/
def execVmax (f : LaneWord) (s : State) : Out := execElem (elemVmax f) f s
/-- VMINU (07 R122). -/
def execVminu (f : LaneWord) (s : State) : Out := execElem (elemVminu f) f s
/-- VMAXU (07 R122). -/
def execVmaxu (f : LaneWord) (s : State) : Out := execElem (elemVmaxu f) f s
/-- VCLZ (07 R122). -/
def execVclz (f : LaneWord) (s : State) : Out := execElem (elemVclz f) f s
/-- VPOP (07 R122). -/
def execVpop (f : LaneWord) (s : State) : Out := execElem (elemVpop f) f s
/-- VBREV (07 R122). -/
def execVbrev (f : LaneWord) (s : State) : Out := execElem (elemVbrev f) f s
/-- VBFX (07 R123). -/
def execVbfx (f : LaneWord) (s : State) : Out := execElem (elemVbfx f) f s
/-- VBFI (07 R123). -/
def execVbfi (f : LaneWord) (s : State) : Out := execElem (elemVbfi f) f s
/-- VSEL (07 R122). -/
def execVsel (f : LaneWord) (s : State) : Out := execElem (elemVsel f) f s
/-- VCMP (07 R122). -/
def execVcmp (f : LaneWord) (s : State) : Out := execElem (elemVcmp f) f s
/-- VMOV (07 R122). -/
def execVmov (f : LaneWord) (s : State) : Out := execElem (elemVmov f) f s
/-- VMOVI (07 R122). -/
def execVmovi (f : LaneWord) (s : State) : Out := execElem (elemVmovi f) f s
/-- VADDC (07 R122). -/
def execVaddc (f : LaneWord) (s : State) : Out := execElem (elemVaddc f) f s
/-- VDIV (07 R124). -/
def execVdiv (f : LaneWord) (s : State) : Out := execElem (elemVdiv f) f s
/-- VREM (07 R124). -/
def execVrem (f : LaneWord) (s : State) : Out := execElem (elemVrem f) f s

end Sys2Proof.Machine
end

