-- ==== Sys2Proof/Machine/LaneFloat.lean ====
section
/-! DEFINITION. FP32, packed and dot-product lane instructions, conversions, block quantisation and random draws
(07 R125 to R134; 02 R34 to R38, R42, R43, R47). -/

namespace Sys2Proof.Machine

/-- F32. -/
def acceptF32 : Accept := .only [3]

/-! ### FP32 (07 R125 to R127) -/

/-- The rounding of an instruction that takes a rounding code in MOD [2:0]. -/
def modRm (f : LaneWord) (env : LaneEnv) : Rm := Rm.ofCode (f.mod.extractLsb' 0 3).toNat (rmOf env.fmode)

/-- A two-source FP32 instruction. -/
def floatElem (tag : BitVec 4) (v : LaneEnv → W32 → W32 → W32 × BitVec 8) : Elem :=
  { a := some acceptF32, b := some acceptF32, c := none, immB := false, tag := tagIs tag, val := fun env a b _ => v env a b }

/-- A one-source FP32 instruction. -/
def floatUnary (tag : BitVec 4) (v : LaneEnv → W32 → W32 × BitVec 8) : Elem :=
  { a := some acceptF32, b := none, c := none, immB := false, tag := tagIs tag, val := fun env a _ _ => v env a }

/-- FADD. -/
def elemFadd (f : LaneWord) : Elem := floatElem 3 (fun env a b => f32Add (modRm f env) (ftzOf env.fmode) a b)
/-- FSUB. -/
def elemFsub (f : LaneWord) : Elem := floatElem 3 (fun env a b => f32Sub (modRm f env) (ftzOf env.fmode) a b)
/-- FMUL. -/
def elemFmul (f : LaneWord) : Elem := floatElem 3 (fun env a b => f32Mul (modRm f env) (ftzOf env.fmode) a b)
/-- FFMA. -/
def elemFfma (f : LaneWord) : Elem :=
  { a := some acceptF32, b := some acceptF32, c := some acceptF32, immB := false, tag := tagIs 3
    val := fun env a b c => f32Fma (modRm f env) (ftzOf env.fmode) a b c }
/-- FMIN. -/
def elemFmin (_f : LaneWord) : Elem := floatElem 3 (fun env a b => f32MinMax false (ftzOf env.fmode) a b)
/-- FMAX. -/
def elemFmax (_f : LaneWord) : Elem := floatElem 3 (fun env a b => f32MinMax true (ftzOf env.fmode) a b)
/-- FCMP. -/
def elemFcmp (f : LaneWord) : Elem :=
  floatElem 2 (fun env a b => let r := f32Cmp f.mod.toNat (ftzOf env.fmode) a b; (if r.1 then 1 else 0, r.2))
/-- FRND. -/
def elemFrnd (f : LaneWord) : Elem := floatUnary 3 (fun env a => f32Rnd (modRm f env) (ftzOf env.fmode) a)
/-- FRCP. -/
def elemFrcp (_f : LaneWord) : Elem := floatUnary 3 (fun env a => f32Rcp (ftzOf env.fmode) a)
/-- FRSQ. -/
def elemFrsq (_f : LaneWord) : Elem := floatUnary 3 (fun env a => f32Rsq (ftzOf env.fmode) a)
/-- FSQRT. -/
def elemFsqrt (f : LaneWord) : Elem := floatUnary 3 (fun env a => f32Sqrt (modRm f env) (ftzOf env.fmode) a)
/-- FEXP2. -/
def elemFexp2 (_f : LaneWord) : Elem := floatUnary 3 (fun env a => f32Exp2 (ftzOf env.fmode) a)
/-- FLOG2. -/
def elemFlog2 (_f : LaneWord) : Elem := floatUnary 3 (fun env a => f32Log2 (ftzOf env.fmode) a)
/-- FSIN. -/
def elemFsin (_f : LaneWord) : Elem := floatUnary 3 (fun env a => f32Trig true (ftzOf env.fmode) a)
/-- FCOS. -/
def elemFcos (_f : LaneWord) : Elem := floatUnary 3 (fun env a => f32Trig false (ftzOf env.fmode) a)
/-- FCLASS: no flag, FTZ ignored. -/
def elemFclass (_f : LaneWord) : Elem := floatUnary 2 (fun _ a => (f32Class a, 0))
/-- FDIV. -/
def elemFdiv (f : LaneWord) : Elem := floatElem 3 (fun env a b => f32Div (modRm f env) (ftzOf env.fmode) a b)

/-! ### Packed 16-bit (07 R128) -/

/-- The format of MOD [0]. -/
def packedFmt (f : LaneWord) : Fmt := if f.mod.getLsbD 0 then fp16 else bf16
/-- The tag of MOD [0]. -/
def packedTag (f : LaneWord) : BitVec 4 := if f.mod.getLsbD 0 then 5 else 4
/-- The rounding code in MOD [3:1]. -/
def packedRm (f : LaneWord) (env : LaneEnv) : Rm := Rm.ofCode (f.mod.extractLsb' 1 3).toNat (rmOf env.fmode)

/-- An element's value and NV for a signalling NaN. -/
def fmtIn (t : Fmt) (n : Nat) : XVal × BitVec 8 := (t.decode n, flagIf (t.signalling n) flagNV)

/-- A result rounded into an element. -/
def fmtOut (t : Fmt) (rm : Rm) (x : XVal × BitVec 8) : Nat × BitVec 8 :=
  let r := t.encode rm false x.1
  (r.1, r.2 ||| x.2)

/-- The sum of two elements. -/
def fmtAdd (t : Fmt) (rm : Rm) (a b : Nat) : Nat × BitVec 8 :=
  let x := fmtIn t a
  let y := fmtIn t b
  let r := XVal.add rm x.1 y.1
  fmtOut t rm (r.1, x.2 ||| y.2 ||| r.2)

/-- The product of two elements. -/
def fmtMul (t : Fmt) (rm : Rm) (a b : Nat) : Nat × BitVec 8 :=
  let x := fmtIn t a
  let y := fmtIn t b
  let r := XVal.mul x.1 y.1
  fmtOut t rm (r.1, x.2 ||| y.2 ||| r.2)

/-- a × b + c, rounded once. -/
def fmtFma (t : Fmt) (rm : Rm) (a b c : Nat) : Nat × BitVec 8 :=
  let x := fmtIn t a
  let y := fmtIn t b
  let z := fmtIn t c
  let p := XVal.mul x.1 y.1
  let r := XVal.add rm p.1 z.1
  fmtOut t rm (r.1, x.2 ||| y.2 ||| z.2 ||| p.2 ||| r.2)

/-- An operation on both 16-bit elements. -/
def packed2 (g : Nat → Nat → Nat → Nat × BitVec 8) (a b c : W32) : W32 × BitVec 8 :=
  let lo := g (a.toNat % 65536) (b.toNat % 65536) (c.toNat % 65536)
  let hi := g (a.toNat / 65536) (b.toNat / 65536) (c.toNat / 65536)
  (BitVec.ofNat 32 (hi.1 * 65536 + lo.1), lo.2 ||| hi.2)

/-- A packed instruction. -/
def packedElem (f : LaneWord) (three : Bool) (g : Fmt → Rm → Nat → Nat → Nat → Nat × BitVec 8) : Elem :=
  let acc := some (Accept.only [packedTag f])
  { a := acc, b := acc, c := if three then acc else none, immB := false, tag := tagIs (packedTag f)
    val := fun env a b c => packed2 (g (packedFmt f) (packedRm f env)) a b c }

/-- HADD2. -/
def elemHadd2 (f : LaneWord) : Elem := packedElem f false (fun t rm a b _ => fmtAdd t rm a b)
/-- HMUL2. -/
def elemHmul2 (f : LaneWord) : Elem := packedElem f false (fun t rm a b _ => fmtMul t rm a b)
/-- HFMA2. -/
def elemHfma2 (f : LaneWord) : Elem := packedElem f true fmtFma

/-! ### Dot products (07 R129; 02 R47) -/

/-- QDOT4's value. -/
def dotFloat (t : Fmt) (rm : Rm) (a b c : W32) : W32 × BitVec 8 :=
  let prods := (List.range 4).map (fun i => XVal.mul (t.decode (byteOf a i)) (t.decode (byteOf b i)))
  let nv := prods.foldl (fun fl p => fl ||| p.2) (flagIf (fp32.signalling c.toNat) flagNV)
  let s := exactSum (fp32.decode c.toNat :: prods.map (·.1))
  -- an exact zero sum of terms that are all −0 keeps its sign; of others it is +0, or −0 when rounding down
  let z := (fp32.decode c.toNat :: prods.map (·.1)).all (fun x => match x with | .fin n 0 _ => n | _ => false)
  let s1 := match s.1 with
    | .fin _ 0 _ => XVal.fin (z || (rm == .rd && !((fp32.decode c.toNat :: prods.map (·.1)).all
        (fun x => match x with | .fin n 0 _ => !n | _ => false)))) 0 0
    | x => x
  let r := fp32.encode rm false s1
  (BitVec.ofNat 32 r.1, r.2 ||| s.2 ||| nv)

/-- QDOT4. -/
def elemQdot4 (f : LaneWord) : Elem :=
  let acc := some (Accept.only [if f.mod.getLsbD 0 then 7 else 6])
  { a := acc, b := acc, c := some acceptF32, immB := false, tag := tagIs 3
    val := fun env a b c => dotFloat (if f.mod.getLsbD 0 then e5m2 else e4m3) (packedRm f env) a b c }

/-- IDOT4. -/
def elemIdot4 (f : LaneWord) : Elem :=
  { a := some acceptInt, b := some acceptInt, c := some acceptInt, immB := false, tag := tagIs 1
    val := fun _ a b c =>
      let u := f.mod.getLsbD 0
      let v := (List.range 4).foldl (fun t i => t + byteInt u (byteOf a i) * byteInt u (byteOf b i)) c.toInt
      clampMod (if f.mod.getLsbD 1 then 1 else 0) v }

/-! ### Conversion (07 R130; 02 R43) -/

/-- The floating-point format of a CVT type code (05 R80). -/
def cvtFmt (code : Nat) : Option Fmt :=
  match code with
  | 2 => some fp32
  | 3 => some bf16
  | 4 => some fp16
  | 5 => some e4m3
  | 6 => some e5m2
  | 7 => some e2m1
  | _ => none

/-- The tag of a CVT type code. -/
def cvtTag (code : Nat) : BitVec 4 :=
  match code with
  | 0 => 1 | 1 => 2 | 2 => 3 | 3 => 4 | 4 => 5 | 5 => 6 | 6 => 7 | 7 => 8 | 8 => 1 | _ => 2

/-- A value converted into a narrower format: UF when an inexact result is subnormal or zero (02 R43). -/
def narrow (t : Fmt) (rm : Rm) (sat : Bool) (x : XVal) : Nat × BitVec 8 :=
  let r := t.encode rm sat x
  let small := r.1 % 2 ^ (t.ebits + t.mbits) < 2 ^ t.mbits
  let lost := match x with | .fin _ m _ => m != 0 && small && !(t.decode r.1).eq x | _ => false
  (r.1, (r.2 &&& ~~~flagUF) ||| flagIf lost flagUF)

/-- A source element with FTZ for FP32. -/
def cvtIn (code : Nat) (ftz : Bool) (t : Fmt) (a : W32) : XVal × BitVec 8 :=
  if code = 2 then f32In ftz a else fmtIn t (a.toNat % 2 ^ (1 + t.ebits + t.mbits))

/-- An FP source converted to FP or to a 32-bit integer. -/
def cvtFloat (srcC dstC : Nat) (rm : Rm) (sat ftz : Bool) (t : Fmt) (a : W32) : W32 × BitVec 8 :=
  let x := cvtIn srcC ftz t a
  match cvtFmt dstC with
  | some u =>
    if dstC = 2 then f32Round .rn ftz x
    else
      let r := narrow u (if dstC = 4 then rm else .rn) sat x.1
      (BitVec.ofNat 32 r.1, r.2 ||| x.2)
  | none =>
    let r := if dstC = 0 then toIntClamp rm (-2147483648) 2147483647 x else toIntClamp rm 0 4294967295 x
    (BitVec.ofInt 32 r.1, r.2)

/-- An integer source converted. -/
def cvtInt (srcC dstC : Nat) (rm : Rm) (sat ftz : Bool) (a : W32) : W32 × BitVec 8 :=
  let v : Int := if srcC = 0 then a.toInt else a.toNat
  if dstC = 2 then f32Round rm ftz (XVal.ofInt v, 0)
  else
    let lo : Int := if dstC = 8 then -128 else 0
    let hi : Int := if dstC = 8 then 127 else 255
    let w := if sat then (if v < lo then lo else if hi < v then hi else v) else v
    (BitVec.ofInt 32 w &&& 0xFF, flagIf (w != v) flagOF)

/-- CVT: destination type in imm31[7:4], source type in imm31[3:0]. -/
def elemCvt (f : LaneWord) : Elem :=
  let sc := (f.imm.extractLsb' 0 4).toNat
  let dc := (f.imm.extractLsb' 4 4).toNat
  let sat := f.mod.getLsbD 3
  { a := some (.only [cvtTag sc]), b := none, c := none, immB := false, tag := tagIs (cvtTag dc)
    val := fun env a _ _ =>
      match cvtFmt sc with
      | some t => cvtFloat sc dc (modRm f env) sat (ftzOf env.fmode) t a
      | none => cvtInt sc dc (modRm f env) sat (ftzOf env.fmode) a }

/-! ### Random draws (07 R133, R134) -/

/-- VRAND: word n of the draw with x3 = 1, under the key latched at the LCALL. -/
def elemVrand (f : LaneWord) : Elem :=
  { a := some .any, b := some .any, c := some .any, immB := false, tag := tagIs 2
    val := fun env a b c =>
      let w := philox env.seedlo env.seedhi a b c 1
      (match (f.imm.extractLsb' 0 2).toNat with
        | 0 => w.1
        | 1 => w.2.1
        | 2 => w.2.2.1
        | _ => w.2.2.2, 0) }

/-! ### Block quantisation (07 R131, R132; 02 R38) -/

/-- An E3M5 scale as a value. -/
def scaleVal (code : Nat) : XVal :=
  match scaleUnits code with
  | some u => .fin false u (-7)
  | none => .nan

/-- The larger magnitude of two finite values, without signs. -/
def maxMag (x y : XVal) : XVal :=
  match x, y with
  | .fin _ m e, .fin _ n d => if (XVal.fin false m e).lt (.fin false n d) then .fin false n d else .fin false m e
  | _, _ => x

/-- The scale of a block whose largest magnitude is `m`, and OF when none is large enough. -/
def blockScale (m : XVal) : Nat × BitVec 8 :=
  if m.isZero then (0, 0) else
  match (List.range 255).find? (fun c => !((XVal.fin false (6 * (scaleUnits c).getD 0) (-7)).lt m)) with
  | some c => (c, 0)
  | none => (254, flagOF)

/-- One element of a block: x ÷ scale rounded to nearest, clamped at ±6, and UF when a nonzero value becomes zero. -/
def blockElem (scale : Nat) (x : XVal) : Nat × BitVec 8 :=
  match x with
  | .fin neg m e =>
    if scale = 0 || m = 0 then (e2m1.signed neg 0, 0)
    else
      let q := divBits m ((scaleUnits scale).getD 1) 64
      let r := (e2m1.round .rn true neg q.1 (e + 7 - 64) q.2).1
      (r, flagIf (r % 8 == 0) flagUF)
  | _ => (0, 0)

/-- QBLK's data word, scale word and flags for eight FP32 values. -/
def quantise (xs : List W32) : W32 × W32 × BitVec 8 :=
  let vs := xs.map (fun w => fp32.decode w.toNat)
  if vs.any (fun v => !v.isFinite) then (0, 0xFF, flagNV)
  else
    let s := blockScale (vs.foldl maxMag (.fin false 0 0))
    let es := vs.map (blockElem s.1)
    (BitVec.ofNat 32 (es.foldr (fun e n => e.1 + 16 * n) 0), BitVec.ofNat 32 s.1,
      es.foldl (fun fl e => fl ||| e.2) s.2)

/-- QBLK: data to d with FB4x8, scale to b with E3M5x4. When b names d, which of the two stands is free. -/
def execQblk (f : LaneWord) (s : State) : Out :=
  laneIssue f.form.length f.pred [srcs 0 f.a 8 acceptF32] [dst f.d 1, dst f.b 1] s (fun act s =>
    let rs := (lanesOf act).map (fun l => (l, quantise ((List.range 8).map (fun i => readOpnd s (f.a.toNat + i) l))))
    let data (g : Group) : Group := writeOpnd g f.d.toNat (rs.map (fun p => (p.1, p.2.1))) (fun _ => 8)
    let scale (g : Group) : Group := writeOpnd g f.b.toNat (rs.map (fun p => (p.1, p.2.2.1))) (fun _ => 9)
    let g := if choose s 14 2 = 0 then scale (data s.g) else data (scale s.g)
    .ok ({ s with g := g }, rs.foldl (fun fl p => fl ||| p.2.2.2) 0))

/-- Value i of a block: exact; a poisoned scale gives the canonical NaN. -/
def unblockElem (data scale : W32) (i : Nat) : W32 :=
  let p := XVal.mul (e2m1.decode (data.toNat / 16 ^ i % 16)) (scaleVal (scale.toNat % 256))
  BitVec.ofNat 32 (fp32.encode .rn false p.1).1

/-- UNBLK: eight FP32 values to d to d+7. -/
def execUnblk (f : LaneWord) (s : State) : Out :=
  laneIssue f.form.length f.pred [src 0 f.a (.only [8]), src 1 f.b (.only [9])] [dst f.d 8] s (fun act s =>
    let rs := (lanesOf act).map (fun l => (l, readOpnd s f.a.toNat l, readOpnd s f.b.toNat l))
    let g := (List.range 8).foldl (fun g i =>
      writeOpnd g (f.d.toNat + i) (rs.map (fun p => (p.1, unblockElem p.2.1 p.2.2 i))) (fun _ => 3)) s.g
    .ok ({ s with g := g }, 0))

/-! ### The meanings -/

/-- FADD (07 R125). -/
def execFadd (f : LaneWord) (s : State) : Out := execElem (elemFadd f) f s
/-- FSUB (07 R125). -/
def execFsub (f : LaneWord) (s : State) : Out := execElem (elemFsub f) f s
/-- FMUL (07 R125). -/
def execFmul (f : LaneWord) (s : State) : Out := execElem (elemFmul f) f s
/-- FFMA (07 R125). -/
def execFfma (f : LaneWord) (s : State) : Out := execElem (elemFfma f) f s
/-- FMIN (07 R126). -/
def execFmin (f : LaneWord) (s : State) : Out := execElem (elemFmin f) f s
/-- FMAX (07 R126). -/
def execFmax (f : LaneWord) (s : State) : Out := execElem (elemFmax f) f s
/-- FCMP (07 R126). -/
def execFcmp (f : LaneWord) (s : State) : Out := execElem (elemFcmp f) f s
/-- FRND (07 R125). -/
def execFrnd (f : LaneWord) (s : State) : Out := execElem (elemFrnd f) f s
/-- FRCP (07 R125). -/
def execFrcp (f : LaneWord) (s : State) : Out := execElem (elemFrcp f) f s
/-- FRSQ (07 R125). -/
def execFrsq (f : LaneWord) (s : State) : Out := execElem (elemFrsq f) f s
/-- FSQRT (07 R125). -/
def execFsqrt (f : LaneWord) (s : State) : Out := execElem (elemFsqrt f) f s
/-- FEXP2 (07 R125). -/
def execFexp2 (f : LaneWord) (s : State) : Out := execElem (elemFexp2 f) f s
/-- FLOG2 (07 R125). -/
def execFlog2 (f : LaneWord) (s : State) : Out := execElem (elemFlog2 f) f s
/-- FSIN (07 R125). -/
def execFsin (f : LaneWord) (s : State) : Out := execElem (elemFsin f) f s
/-- FCOS (07 R125). -/
def execFcos (f : LaneWord) (s : State) : Out := execElem (elemFcos f) f s
/-- FCLASS (07 R127). -/
def execFclass (f : LaneWord) (s : State) : Out := execElem (elemFclass f) f s
/-- HADD2 (07 R128). -/
def execHadd2 (f : LaneWord) (s : State) : Out := execElem (elemHadd2 f) f s
/-- HMUL2 (07 R128). -/
def execHmul2 (f : LaneWord) (s : State) : Out := execElem (elemHmul2 f) f s
/-- HFMA2 (07 R128). -/
def execHfma2 (f : LaneWord) (s : State) : Out := execElem (elemHfma2 f) f s
/-- QDOT4 (07 R129). -/
def execQdot4 (f : LaneWord) (s : State) : Out := execElem (elemQdot4 f) f s
/-- IDOT4 (07 R129). -/
def execIdot4 (f : LaneWord) (s : State) : Out := execElem (elemIdot4 f) f s
/-- CVT (07 R130). -/
def execCvt (f : LaneWord) (s : State) : Out := execElem (elemCvt f) f s
/-- FDIV (07 R125). -/
def execFdiv (f : LaneWord) (s : State) : Out := execElem (elemFdiv f) f s
/-- VRAND (07 R134). -/
def execVrand (f : LaneWord) (s : State) : Out := execElem (elemVrand f) f s

end Sys2Proof.Machine
end

