-- ==== Sys2Proof/Machine/Transform.lean ====
section
/-! DEFINITION. Transform rings, request blocks, the transform operations and their completion records
(22 R301 to R305; 06 R108, R109, R111). -/

namespace Sys2Proof.Machine

/-! ### Kicks (22 R301, R302) -/

/-- A fault of an engine operation outside its units: a translation miss waits for firmware, any other ends it. -/
def opFault (s : State) (o : EngineOp) (f : AccFault) : State :=
  if f.code = 0x04 then (if o.faulted then s else modOp (postMiss s o f) o.id (fun o => { o with faulted := true }))
  else failOp s o.id (engineCode f) f.va

/-- The ring of a context. -/
def ringOf? (s : State) (ctx ring : Nat) : Option Ring := (ctxOf s ctx).rings.find? (fun r => r.number == ring)

/-- A ring changed. -/
def modRing (s : State) (ctx ring : Nat) (f : Ring → Ring) : State :=
  modCtx s ctx (fun c => { c with rings := c.rings.map (fun r => if r.number == ring then f r else r) })

/-- The die whose engines serve a ring: that of its header's home slice (22 R304). -/
def ringDie (s : State) (ctx ring : Nat) : Nat :=
  match (ringOf? s ctx ring).map (fun r => checkAccess s s.g.ctx s.g.core [0] .read 1 (BitVec.ofNat 64 r.header)) with
  | some (.ok a) => homeDie a.pa
  | _ => dieOf s.g.core

/-- The fields of a ring header. -/
structure RingHeader where
  base : W64
  priv : Bool
  log2 : Nat
  prod : W64
  cons : W64
  deriving DecidableEq, Repr

/-- A ring header read at its home slice (22 R301, R302). -/
def readHeader (s : State) (va : W64) : Except AccFault RingHeader :=
  (checkRange s s.g.ctx s.g.core [0] .write va 64).map (fun accs =>
    let bs := (accs.flatMap (fun a => bytesAt s s.g.ctx (homeDie a.pa) a (64 - a.pa % 64))).take 64
    { base := word64 (bs.take 8), priv := field bs 8 1 / 128 == 1, log2 := field bs 8 1 % 32
      prod := word64 ((bs.drop 16).take 8), cons := word64 ((bs.drop 24).take 8) })

/-- Whether software has stored to a field of a header that it must not write, now or before (22 R301). -/
def Ring.isStray (r : Ring) (h : RingHeader) : Bool :=
  r.stray || h.prod != r.prod || h.cons != r.cons || h.priv != r.priv

/-- The requests of a kick that received `first`. On a ring that software has strayed into, each takes the block of any of
the ring's slots. -/
def kickRequests (s : State) (o : EngineOp) (r : Ring) (n : Nat) (h : RingHeader) (first : W64) : List XRequest :=
  (List.range n).map (fun i =>
    let index := first + BitVec.ofNat 64 i
    let slot := index.toNat % 2 ^ h.log2
    let from_ := if r.isStray h then choose s (freeKey 20 i) (2 ^ h.log2) else slot
    { op := o.id, ctx := o.ctx, ring := r.number, index := index, slot := slot, addr := h.base + BitVec.ofNat 64 (64 * from_)
      priv := r.priv, units := 0, block := [], performed := false, posted := false, faulted := false, err := 0, outlen := 0 })

/-- The ring header's step of a kick (22 R302). -/
def kickRing (s : State) (o : EngineOp) (ring n : Nat) : State :=
  match ringOf? s o.ctx ring with
  | none => failOp s o.id 0x06 0
  | some r =>
    let va := BitVec.ofNat 64 r.header
    match (do
      let h ← readHeader s va
      if 2 ^ h.log2 < (h.prod - h.cons).toNat + n then pure (failOp s o.id 0x06 va)
      else do
        let s' ← writeGlobal s (va + 16) (bytes64 (h.prod + BitVec.ofNat 64 n))
        let s' := modRing s' o.ctx ring (fun r =>
          { r with prod := h.prod + BitVec.ofNat 64 n, cons := h.cons, stray := r.isStray h })
        pure { modOp s' o.id (fun o => { o with kind := .xkick ring h.prod.toNat n, done := 1, faulted := false }) with
          xreqs := s'.xreqs ++ kickRequests s o r n h h.prod } : Except AccFault State) with
    | .ok s' => noteBad s' o.id (badGlobal s false va 64)
    | .error f => opFault s o f

/-! ### Request blocks (22 R303) -/

/-- A request block's fields. -/
structure ReqBlock where
  op    : Nat
  set   : Bool
  cls   : Nat
  enc   : Nat
  clean : Bool         -- its reserved fields are zero
  aux   : Nat
  src   : W64
  dst   : W64
  len   : Nat
  cap   : Nat
  fut   : W64
  value : W64
  deriving DecidableEq, Repr

/-- A block of 64 bytes parsed. -/
def parseRequest (bs : List Byte) : ReqBlock :=
  let w := BitVec.ofNat 32 (field bs 0 4)
  let d (off : Nat) : W64 := BitVec.ofNat 64 (field bs off 8)
  { op := (w.extractLsb' 0 8).toNat, set := w.getLsbD 8, cls := (w.extractLsb' 16 4).toNat, enc := (w.extractLsb' 20 4).toNat
    clean := w.extractLsb' 9 7 == 0 && w.extractLsb' 24 8 == 0 && d 56 == 0
    aux := field bs 4 4, src := d 8, dst := d 16, len := (d 24).toNat, cap := (d 32).toNat, fut := d 40, value := d 48 }

/-- The bits of an element of a CVT type code (05 R80). -/
def cvtBits (code : Nat) : Nat := if code ≤ 2 then 32 else if code ≤ 4 then 16 else if code = 7 then 4 else 8

/-- Whether a block's parameters are those its operation takes (22 R303, R304). -/
def ReqBlock.ok (b : ReqBlock) : Bool :=
  b.clean && (b.set || (b.cls == 0 && b.enc == 0)) &&
  match b.op with
  | 1 => b.aux == 0 && !b.set
  | 2 => b.aux == 0 && !b.set
  | 3 => b.aux % 256 == 0 && !b.set
  | 4 => b.aux < 4096 && !b.set && cvtOk (b.aux % 256) (b.aux / 256)
  | 5 => b.aux == 0 && (!b.set || (b.cls < 4 && b.enc < 2 && b.dst.toNat % 64 == 0 && b.len % 64 == 0))
  | 6 => b.aux == 0 && (!b.set || (b.cls < 4 && b.enc < 2)) && b.dst.toNat % 65536 == 0 && b.len % 65536 == 0
  | 7 => b.aux == 0 && !b.set && 1 ≤ b.cap && b.cap ≤ 65536
  | _ => false

/-- The bytes a request reads at SRC. -/
def ReqBlock.srcBytes (b : ReqBlock) : Nat :=
  match b.op with
  | 3 => 4 * b.len * b.aux
  | 4 => (b.len * cvtBits (b.aux % 16) + 7) / 8
  | 5 => 0
  | 6 => 0
  | _ => b.len

/-- Whether a request names physical addresses (22 R304). -/
def ReqBlock.phys (b : ReqBlock) : Bool := b.op == 6 || (b.op == 5 && b.set)

/-! ### LZ4 blocks -/

/-- A length's further bytes. -/
def lz4More : List Byte → Nat → Option (Nat × List Byte)
  | [], _ => none
  | b :: bs, n => if b = 255 then lz4More bs (n + 255) else some (n + b.toNat, bs)

/-- A length from its four bits and the bytes that follow. -/
def lz4Length (n : Nat) (bs : List Byte) : Option (Nat × List Byte) := if n = 15 then lz4More bs 15 else some (n, bs)

/-- `n` bytes copied from `off` bytes back. -/
def lz4Match (off : Nat) : Nat → List Byte → List Byte
  | 0, out => out
  | n + 1, out => lz4Match off n (out ++ [out.getD (out.length - off) 0])

/-- A block decoded: the output, and whether every byte could be decoded. -/
def lz4Decode : Nat → List Byte → List Byte → List Byte × Bool
  | 0, _, out => (out, false)
  | _ + 1, [], out => (out, true)
  | n + 1, t :: bs, out =>
    match lz4Length (t.toNat / 16) bs with
    | none => (out, false)
    | some (k, bs) =>
      let out := out ++ bs.take k
      if bs.length < k then (out, false)
      else match bs.drop k with
        | [] => (out, true)
        | [_] => (out, false)
        | lo :: hi :: bs =>
          let off := lo.toNat + 256 * hi.toNat
          if off = 0 || out.length < off then (out, false)
          else match lz4Length (t.toNat % 16) bs with
            | none => (out, false)
            | some (m, bs) => lz4Decode n bs (lz4Match off (m + 4) out)

/-- The bytes of a length of literals past 14. -/
def lz4Extra (n : Nat) : List Byte :=
  if n < 15 then [] else List.replicate ((n - 15) / 255) 0xFF ++ [BitVec.ofNat 8 ((n - 15) % 255)]

/-- Bytes as one LZ4 block of literals. -/
def lz4Literals (bs : List Byte) : List Byte := BitVec.ofNat 8 (16 * min 15 bs.length) :: lz4Extra bs.length ++ bs

/-- The LZ4 block into which the G9 compresses bytes (22 R304): a function of them that the manual does not give, and one
that decodes to them. -/
def lz4Block (bs : List Byte) : List Byte :=
  let out := Config.lz4Compress bs
  if lz4Decode (out.length + 1) out [] = (bs, true) then out else lz4Literals bs

/-! ### REPACK and CONVERT -/

/-- Bytes as 32-bit words. -/
def words32 (bs : List Byte) : List W32 := (List.range (bs.length / 4)).map (fun i => word32 ((bs.drop (4 * i)).take 4))

/-- A matrix of R rows and K columns as the three FB4 arrays, with its flags (02 R39; 07 R131). -/
def repack (rows k : Nat) (bs : List Byte) : List Byte × BitVec 8 :=
  let ws := words32 bs
  let blocks := (List.range (rows * k / 8)).map (fun i => quantise ((ws.drop (8 * i)).take 8))
  (blocks.flatMap (fun b => bytes32 b.1) ++ blocks.map (fun b => b.2.1.setWidth 8) ++
    (List.replicate ((rows + 63) / 64 * (k / 256)) [(0x80 : Byte), 0x3F]).flatten,
    blocks.foldl (fun fl b => fl ||| b.2.2) 0)

/-- A rounding code of a CONVERT (05 R79). -/
def convertRm (code : Nat) : Rm := match code with | 2 => .rz | 3 => .ru | 4 => .rd | _ => .rn

/-- One element converted; FTZ never applies. -/
def convertOne (aux : Nat) (w : W32) : W32 × BitVec 8 :=
  let srcC := aux % 16
  let dstC := aux / 16 % 16
  let rm := convertRm (aux / 256 % 8)
  let sat := aux / 2048 % 2 == 1
  match cvtFmt srcC with
  | some t => cvtFloat srcC dstC rm sat false t w
  | none => cvtInt srcC dstC rm sat false w

/-- Element i of densely packed elements. -/
def packedAt (bits : Nat) (bs : List Byte) (i : Nat) : W32 :=
  if bits = 4 then BitVec.ofNat 32 ((bs.getD (i / 2) 0).toNat / 16 ^ (i % 2) % 16)
  else word32 ((bs.drop (bits / 8 * i)).take (bits / 8))

/-- Elements packed densely; `rest` fills the upper nibble of a last byte that holds one element. -/
def packElems (bits rest : Nat) : List W32 → List Byte
  | [] => []
  | [w] => if bits = 4 then [BitVec.ofNat 8 (w.toNat % 16 + 16 * rest)] else leBytes (bits / 8) w.toNat
  | w :: v :: ws =>
    if bits = 4 then BitVec.ofNat 8 (w.toNat % 16 + 16 * (v.toNat % 16)) :: packElems bits rest ws
    else leBytes (bits / 8) w.toNat ++ leBytes (bits / 8) v.toNat ++ packElems bits rest ws

/-- CONVERT's output with its flags. -/
def convertAll (aux n rest : Nat) (bs : List Byte) : List Byte × BitVec 8 :=
  let rs := (List.range n).map (fun i => convertOne aux (packedAt (cvtBits (aux % 16)) bs i))
  (packElems (cvtBits (aux / 16 % 16)) rest (rs.map (·.1)), rs.foldl (fun fl r => fl ||| r.2) 0)

/-! ### Running a request (22 R304, R305) -/

/-- What running a request gives: a wait for a translation, or its end with the bytes it wrote, its flags and the lowest bad
or lost word that it met. -/
inductive Ran where
  | miss (f : AccFault)
  | done (s : State) (err : BitVec 8) (outlen : Nat) (flags : BitVec 8) (bad : Option (Nat × Nat))

/-- Whether every line of a physical range holds memory. -/
def physRange (pa n : Nat) : Bool := n = 0 || (physOk pa && physOk (pa + n - 1) && isCxl pa == isCxl (pa + n - 1))

/-- The band entries of REPACK count whole in its output: the bytes before them, and pairs of bytes from there on. -/
def repackWhole (base n : Nat) : Nat := if n ≤ base then n else base + (n - base) / 2 * 2

/-- The part of `n` bytes of a request's output that whole output elements take. -/
def ReqBlock.whole (b : ReqBlock) (n : Nat) : Nat :=
  match b.op with
  | 3 => repackWhole (b.len * b.aux / 2 + b.len * b.aux / 8) n
  | 4 => let w := max 1 (cvtBits (b.aux / 16 % 16) / 8); n / w * w
  | _ => n

/-- Byte j of a FILL. -/
def fillByte (b : ReqBlock) (j : Nat) : Byte := b.value.extractLsb' (8 * (j % 8)) 8

/-- What an operation makes of its source: its output, its code and its flags (22 R304). -/
def opOutput (s : State) (b : ReqBlock) (bs : List Byte) : List Byte × BitVec 8 × BitVec 8 :=
  match b.op with
  | 1 => (lz4Block bs, 0, 0)
  | 2 =>
    let r := lz4Decode (bs.length + 1) bs []
    (r.1, if r.2 then 0 else 0x06, 0)
  | 3 =>
    let r := repack b.len b.aux bs
    (r.1, 0, r.2)
  | 4 =>
    let r := convertAll b.aux b.len (choose s 15 16) bs
    (r.1, 0, r.2)
  | 5 => ((List.range b.len).map (fillByte b), 0, 0)
  | _ => (shake256 bs b.cap, 0, 0)

/-- The bytes of an output that the capacity lets through. -/
def ReqBlock.fitted (b : ReqBlock) (out : List Byte) : List Byte := if out.length ≤ b.cap then out else out.take (b.whole b.cap)

/-- Output at DST within the capacity, but for the units written ahead; a cancellation lets no unit be written from unit
`limit` on. -/
def putOutput (s : State) (b : ReqBlock) (limit : Option Nat) (wrote : List (Nat × Nat)) (out : List Byte)
    (err flags : BitVec 8) (bad : Option (Nat × Nat)) : Ran :=
  let err := if out.length ≤ b.cap then err else 0x06
  let out := b.fitted out
  let units := unitsOf 0 out.length
  let ahead (k : Nat) : Bool := wrote.any (fun p => p.1 == k)
  let want (k : Nat) : Bool := match limit with | none => true | some n => decide (k < n)
  let w := writeUnits b.dst out (units.filter (fun k => want k && !ahead k)) ⟨s, (wrote.map (·.2)).sum, bad, none⟩
  match w.fault with
  | none => .done w.s (if units.all (fun k => want k || ahead k) then err else 0x01) (b.whole w.n) flags w.bad
  | some f => if f.code = 0x04 then .miss f else .done w.s (engineCode f) (b.whole w.n) flags w.bad

/-- The line records of a range rewritten, FULL cleared (17 R260; 22 R304). The stores on their way to these lines, whose
attributes were compared with the old records when they issued, are performed before. -/
def rewriteRecords (s : State) (pa n : Nat) (b : ReqBlock) : State :=
  let near (st : PendStore) : Bool :=
    st.words.any (fun w => w.lines.any (fun l => l.1 == 0 && pa / 64 ≤ l.2 && l.2 < pa / 64 + n / 64))
  let s := if s.stores.any near then ackWhere s near else s
  { s with records := (List.range (n / 64)).foldl (fun m i =>
      if isCxl (pa + 64 * i) then m
      else mapSet LineRecord.zero (pa / 64 + i) ⟨0, BitVec.ofNat 2 b.enc, BitVec.ofNat 2 b.cls⟩ m) s.records }

/-- The replica copies of a physical range dropped. -/
def dropCopies (s : State) (pa n : Nat) : State :=
  { s with
    copies := s.copies.filter (fun c => !(pa ≤ c.1 % 2 ^ 52 && c.1 % 2 ^ 52 < pa + n))
    props := s.props.filter (fun p => !rangesTouch p.pa p.data.length pa n) }

/-- A part of the range of a FLUSH: its cached copies dropped, its records rewritten under SETCLS. -/
def flushPart (s : State) (b : ReqBlock) (lo n : Nat) : State :=
  let s := dropCopies s (b.dst.toNat + lo) n
  if b.set then rewriteRecords s (b.dst.toNat + lo) n b else s

/-- A part of the range of a FILL by physical address: its records rewritten and its bytes written. -/
def fillPart (s : State) (b : ReqBlock) (lo n : Nat) : State :=
  performWrite (rewriteRecords s (b.dst.toNat + lo) n b) 0 (b.dst.toNat + lo)
    ((List.range n).map (fun j => fillByte b (lo + j))) false

/-- The bytes to which a cancellation after `limit` units brings a request that has performed `units` of `n` bytes. -/
def cutBytes (limit : Option Nat) (units n : Nat) : Nat :=
  match limit with
  | none => n
  | some k => min n (64 * max units k)

/-- FILL by physical address: the bytes of the pattern and the records of the range. `units` have been performed before. -/
def runFill (s : State) (b : ReqBlock) (units : Nat) (limit : Option Nat) : Ran :=
  if !physRange b.dst.toNat b.len then .done s 0x06 0 0 none else
  let fits := b.len ≤ b.cap
  let whole := if fits then b.len else b.cap / 64 * 64
  let n := cutBytes limit units whole
  .done (fillPart s b (64 * units) (n - 64 * units)) (if n < whole then 0x01 else if fits then 0 else 0x06) n 0 none

/-- FLUSH: cached copies written back and dropped, the records of the range rewritten under SETCLS. -/
def runFlush (s : State) (b : ReqBlock) (units : Nat) (limit : Option Nat) : Ran :=
  if !physRange b.dst.toNat b.len then .done s 0x06 0 0 none else
  let n := cutBytes limit units b.len
  .done (flushPart s b (64 * units) (n - 64 * units)) (if n < b.len then 0x01 else 0) 0 0 none

/-- A request with proper parameters performed at a die: its source is read, but for the units read ahead, and its output
written; an unreadable source ends it with nothing more written. A cancelled DIGEST writes nothing. -/
def runOp (s : State) (die : Nat) (b : ReqBlock) (x : XRequest) (limit : Option Nat) : Ran :=
  if b.op = 6 then runFlush s b x.units limit
  else if b.op = 5 && b.set then runFill s b x.units limit
  else
    let bad := sourceBad s b.src b.srcBytes x.read
    match readSource s die b.src b.srcBytes x.read with
    | .error f => if f.code = 0x04 then .miss f else .done s (engineCode f) (b.whole (x.wrote.map (·.2)).sum) 0 bad
    | .ok bs =>
      if b.op = 7 && limit.isSome then .done s 0x01 0 0 bad
      else
        let r := opOutput s b bs
        putOutput s b limit x.wrote r.1 r.2.1 r.2.2 bad

/-- Whether a request is the one of an operation and a number. -/
def XRequest.is (x : XRequest) (op index : Nat) : Bool := x.op == op && x.index.toNat == index

/-- The request of an operation and a number. -/
def reqOf? (s : State) (op index : Nat) : Option XRequest := s.xreqs.find? (fun x => x.is op index)

/-- A request changed. -/
def modReq (s : State) (x : XRequest) (f : XRequest → XRequest) : State :=
  { s with xreqs := s.xreqs.map (fun y => if y.op == x.op && y.index == x.index then f y else y) }

/-- A fault met by a request: a translation miss waits for firmware, any other ends it. -/
def reqFault (s : State) (o : EngineOp) (x : XRequest) (f : AccFault) : State :=
  if f.code = 0x04 then (if x.faulted then s else modReq (postMiss s o f) x (fun x => { x with faulted := true }))
  else modReq s x (fun x => { x with performed := true, err := engineCode f })

/-- The operation to which a request belongs. -/
def opOf? (s : State) (x : XRequest) : Option EngineOp := s.ops.find? (fun o => o.id == x.op)

/-- The block of a request read. -/
def readBlock (s : State) (x : XRequest) : State :=
  match opOf? s x with
  | none => s
  | some o => withFocus s o.gid (fun t =>
      match readOn t (ringDie t x.ctx x.ring) x.addr 64 with
      | .ok bs => noteBad (modReq t x (fun y => { y with block := bs })) o.id (badGlobal t false x.addr 64)
      | .error f => reqFault t o x f)

/-- The blocks of a ring read in order up to a request (22 R304): one whose block is not there yet keeps the later ones. -/
def readBlocks (s : State) (x : XRequest) : State :=
  let unread (s : State) (y : XRequest) : Bool := (reqOf? s y.op y.index.toNat).any (fun y => y.block.isEmpty && !y.performed)
  let upTo := s.xreqs.filter (fun y => y.ctx == x.ctx && y.ring == x.ring &&
    ((y.index - x.index).toNat = 0 || 2 ^ 63 ≤ (y.index - x.index).toNat))
  (upTo.foldl (fun (acc : State × Bool) y =>
    if acc.2 && unread acc.1 y then
      let t := readBlock acc.1 y
      (t, !unread t y)
    else acc) (s, true)).1

/-- A request run: `units` is how many units a cancelled request had written before its cancellation. -/
def runRequest (s : State) (o : EngineOp) (x : XRequest) (units : Nat) : State :=
  let b := parseRequest x.block
  let limit := if o.cancelled then some units else none
  let ran :=
    if o.cancelled && units = 0 && x.units = 0 then .done s 0x01 (b.whole (x.wrote.map (·.2)).sum) 0 none
    else if !b.ok then .done s 0x06 0 0 none
    else if b.phys && !x.priv then .done s 0x03 0 0 none
    else runOp s (ringDie s x.ctx x.ring) b x limit
  match ran with
  | .miss f => reqFault s o x f
  | .done s' err n fl bad =>
    let s' := modReq s' x (fun x =>
      { x with performed := true, faulted := false, err := err, outlen := n, read := [], wrote := [] })
    noteBad (modOp s' o.id (fun o => { o with flags := o.flags ||| fl })) o.id bad

/-- Whether the units of a request may be performed one by one ahead of its end. -/
def XRequest.running (x : XRequest) (o : EngineOp) : Bool :=
  let b := parseRequest x.block
  !x.performed && !o.cancelled && !x.block.isEmpty && b.ok && !b.phys

/-- A unit of a request's source read before the others: its reads and writes are unordered among themselves (13 R244). One
that would fault or that meets a bad word is left to the request's end. -/
def readPiece (s : State) (o : EngineOp) (x : XRequest) (k : Nat) : State :=
  let b := parseRequest x.block
  let at_ := b.src + BitVec.ofNat 64 (64 * k)
  let n := min 64 (b.srcBytes - 64 * k)
  if !x.running o || n = 0 || x.read.any (fun p => p.1 == k) || (badGlobal s false at_ n).isSome then s else
  match readOn s (ringDie s x.ctx x.ring) at_ n with
  | .ok bs => modReq s x (fun x => { x with read := x.read ++ [(k, bs)] })
  | .error _ => s

/-- The block of eight elements that byte j of a REPACK's output comes from. -/
def repackBlock (b : ReqBlock) (j : Nat) : Option Nat :=
  let data := b.len * b.aux / 2
  if j < data then some (j / 4) else if j < data + b.len * b.aux / 8 then some (j - data) else none

/-- The units of the source that unit `k` of a request's output rests on. -/
def ReqBlock.needs (b : ReqBlock) (k : Nat) : List Nat :=
  match b.op with
  | 3 => (((List.range 64).filterMap (fun j => repackBlock b (64 * k + j))).map (· / 2)).eraseDups
  | 4 =>
    let elem (byte : Nat) : Nat := min b.len (8 * byte / cvtBits (b.aux / 16 % 16))
    let bits := cvtBits (b.aux % 16)
    let lo := elem (64 * k) * bits / 8
    unitsOf lo ((elem (64 * k + 64) * bits + 7) / 8 - lo)
  | 5 => []
  | _ => unitsOf 0 b.srcBytes

/-- The leading units of a source that have been read. -/
def leadingUnits (held : List (Nat × List Byte)) (total : Nat) : Nat := ((unitsOf 0 total).takeWhile (fun k => allHeld held [k])).length

/-- A unit of a request's output as far as what has been read gives it: for LZ4D of the leading part of the block. -/
def outputPiece (s : State) (b : ReqBlock) (x : XRequest) (k : Nat) : List Byte :=
  let part (bs : List Byte) : List Byte := ((b.fitted (opOutput s b bs).1).drop (64 * k)).take 64
  if b.op = 7 then []
  else if allHeld x.read (b.needs k) then part (heldBytes x.read 0 b.srcBytes)
  else if b.op = 2 then
    let bs := part (heldBytes x.read 0 (min b.srcBytes (64 * leadingUnits x.read b.srcBytes)))
    if bs.length = 64 then bs else []
  else []

/-- A unit of a request's output written before the others, once what it rests on has been read. -/
def writePiece (s : State) (o : EngineOp) (x : XRequest) (k : Nat) : State :=
  let b := parseRequest x.block
  let bs := outputPiece s b x k
  let at_ := b.dst + BitVec.ofNat 64 (64 * k)
  if !x.running o || x.wrote.any (fun p => p.1 == k) || bs.isEmpty || (badGlobal s true at_ bs.length).isSome then s else
  match writeGlobal s at_ bs with
  | .ok s' => modReq s' x (fun x => { x with wrote := x.wrote ++ [(k, bs.length)] })
  | .error _ => s

/-- A unit of a request's source read, or of its output written, ahead of the request's end. -/
def requestPiece (s : State) (o : EngineOp) (index k : Nat) (write : Bool) : State :=
  match reqOf? s o.id index with
  | none => s
  | some x => if write then writePiece s o x k else readPiece s o x k

/-- The next line of a FLUSH, or of a FILL of line records, performed ahead of the request's end: an access during it finds
the lines that it has reached and those that it has not (17 R268). -/
def flushUnit (s : State) (o : EngineOp) (index : Nat) : State :=
  match reqOf? s o.id index with
  | none => s
  | some x =>
    let b := parseRequest x.block
    let room := if b.op = 5 then min b.len (b.cap / 64 * 64) else b.len
    if x.performed || o.cancelled || x.block.isEmpty || !b.ok || !b.phys || !x.priv || !physRange b.dst.toNat b.len ||
       room < 64 * x.units + 64 then s
    else
      let s' := if b.op = 5 then fillPart s b (64 * x.units) 64 else flushPart s b (64 * x.units) 64
      modReq s' x (fun x => { x with units := x.units + 1 })

/-- A transform operation's step on a request: the request named in `ev` (its kick's operation in `n`, its number in
`req`) is run if its block holds the operation code. -/
def transform (op : Nat) (s : State) : Out :=
  match s.ops.find? (fun o => o.id == s.ev.n), reqOf? s s.ev.n s.ev.req with
  | some o, some x =>
    .next (withFocus s o.gid (fun t =>
      let t := readBlocks t x
      match reqOf? t x.op x.index.toNat with
      | some y =>
        if y.performed || y.block.isEmpty || (parseRequest y.block).op != op then t
        else runRequest t o y s.ev.count.toNat
      | none => t))
  | _, _ => .next s

/-- LZ4C (22 R304). -/
def execLz4c (s : State) : Out := transform 1 s
/-- LZ4D (22 R304). -/
def execLz4d (s : State) : Out := transform 2 s
/-- REPACK (22 R304). -/
def execRepack (s : State) : Out := transform 3 s
/-- CONVERT (22 R304). -/
def execConvert (s : State) : Out := transform 4 s
/-- FILL (22 R304). -/
def execFill (s : State) : Out := transform 5 s
/-- FLUSH (22 R304). -/
def execFlush (s : State) : Out := transform 6 s
/-- DIGEST (22 R304). -/
def execDigest (s : State) : Out := transform 7 s

/-! ### Completion records (22 R305) -/

/-- The record of a request. -/
def completionRecord (x : XRequest) : W64 :=
  BitVec.ofNat 64 (x.outlen % 2 ^ 32 * 2 ^ 32 + x.slot % 65536 * 65536 + x.err.toNat * 256 + (parseRequest x.block).op)

/-- A value put into a future word by an engine: the release of its writes (13 R246), with the checks of FPUT. -/
def enginePut (s : State) (id : Nat) (va v : W64) : Except AccFault State :=
  (checkAccess s s.g.ctx s.g.core [3] .write 8 va).map (fun a =>
    let s := flushProps s (engineTag s)
    if a.peer then s else putWord s (engineTag s) (opKey id) a.pa v)

/-- A future word that an engine cannot put to, for its device is unreachable (22 R311). -/
def lostFuture (s : State) (va : W64) : Option (Nat × Nat) :=
  match checkAccess s s.g.ctx s.g.core [3] .write 8 va with
  | .ok a => if peerLost s a then some (va.toNat, a.pa) else none
  | .error _ => none

/-- CONS moved past every leading request that has posted, from the number it holds. -/
def leading (s : State) (ctx ring : Nat) : Nat → W64 → W64
  | 0, c => c
  | n + 1, c =>
    if s.xreqs.any (fun x => x.ctx == ctx && x.ring == ring && x.index == c && x.posted) then leading s ctx ring n (c + 1)
    else c

/-- Requests that no later step needs: posted, passed by CONS, their operation ended. -/
def pruneRequests (s : State) (ctx ring : Nat) (cons : W64) : State :=
  { s with xreqs := s.xreqs.filter (fun x =>
      !(x.ctx == ctx && x.ring == ring && x.posted && 2 ^ 63 ≤ (x.index - cons).toNat && !s.ops.any (fun o => o.id == x.op))) }

/-- CONS of a ring advanced, at the header's home slice. -/
def advanceCons (s : State) (ctx ring : Nat) : State :=
  match ringOf? s ctx ring with
  | none => s
  | some r =>
    let va := BitVec.ofNat 64 r.header
    match readHeader s va with
    | .error _ => s
    | .ok h =>
      let c := leading s ctx ring s.xreqs.length h.cons
      let s' := match writeGlobal s (va + 24) (bytes64 c) with | .ok t => t | .error _ => s
      pruneRequests (modRing s' ctx ring (fun r => { r with cons := c, prod := h.prod, stray := r.isStray h })) ctx ring c

/-- A request posted: its record goes to FUT by an FPUT, unless FUT is 0 or cannot take it. -/
def postRequest (s : State) (o : EngineOp) (x : XRequest) : State :=
  let fut := (parseRequest x.block).fut
  let posted (s : State) (err : BitVec 8) : State :=
    advanceCons (modReq s x (fun x => { x with posted := true, faulted := false, err := err })) x.ctx x.ring
  if x.block.isEmpty || fut = 0 then posted s x.err
  else match enginePut s o.id fut (completionRecord x) with
    | .ok s' => posted (noteBad s' o.id (lostFuture s fut)) x.err
    | .error f =>
      if f.code = 0x04 then (if x.faulted then s else modReq (postMiss s o f) x (fun x => { x with faulted := true }))
      else posted s (engineCode f)

/-- TRANSFORM_REQUEST_COMPLETE (22 R305): a request that has ended posts its record and CONS advances. A request whose
block names no operation, or whose block cannot be read, ends here. -/
def execTransformRequestComplete (s : State) : Out :=
  match s.ops.find? (fun o => o.id == s.ev.n), reqOf? s s.ev.n s.ev.req with
  | some o, some x =>
    .next (withFocus s o.gid (fun t =>
      let t := readBlocks t x
      match reqOf? t x.op x.index.toNat with
      | none => t
      | some y =>
        let op := (parseRequest y.block).op
        let t := if !y.performed && !y.block.isEmpty && (o.cancelled || op = 0 || 7 < op) then runRequest t o y 0 else t
        match reqOf? t x.op x.index.toNat with
        | some z => if z.performed && !z.posted then postRequest t o z else t
        | none => t))
  | _, _ => .next s

/-! ### The end of a kick (22 R302) -/

/-- A kick all of whose requests have posted ends, in error with the code of the first failed one in ring order. -/
def settleKick (s : State) (o : EngineOp) (first n : Nat) : State :=
  let mine := s.xreqs.filter (fun x => x.op == o.id)
  if o.done = 0 || o.finished || mine.any (fun x => !x.posted) then s
  else
    let bad := (List.range n).findSome? (fun i =>
      mine.find? (fun x => x.index == BitVec.ofNat 64 (first + i) && x.err != 0))
    modOp s o.id (fun o =>
      { o with finished := true, err := (bad.map (·.err)).getD 0, errAddr := (bad.map (·.addr)).getD 0 })

end Sys2Proof.Machine
end

