-- ==== Sys2Proof/Machine/Collective.lean ====
section
/-! DEFINITION. Collectives (22 R306, R307), the units of every engine operation, and completions (06 R106, R109;
13 R245; 02 R53). -/

namespace Sys2Proof.Machine

/-! ### Descriptors (22 R306) -/

/-- A collective descriptor's fields. -/
structure CollDesc where
  comm  : Nat
  redop : Nat
  type  : Nat
  kind  : Nat
  seq   : Nat
  src   : W64
  dst   : W64
  count : Nat
  root  : Nat
  deriving DecidableEq, Repr

/-- A descriptor of 64 bytes parsed. -/
def parseColl (bs : List Byte) : CollDesc :=
  let w := BitVec.ofNat 32 (field bs 0 4)
  { comm := (w.extractLsb' 24 4).toNat, redop := (w.extractLsb' 16 8).toNat, type := (w.extractLsb' 8 8).toNat
    kind := (w.extractLsb' 0 8).toNat, seq := field bs 4 4, src := BitVec.ofNat 64 (field bs 8 8)
    dst := BitVec.ofNat 64 (field bs 16 8), count := field bs 24 8, root := field bs 32 2 }

/-- A descriptor without the fields in which participants may differ. -/
def CollDesc.shared (d : CollDesc) : CollDesc := { d with src := 0, dst := 0 }

/-- Whether a descriptor's fields are in range for a communicator of `p` ranks. REDOP is ignored where nothing is
reduced; ROOT counts for BROADCAST alone; reserved fields are ignored (00 R5). -/
def CollDesc.ok (d : CollDesc) (p : Nat) : Bool :=
  d.kind < 4 && d.type < 4 && (2 ≤ d.kind || d.redop < 3) && 1 ≤ d.count && d.count ≤ 2 ^ 32 &&
  (d.kind != 3 || d.root < p)

/-- The bytes of an element. -/
def CollDesc.size (d : CollDesc) : Nat := if d.type = 3 then 2 else 4

/-- The bytes of a participant's contribution among `p` ranks. -/
def CollDesc.input (d : CollDesc) (p : Nat) : Nat := d.size * d.count * (if d.kind = 1 then p else 1)

/-! ### Reductions (22 R307) -/

/-- Two elements combined: floating-point elements are in FP32. -/
def collCombine (type redop : Nat) (a b : W32) : W32 × BitVec 8 :=
  if 2 ≤ type then
    match redop with
    | 0 => f32Add .rn false a b
    | 1 => f32MinMax false false a b
    | _ => f32MinMax true false a b
  else
    (match redop with
      | 0 => a + b
      | 1 => if type = 0 then (if b.slt a then b else a) else (if b.ult a then b else a)
      | _ => if type = 0 then (if a.slt b then b else a) else (if a.ult b then b else a), 0)

/-- Contributions combined in ascending rank. -/
def collInOrder (type redop : Nat) : List W32 → W32 × BitVec 8
  | [] => (0, 0)
  | c :: cs => cs.foldl (fun acc x => let r := collCombine type redop acc.1 x; (r.1, acc.2 ||| r.2)) (c, 0)

/-- Contributions combined in a free bracketing and order: two free ones of the list at each node. -/
def collFree (s : State) (type redop key : Nat) : Nat → List W32 → BitVec 8 → W32 × BitVec 8
  | 0, cs, fl => (cs.headD 0, fl)
  | n + 1, cs, fl =>
    if cs.length ≤ 1 then (cs.headD 0, fl)
    else
      let i := choose s (freeKey 4 (key + 2 * n)) cs.length
      let rest := dropAt i cs
      let j := choose s (freeKey 4 (key + 2 * n + 1)) rest.length
      let r := collCombine type redop (cs.getD i 0) (rest.getD j 0)
      collFree s type redop key n (r.1 :: dropAt j rest) (fl ||| r.2)

/-- An element as it is combined: BF16 widened to FP32. -/
def collWiden (type : Nat) (bs : List Byte) : W32 := if type = 3 then word32 bs <<< 16 else word32 bs

/-- A combined element as it is delivered: BF16 rounded once more. -/
def collNarrow (type : Nat) (x : W32 × BitVec 8) : List Byte × BitVec 8 :=
  if type = 3 then
    let r := bf16.encode .rn false (fp32.decode x.1.toNat)
    (leBytes 2 r.1, x.2 ||| r.2)
  else (bytes32 x.1, x.2)

/-- Element i of the reduction of contributions, in rank order. -/
def collElement (s : State) (d : CollDesc) (data : List (List Byte)) (i : Nat) : List Byte × BitVec 8 :=
  let cs := data.map (fun bs => collWiden d.type ((bs.drop (d.size * i)).take d.size))
  collNarrow d.type
    (if (ctxOf s s.g.ctx).det || d.type < 2 || d.redop != 0 then collInOrder d.type d.redop cs
     else collFree s d.type d.redop (1024 * i) cs.length cs 0)

/-- The reduction of elements `lo` to `lo + n − 1`. -/
def collReduce (s : State) (d : CollDesc) (data : List (List Byte)) (lo n : Nat) : List Byte × BitVec 8 :=
  let rs := (List.range n).map (fun i => collElement s d data (lo + i))
  (rs.flatMap (·.1), rs.foldl (fun fl r => fl ||| r.2) 0)

/-- The bytes of this device's contribution, first and count, that bytes `64 k` to `64 k + 63` of its result rest on. -/
def CollDesc.needs (d : CollDesc) (r k : Nat) : Nat × Nat :=
  let part := d.size * d.count
  match d.kind with
  | 0 => (64 * k, 64)
  | 1 => (r * part + 64 * k, 64)
  | 2 =>
    let lo := max (64 * k) (r * part)
    (lo - r * part, min (64 * k + 64) ((r + 1) * part) - lo)
  | _ => if d.root = r then (64 * k, 64) else (0, 0)

/-- The bytes of a result. -/
def CollDesc.output (d : CollDesc) (p : Nat) : Nat := d.size * d.count * (if d.kind = 2 then p else 1)

/-- What this device receives as rank `r`. -/
def collResult (s : State) (d : CollDesc) (r : Nat) (data : List (List Byte)) : List Byte × BitVec 8 :=
  match d.kind with
  | 0 => collReduce s d data 0 d.count
  | 1 => collReduce s d data (r * d.count) d.count
  | 2 => (data.flatten, 0)
  | _ => (data.getD d.root [], 0)

/-! ### Instances -/

/-- The devices of a communicator in rank order. -/
def commOf (s : State) (c : Nat) : List Nat := ((s.comms.find? (fun x => x.1 == c)).map (·.2)).getD []

/-- The contributions in rank order, once every other participant's has arrived. -/
def collData (parts : List Participant) (rank p : Nat) (mine : List Byte) : Option (List (List Byte)) :=
  (List.range p).mapM (fun r => if r = rank then some mine else (parts.find? (fun x => x.rank == r)).map (·.data))

/-- An operation ended in success with flags. -/
def endColl (s : State) (o : EngineOp) (fl : BitVec 8) : State :=
  modOp s o.id (fun o => { o with finished := true, faulted := false, flags := o.flags ||| fl })

/-- What a collective operation of the group in focus finds when it is performed: a wait for the others, its failure, or its
descriptor, its rank and the number of ranks. -/
inductive CollStep where
  | wait
  | fail (err : BitVec 8)
  | fault (f : AccFault)
  | go (d : CollDesc) (rank p : Nat)

/-- A collective's descriptor: as it was read with its first unit, or as it stands. -/
def collBlock (s : State) (o : EngineOp) (desc : W64) : Except AccFault (List Byte) :=
  if o.block.isEmpty then readGlobal s desc 64 else .ok o.block

/-- A collective operation with the other participants' descriptors and contributions. -/
def collStep (s : State) (kind : Nat) (block : Except AccFault (List Byte)) (parts : List Participant) : CollStep :=
  match block with
  | .error f => .fault f
  | .ok bs =>
    let d := parseColl bs
    if d.kind != kind && !(3 < d.kind && kind = 0) then .wait
    else
      let devices := commOf s d.comm
      let p := devices.length
      match findIdx? (fun x => x == s.device.toNat) devices 0 with
      | none => .fail 0x06
      | some (rank, _) =>
        if devices.any (fun x => s.unreach.contains x) then .fail 0x02
        else if !d.ok p then .fail 0x06
        else if (upto p (fun r => r != rank)).any (fun r => !parts.any (fun x => x.rank == r)) then .wait
        else if parts.any (fun x => x.rank < p && x.rank != rank && (parseColl x.desc).shared != d.shared) then .fail 0x06
        else .go d rank p

/-- The result of an instance from this device's contribution. Each element is computed once: its free bracketing is one of
the operation (22 R307). -/
def collOutput (s : State) (o : EngineOp) (d : CollDesc) (rank p : Nat) (parts : List Participant) (mine : List Byte) :
    Option (List Byte × BitVec 8) :=
  (collData parts rank p mine).map (collResult { s with frees := o.seed } d rank)

/-- The other participants of an operation: those with which it wrote its first unit. -/
def collParts (o : EngineOp) (parts : List Participant) : List Participant := if o.ahead.isEmpty then parts else o.parts

/-- A collective operation performed: what is left of its contribution is read, what is left of its result written, and it
ends. -/
def runColl (s : State) (o : EngineOp) (kind : Nat) (desc : W64) (parts : List Participant) : State :=
  let parts := collParts o parts
  let lost := if o.block.isEmpty then badGlobal s false desc 64 else none
  match collStep s kind (collBlock s o desc) parts with
  | .wait => s
  | .fail err => noteBad (failOp s o.id err desc) o.id lost
  | .fault f => opFault s o f
  | .go d rank p =>
    match readSource s (dieOf s.g.core) d.src (d.input p) o.held with
    | .error f => opFault s o f
    | .ok mine =>
      match collOutput s o d rank p parts mine with
      | none => s
      | some out =>
        let w := writeUnits d.dst out.1 ((unitsOf 0 out.1.length).filter (fun k => !o.ahead.contains k))
          ⟨s, 0, lowerBad lost (sourceBad s d.src (d.input p) o.held), none⟩
        match w.fault with
        | none => noteBad (endColl w.s o out.2) o.id w.bad
        | some f => opFault (if f.code = 0x04 then s else w.s) o f

/-- Whether a unit of a collective may be performed ahead of the operation's end. -/
def collOpen (s : State) (o : EngineOp) (desc : W64) : Bool :=
  !o.finished && !o.cancelled && (!o.block.isEmpty || (badGlobal s false desc 64).isNone)

/-- One unit of a collective's contribution read before the others (13 R244), whether or not the other participants have
arrived; the descriptor stays as it was read with it. A unit that cannot be read is left to the operation's end. -/
def collRead (s : State) (o : EngineOp) (desc : W64) (k : Nat) : State :=
  match collBlock s o desc with
  | .error _ => s
  | .ok bs =>
    let d := parseColl bs
    let p := (commOf s d.comm).length
    let at_ := d.src + BitVec.ofNat 64 (64 * k)
    let n := min 64 (d.input p - 64 * k)
    if !collOpen s o desc || !d.ok p || n = 0 || allHeld o.held [k] || (badGlobal s false at_ n).isSome then s else
    match readGlobal s at_ n with
    | .ok bytes => modOp s o.id (fun o => { o with held := o.held ++ [(k, bytes)], block := bs })
    | .error _ => s

/-- One unit of a collective's result written before the others (13 R244), once the part of this device's contribution that
it rests on has been read. A unit that cannot be written is left to the operation's end. -/
def collUnit (s : State) (o : EngineOp) (desc : W64) (k : Nat) (parts : List Participant) : State :=
  match collBlock s o desc with
  | .error _ => s
  | .ok bs =>
    match collStep s (parseColl bs).kind (.ok bs) (collParts o parts) with
    | .go d rank p =>
      let at_ := d.dst + BitVec.ofNat 64 (64 * k)
      let n := min 64 (d.output p - 64 * k)
      let need := d.needs rank k
      if !collOpen s o desc || n = 0 || o.ahead.contains k || (badGlobal s true at_ n).isSome ||
         !allHeld o.held (unitsOf need.1 (min need.2 (d.input p - need.1))) then s else
      match collOutput s o d rank p (collParts o parts) (heldBytes o.held 0 (d.input p)) with
      | none => s
      | some out =>
        match writeGlobal s at_ ((out.1.drop (64 * k)).take 64) with
        | .ok s' => modOp s' o.id (fun o =>
            { o with ahead := k :: o.ahead, parts := collParts o parts, block := bs })
        | .error _ => s
    | _ => s

/-- A collective's step: the operation named in `ev.n` is performed with the participants of `ev.parts`. -/
def collective (kind : Nat) (s : State) : Out :=
  match s.ops.find? (fun o => o.id == s.ev.n) with
  | none => .next s
  | some o =>
    match o.kind with
    | .coll desc => if o.finished || o.cancelled then .next s
        else .next (withFocus s o.gid (fun t => runColl t o kind desc s.ev.parts))
    | _ => .next s

/-- ALLREDUCE (22 R306, R307). -/
def execAllreduce (s : State) : Out := collective 0 s
/-- REDUCESCATTER (22 R306, R307). -/
def execReducescatter (s : State) : Out := collective 1 s
/-- ALLGATHER (22 R306). -/
def execAllgather (s : State) : Out := collective 2 s
/-- BROADCAST (22 R306). -/
def execBroadcast (s : State) : Out := collective 3 s

/-! ### Units and completions of every operation -/

/-- The next unit of an operation of the group in focus: a copy or gather unit, a kick's step on its ring header, the
reading of a kick's next request block, a cancelled collective's end. -/
def opUnit (s : State) (o : EngineOp) : State :=
  match o.kind with
  | .xkick ring first n =>
    if o.finished then s
    else if o.done = 0 then kickRing s o ring n
    else
      match s.xreqs.find? (fun x => x.op == o.id && x.block.isEmpty && !x.performed) with
      | some x => readBlocks s x
      | none => settleKick s o first n
  | .coll _ => if o.cancelled && !o.finished then failOp s o.id 0x01 0 else s
  | _ => engineUnit s o

/-- Units of an operation performed until it ends or waits, at most `n`. -/
def opUnits (s : State) (id : Nat) : Nat → State
  | 0 => s
  | n + 1 =>
    match s.ops.find? (fun o => o.id == id) with
    | none => s
    | some o =>
      if o.finished then s
      else
        let s' := opUnit s o
        match s'.ops.find? (fun o => o.id == id) with
        | some o' => if o' = o || o'.faulted then s' else opUnits s' id n
        | none => s'

/-- A unit of an operation performed out of its turn: of a copy, of a kick's request that goes line by line, of a
collective's contribution, which is read, or of its result, which is written. -/
def earlyOp (s : State) (o : EngineOp) (n : Nat) (write : Bool) (parts : List Participant) : State :=
  match o.kind with
  | .cpy .. => earlyUnit s o n write
  | .cpyb .. => earlyUnit s o n write
  | .xkick .. => flushUnit s o n
  | .coll desc => if write then collUnit s o desc n parts else collRead s o desc n
  | _ => s

/-- The log record of an operation that met bad or lost words: it names the lowest (02 R50, R52). -/
def logOp (s : State) (o : EngineOp) : State :=
  match o.bad with
  | some p => { s with log := s.log ++ [⟨o.ctx, o.iaddr, false, .mem p.2, 0, 0, false⟩] }
  | none => s

/-- An operation that has ended completes: its writes reach every replica, its counter falls, its handle or latch is
set, its flags count as one event each. -/
def completeOp (s : State) (o : EngineOp) : State :=
  let s := flushProps (logOp { s with ops := s.ops.filter (fun p => p.id != o.id) } o) (engineTag s)
  engineFlags { s with g := completeInGroup o s.g } o

/-- ENGINE_COMPLETION (06 R106): the operation's last unit is performed, if it is left and its turn has come, and the operation
completes, if it is the oldest of its class in its group; transform operations end with their last request, collectives with their instance. -/
def execEngineCompletion (s : State) : Out :=
  match s.ops.find? (fun o => o.id == s.ev.n) with
  | none => .next s
  | some o =>
    if !oldestOp s o then .next s else
    .next (withFocus s o.gid (fun s =>
      let s := if opSize o ≤ o.done + 1 && unitTurn s o o.done then noteServed o (opUnits s o.id 2) else s
      match s.ops.find? (fun p => p.id == o.id) with
      | none => s
      | some o =>
        let s := match o.kind with | .xkick _ first n => settleKick s o first n | _ => s
        match s.ops.find? (fun p => p.id == o.id) with
        | some o => if o.finished then completeOp s o else s
        | none => s))

end Sys2Proof.Machine
end

