-- ==== Sys2Proof/Machine/LaneCross.lean ====
section
/-! DEFINITION. Cross-lane and mask-register instructions (07 R121, R136 to R141; 02 R48). -/

namespace Sys2Proof.Machine

/-! ### Exchange (07 R136) -/

/-- The lanes of a tile of width `w` that holds lane `i`. -/
def tileLanes (w i : Nat) : List Nat := (List.range w).map (fun j => i / w * w + j)

/-- The active lanes of the tile of lane `i`, rising. -/
def tileActive (act : W32) (w i : Nat) : List Nat := (tileLanes w i).filter (fun j => act.getLsbD j)

/-- An exchange: each active lane i writes the value of a in lane `from_ w act i b`. The result takes the tag of a. -/
def exchange (from_ : Nat → W32 → Nat → Nat → Nat) (useB : Bool) (f : LaneWord) (s : State) : Out :=
  let reads := src 0 f.a .any :: (if useB then [src 1 f.b .any] else [])
  laneIssue f.form.length f.pred reads [dst f.d 1] s (fun act s =>
    let w := callTilew s.g
    let rs := (lanesOf act).map (fun i => (i, from_ w act i (readOpnd s f.b.toNat i).toNat))
    let vals := rs.map (fun p => (p.1, readAcross s f.a.toNat p.2))
    let n := notePoison s ((rs.map (·.2)).filter (fun l => !act.getLsbD l)) [src 0 f.a .any]
    .ok ({ n.1 with g := writeOpnd n.1.g f.d.toNat vals (fun p => pathTag s.g p f.a.toNat) }, n.2))

/-- VSHFL: lane base + (b mod w). -/
def execVshfl (f : LaneWord) (s : State) : Out := exchange (fun w _ i b => i / w * w + b % w) true f s
/-- VSHUP: b[4:0] lanes below within the tile, otherwise the lane itself. -/
def execVshup (f : LaneWord) (s : State) : Out :=
  exchange (fun w _ i b => if b % 32 ≤ i % w then i - b % 32 else i) true f s
/-- VSHDN: b[4:0] lanes above within the tile, otherwise the lane itself. -/
def execVshdn (f : LaneWord) (s : State) : Out :=
  exchange (fun w _ i b => if i % w + b % 32 < w then i + b % 32 else i) true f s
/-- VSHX: tile index XOR (b mod w). -/
def execVshx (f : LaneWord) (s : State) : Out := exchange (fun w _ i b => i / w * w + (i % w ^^^ b % w)) true f s
/-- VBCAST: the lowest active lane of the tile. -/
def execVbcast (f : LaneWord) (s : State) : Out :=
  exchange (fun w act i _ => (tileActive act w i).headD i) false f s
/-- VEXT: lane b[4:0], whatever TILEW is. -/
def execVext (f : LaneWord) (s : State) : Out := exchange (fun _ _ _ b => b % 32) true f s

/-- The elements that VINS writes: for each target lane the value of the highest active lane that names it. -/
def insertVals (rs : List (Nat × Nat × W32)) : List (Nat × W32) :=
  (List.range 32).filterMap (fun t => ((rs.filter (fun p => p.2.1 == t)).getLast?).map (fun p => (t, p.2.2)))

/-- What elements in lanes of another split held before a VINS: its reads may still find them (07 R121). -/
def insertStale (s : State) (d : Nat) (vals : List (Nat × W32)) : List Marked :=
  let mine := (curSplit s).mask
  let others := callLanes s.g &&& ~~~mine
  let held (k : Nat) : List Marked := match s.g.call with
    | some c => c.stale.filter (fun q => q.key == k)
    | none => []
  (vals.filter (fun p => others.getLsbD p.1)).flatMap (fun p =>
    ⟨d * 32 + p.1, readV s.g d p.1, mine⟩ :: held (d * 32 + p.1))

/-- VINS (07 R136): lanes that no active lane targets keep d. -/
def execVins (f : LaneWord) (s : State) : Out :=
  laneIssue f.form.length f.pred [src 0 f.a .any, src 1 f.b .any] [dst f.d 1] s (fun act s =>
    let rs := (lanesOf act).map (fun i => (i, (readOpnd s f.b.toNat i).toNat % 32, readOpnd s f.a.toNat i))
    let d := f.d.toNat
    let tag := pathTag s.g 0 f.a.toNat
    if isV d then
      let vals := insertVals rs
      let old := insertStale s d vals
      let g := writeReg s.g d tag vals
      .ok ({ s with g := { g with call := g.call.map (fun c => { c with stale := c.stale ++ old }) } }, 0)
    else .ok ({ s with g := writeKey s.g d tag (rs.map (fun p => (p.1, p.2.2))) }, 0))

/-! ### Votes and matches (07 R137, R138) -/

/-- A result computed for each active lane from the active lanes of its tile, with their values of a. -/
def tileOp (acc : Accept) (tag : Nat → BitVec 4) (f : LaneWord) (s : State)
    (v : Nat → List (Nat × W32) → W32) : Out :=
  laneIssue f.form.length f.pred [src 0 f.a acc] [dst f.d 1] s (fun act s =>
    let w := callTilew s.g
    let vals := (lanesOf act).map (fun i =>
      (i, v i ((tileActive act w i).map (fun j => (j, readOpnd s f.a.toNat j)))))
    .ok ({ s with g := writeOpnd s.g f.d.toNat vals tag }, 0))

/-- VVOTE: 0 any, 1 all, 2 ballot, 3 uni (05 R78). -/
def execVvote (f : LaneWord) (s : State) : Out :=
  tileOp .any (fun _ => 2) f s (fun _ xs =>
    let bit (b : Bool) : W32 := if b then 1 else 0
    match f.mod.toNat with
    | 0 => bit (xs.any (fun p => p.2 != 0))
    | 1 => bit (xs.all (fun p => p.2 != 0))
    | 2 => maskOf ((xs.filter (fun p => p.2 != 0)).map (·.1))
    | _ => bit (xs.all (fun p => p.2 == (xs.headD (0, 0)).2)))

/-- VMATCH: the active lanes of the tile whose a equals this lane's. -/
def execVmatch (f : LaneWord) (s : State) : Out :=
  tileOp .any (fun _ => 2) f s (fun i xs =>
    let mine := ((xs.find? (fun p => p.1 == i)).map (·.2)).getD 0
    maskOf ((xs.filter (fun p => p.2 == mine)).map (·.1)))

/-! ### Reductions and prefixes (02 R48; 07 R139) -/

/-- A node of the tree or prefix: an absent input passes the other through. -/
def node (op : W32 → W32 → W32 × BitVec 8) (x y : Option W32) : Option W32 × BitVec 8 :=
  match x, y with
  | some a, some b => let r := op a b; (some r.1, r.2)
  | some a, none => (some a, 0)
  | none, y => (y, 0)

/-- One level of the tree: neighbours combined. -/
def treeLevel (op : W32 → W32 → W32 × BitVec 8) : List (Option W32) → List (Option W32) × BitVec 8
  | x :: y :: rest =>
    let n := node op x y
    let r := treeLevel op rest
    (n.1 :: r.1, n.2 ||| r.2)
  | xs => (xs, 0)

/-- The root of the tree over at most 2^n inputs. -/
def treeRoot (op : W32 → W32 → W32 × BitVec 8) : Nat → List (Option W32) → Option W32 × BitVec 8
  | 0, xs => (xs.headD none, 0)
  | n + 1, xs =>
    if xs.length ≤ 1 then (xs.headD none, 0)
    else
      let l := treeLevel op xs
      let r := treeRoot op n l.1
      (r.1, l.2 ||| r.2)

/-- One step of the prefix: each position i ≥ k combines the value k below with its own. -/
def scanStep (op : W32 → W32 → W32 × BitVec 8) (k : Nat) (xs : List (Option W32)) : List (Option W32) × BitVec 8 :=
  let rs := (List.range xs.length).map (fun i =>
    if k ≤ i then node op (xs.getD (i - k) none) (xs.getD i none) else (xs.getD i none, 0))
  (rs.map (·.1), rs.foldl (fun fl r => fl ||| r.2) 0)

/-- The inclusive prefix by steps of 1, 2, 4, 8 and 16. -/
def scanAll (op : W32 → W32 → W32 × BitVec 8) : Nat → Nat → List (Option W32) → List (Option W32) × BitVec 8
  | 0, _, xs => (xs, 0)
  | n + 1, k, xs =>
    if xs.length ≤ k then (xs, 0)
    else
      let s := scanStep op k xs
      let r := scanAll op n (2 * k) s.1
      (r.1, s.2 ||| r.2)

/-- The operation of a reduction code (05 R78; 07 R139). -/
def reduceOp (f : LaneWord) (env : LaneEnv) : W32 → W32 → W32 × BitVec 8 :=
  let ftz := ftzOf env.fmode
  match (f.mod.extractLsb' 0 4).toNat with
  | 0 => fun a b => (a + b, 0)
  | 1 => fun a b => f32Add (Rm.ofCode (f.imm.extractLsb' 0 3).toNat (rmOf env.fmode)) ftz a b
  | 2 => fun a b => (if b.slt a then b else a, 0)
  | 3 => fun a b => (if a.slt b then b else a, 0)
  | 4 => fun a b => (if b.ult a then b else a, 0)
  | 5 => fun a b => (if a.ult b then b else a, 0)
  | 6 => f32MinMax false ftz
  | 7 => f32MinMax true ftz
  | 8 => fun a b => (a &&& b, 0)
  | 9 => fun a b => (a ||| b, 0)
  | _ => fun a b => (a ^^^ b, 0)

/-- The identity of a reduction code (02 R48). -/
def reduceId (code : Nat) : W32 :=
  match code with
  | 2 => 0x7FFFFFFF
  | 3 => 0x80000000
  | 4 => 0xFFFFFFFF
  | 6 => 0x7F800000
  | 7 => 0xFF800000
  | 8 => 0xFFFFFFFF
  | _ => 0

/-- The tags a reduction accepts. -/
def reduceAccept (code : Nat) : Accept :=
  if code = 1 || code = 6 || code = 7 then acceptF32 else if 8 ≤ code then .any else acceptInt

/-- The tag a reduction gives, from the tag of a. -/
def reduceTag (code : Nat) (a : BitVec 4) : BitVec 4 :=
  if code = 1 || code = 6 || code = 7 then 3 else if 8 ≤ code then a else if code = 4 || code = 5 then 2 else 1

/-- The tiles of a split that hold an active lane, by their base lanes. -/
def activeTiles (act : W32) (w : Nat) : List Nat :=
  ((lanesOf act).map (fun i => i / w * w)).eraseDups

/-- The inputs of a tile: absent for a lane that is not active. -/
def tileInputs (s : State) (code : Nat) (act : W32) (w base : Nat) : List (Option W32) :=
  (tileLanes w base).map (fun j => if act.getLsbD j then some (readOpnd s code j) else none)

/-- VRED: the root to every active lane of the tile. -/
def execVred (f : LaneWord) (s : State) : Out :=
  let code := (f.mod.extractLsb' 0 4).toNat
  laneIssue f.form.length f.pred [src 0 f.a (reduceAccept code)] [dst f.d 1] s (fun act s =>
    let w := callTilew s.g
    let op := reduceOp f (laneEnv s.g)
    let roots := (activeTiles act w).map (fun b => (b, treeRoot op 5 (tileInputs s f.a.toNat act w b)))
    let vals := roots.flatMap (fun p => (tileActive act w p.1).map (fun i => (i, p.2.1.getD 0)))
    .ok ({ s with g := writeOpnd s.g f.d.toNat vals (fun p => reduceTag code (pathTag s.g p f.a.toNat)) },
      roots.foldl (fun fl p => fl ||| p.2.2) 0))

/-- VSCAN: each active lane's prefix; `.excl` takes the position below, or the identity. -/
def execVscan (f : LaneWord) (s : State) : Out :=
  let code := (f.mod.extractLsb' 0 4).toNat
  let excl := f.mod.getLsbD 4
  laneIssue f.form.length f.pred [src 0 f.a (reduceAccept code)] [dst f.d 1] s (fun act s =>
    let w := callTilew s.g
    let op := reduceOp f (laneEnv s.g)
    let scans := (activeTiles act w).map (fun b => (b, scanAll op 5 1 (tileInputs s f.a.toNat act w b)))
    let vals := scans.flatMap (fun p => (tileActive act w p.1).map (fun i =>
      let t := i - p.1
      (i, if excl then (if t = 0 then none else p.2.1.getD (t - 1) none).getD (reduceId code)
          else (p.2.1.getD t none).getD 0)))
    .ok ({ s with g := writeOpnd s.g f.d.toNat vals (fun p => reduceTag code (pathTag s.g p f.a.toNat)) },
      scans.foldl (fun fl p => fl ||| p.2.2) 0))

/-! ### Sampling (07 R140) -/

/-- A weight: a NaN or a value below zero counts as +0 with NV, −0 counts as +0. -/
def sampleWeight (w : W32) : W32 × BitVec 8 :=
  match fp32.decode w.toNat with
  | .nan => (0, flagNV)
  | .inf neg => if neg then (0, flagNV) else (w, 0)
  | .fin neg m _ => if m = 0 then (0, 0) else if neg then (0, flagNV) else (w, 0)

/-- Whether p × 2^32 is above u × total, exactly; an infinite prefix sum is above every product of a finite total. -/
def sampleAbove (p total : W32) (u : Nat) : Bool :=
  match fp32.decode p.toNat, fp32.decode total.toNat with
  | .fin n m e, .fin k q d => (XVal.fin k (u * q) d).lt (.fin n m (e + 32))
  | .inf neg, .fin _ _ _ => !neg
  | _, _ => false

/-- The chosen lane of a tile, by its active lanes with their prefix sums. -/
def sampleChoice (ps : List (Nat × W32)) (u : Nat) : Option Nat :=
  let total := (ps.getLastD (0, 0)).2
  if total = 0 then none
  else if total = 0x7F800000 then (ps.find? (fun p => p.2 == 0x7F800000)).map (·.1)
  else (ps.find? (fun p => sampleAbove p.2 total u)).map (·.1)

/-- VSAMPLE. -/
def execVsample (f : LaneWord) (s : State) : Out :=
  laneIssue f.form.length f.pred [src 0 f.a acceptF32, src 1 f.b .any] [dst f.d 1] s (fun act s =>
    let w := callTilew s.g
    let tiles := (activeTiles act w).map (fun b =>
      let ws := (tileInputs s f.a.toNat act w b).map (fun x => x.map sampleWeight)
      let scan := scanAll (f32Add .rn false) 5 1 (ws.map (fun x => x.map (·.1)))
      let lanes := tileActive act w b
      let ps := lanes.map (fun i => (i, (scan.1.getD (i - b) none).getD 0))
      let u := (readOpnd s f.b.toNat (lanes.headD 0)).toNat
      (lanes, sampleChoice ps u, ws.foldl (fun fl x => fl ||| (x.map (·.2)).getD 0) scan.2))
    let vals := tiles.flatMap (fun t => t.1.map (fun i => (i, if t.2.1 = some i then (0x3F800000 : W32) else 0)))
    .ok ({ s with g := writeOpnd s.g f.d.toNat vals (fun _ => 3) }, tiles.foldl (fun fl t => fl ||| t.2.2) 0))

/-! ### Mask registers (07 R141) -/

/-- A mask-register operation on all 32 bits. -/
def maskOp (v : Group → W32) (f : LaneWord) (s : State) : Out :=
  laneIssue f.form.length 0 [] [] s (fun _ s => .ok ({ s with g := writeK s.g f.d.toNat (v s.g) }, 0))

/-- KAND (07 R141). -/
def execKand (f : LaneWord) (s : State) : Out := maskOp (fun g => readK g f.a.toNat &&& readK g f.b.toNat) f s
/-- KOR (07 R141). -/
def execKor (f : LaneWord) (s : State) : Out := maskOp (fun g => readK g f.a.toNat ||| readK g f.b.toNat) f s
/-- KXOR (07 R141). -/
def execKxor (f : LaneWord) (s : State) : Out := maskOp (fun g => readK g f.a.toNat ^^^ readK g f.b.toNat) f s
/-- KNOT (07 R141). -/
def execKnot (f : LaneWord) (s : State) : Out := maskOp (fun g => ~~~readK g f.a.toNat) f s

/-- KMOV: only the bits of the split's lanes change (07 R141). Its source, and the destinations of KPOP and KFFS, may be any
code of 03 R57, not a V code alone (DESIGN CHOICE: 05 R77 writes "V"). -/
def execKmov (f : LaneWord) (s : State) : Out :=
  laneIssue f.form.length 0 [src 0 f.a .any] [] s (fun act s =>
    let set := maskOf ((lanesOf act).filter (fun l => readOpnd s f.a.toNat l != 0))
    .ok ({ s with g := writeK s.g f.d.toNat (readK s.g f.d.toNat &&& ~~~act ||| set) }, 0))

/-- A word computed from a mask register, to every lane of the split with tag U32. -/
def maskWord (v : W32 → Nat) (f : LaneWord) (s : State) : Out :=
  laneIssue f.form.length 0 [] [dst f.d 1] s (fun act s =>
    let x := BitVec.ofNat 32 (v (readK s.g f.a.toNat))
    .ok ({ s with g := writeOpnd s.g f.d.toNat ((lanesOf act).map (fun l => (l, x))) (fun _ => 2) }, 0))

/-- KPOP (07 R141). -/
def execKpop (f : LaneWord) (s : State) : Out := maskWord (fun k => countOnes 32 k.toNat) f s
/-- KFFS: 32 when no bit is set (07 R141). -/
def execKffs (f : LaneWord) (s : State) : Out := maskWord (fun k => trailingZeros 32 k.toNat) f s

end Sys2Proof.Machine
end

