-- ==== Sys2Proof/Machine/Splits.lean ====
section
/-! DEFINITION. The upkeep of the split table and its overflow area: new splits, combining STOPPED entries, merges at
LRECONV, and the exchange between table and overflow area (08 R154 to R161). -/

namespace Sys2Proof.Machine

/-- Whether an entry is EMPTY. -/
def Split.isEmpty (x : Split) : Bool := x.state == .empty

/-- Whether an entry may still move: READY or WAITING. -/
def Split.live (x : Split) : Bool := x.state == .ready || x.state == .waiting

/-- A new split: the lowest-numbered EMPTY entry, or the overflow area. -/
def placeSplit (g : Group) (x : Split) : Group :=
  match findIdx? Split.isEmpty g.splits 0 with
  | some (i, _) => setSplit g i x
  | none => { g with overflow := g.overflow ++ [x] }

/-- Every entry of the table and the overflow area. -/
def allSplits (g : Group) : List Split := g.splits ++ g.overflow

/-- The entries that satisfy `p` replaced by one, made from their lanes and their latest issue slot. It takes the
lowest table entry among them; with all of them in the overflow area it stays there, or under `enter` takes the lowest
EMPTY table entry if there is one. -/
def uniteSplits (g : Group) (p : Split → Bool) (enter : Bool) (make : W32 → Nat → Split) : Group :=
  let mine := (allSplits g).filter p
  let x := make (mine.foldl (fun m y => m ||| y.mask) 0) (mine.foldl (fun n y => max n y.last) 0)
  let table := g.splits.map (fun y => if p y then Split.none else y)
  let g' := { g with splits := table, overflow := g.overflow.filter (fun y => !p y) }
  match findIdx? p g.splits 0 with
  | some (i, _) => setSplit g' i x
  | none => if enter then placeSplit g' x else { g' with overflow := g'.overflow ++ [x] }

/-- The lane PCs of the entries in a state, without repeats. -/
def placesOf (g : Group) (st : SplitState) : List W32 :=
  (((allSplits g).filter (fun x => x.state == st)).map (·.lpc)).eraseDups

/-- STOPPED entries at the same LPC combined (08 R161). -/
def combineStopped (g : Group) : Group :=
  (placesOf g .stopped).foldl (fun acc lpc =>
    let here (x : Split) : Bool := x.state == .stopped && x.lpc == lpc
    if ((allSplits acc).filter here).length ≤ 1 then acc
    else uniteSplits acc here false (fun mask last =>
      { mask := mask, lpc := lpc, token := 0x3FF, state := .stopped, meld := false, last := last, wait := none })) g

/-- The LRECONVs whose AT-TOKEN splits may merge now, greatest token first: lane PC, token, next instruction
(08 R159). -/
def mergeable (g : Group) : List (W32 × BitVec 10 × W32) :=
  let sites := (((allSplits g).filter (fun x => x.state == .atToken)).map (fun x => (x.lpc, x.site, x.next))).eraseDups
  let open_ := sites.filter (fun p => !(allSplits g).any (fun x => x.live && p.2.1 ≤ x.token))
  sortBy (fun p => (1023 - p.2.1.toNat) * 2 ^ 32 + p.1.toNat) open_

/-- The marks of values once splits have merged: what one of the merged lanes wrote, all of them come after. -/
def joinMarks (mask : W32) (ms : List Marked) : List Marked :=
  ms.map (fun p => if p.lanes &&& mask = 0 then p else { p with lanes := p.lanes ||| mask })

/-- Writes of a scalar register by one split after a merge: of those that its lanes made before it, only the values that
no order has ruled out stay, and they are ordered before everything the merged split does next (01 R13). Element values
from before a merge, or from before a VINS by a lane that has rejoined, are no longer read (07 R121). -/
def freshen (g : Group) (mask : W32) : Group :=
  { g with call := g.call.map (fun c => { c with
      written := joinMarks mask c.written
      past := (joinMarks mask c.past).filter (fun p => p.lanes &&& callLanes g != callLanes g)
      stale := c.stale.filter (fun p => !(mask.getLsbD (p.key % 32) && mask &&& p.lanes != 0)) }) }

/-- The AT-TOKEN splits of one LRECONV merged: one READY split at the next instruction (08 R159). -/
def mergeAt (g : Group) (lpc next : W32) : Group :=
  let here (x : Split) : Bool := x.state == .atToken && x.lpc == lpc
  let mask := ((allSplits g).filter here).foldl (fun m y => m ||| y.mask) 0
  freshen (joinWindows (uniteSplits g here true (fun mask last =>
    { mask := mask, lpc := next, token := 0x3FF, state := .ready, meld := false, last := last, wait := none })) mask) mask

/-- The place of an overflow entry in the order of 08 R155, steps 2 and 3: most lanes, then lower LPC. -/
def splitRank (x : Split) : Nat := (32 - countOnes 32 x.mask.toNat) * 2 ^ 32 + x.lpc.toNat

/-- One exchange of 08 R156: the overflow entry of highest priority that is READY or WAITING takes the lowest EMPTY
table entry, or changes places with the lowest AT-TOKEN or STOPPED one. -/
def swapOnce (g : Group) : Group :=
  match sortBy (fun p => splitRank p.1) (g.overflow.zipIdx.filter (fun p => p.1.live)) with
  | [] => g
  | (x, k) :: _ =>
    match findIdx? Split.isEmpty g.splits 0 with
    | some (i, _) => { setSplit g i x with overflow := dropAt k g.overflow }
    | none =>
      match findIdx? (fun (y : Split) => !y.live) g.splits 0 with
      | some (i, y) => { setSplit g i x with overflow := dropAt k g.overflow ++ [y] }
      | none => g

/-- Exchanges until none applies: each brings one live entry into the table. -/
def swapOverflow (g : Group) : Group :=
  if g.overflow.isEmpty then g
  else (List.range 8).foldl (fun acc _ => if acc.overflow.any Split.live then swapOnce acc else acc) g

/-- What follows every change of a split's state: STOPPED entries combine, a merge whose condition holds takes place
with its drain and its acquire (08 R160), and the overflow area exchanges entries with the table. -/
def settleSplits (s : State) : State :=
  let s := { s with g := combineStopped s.g }
  let s := match mergeable s.g with
    | [] => s
    | p :: _ => acquire (release { s with g := mergeAt s.g p.1 p.2.2 })
  { s with g := swapOverflow s.g }

end Sys2Proof.Machine
end

