-- ==== Sys2Proof/Machine/LaneMemory.lean ====
section
/-! DEFINITION. Lane loads, stores and atomics in global memory and scratchpad, VPREF, VCOPY and VDEC
(08 R142 to R153; 07 R135). -/

namespace Sys2Proof.Machine

/-! ### Faults of lanes (08 R144; 18 R285) -/

/-- What a lane's fault raises for its instruction: the mask lists the lanes given. -/
def faultStop (s : State) (lanes : List Nat) (f : AccFault) : Stop :=
  let req : TrapReq := { laneTrap s f.code with fmask := maskOf lanes, sub := f.sub, faddr := f.va }
  if f.code = 0x04 then .suspend req else .trap req

/-- The fault that an instruction raises for its lanes' own faults: the kind that comes first, its lanes, and the
address of the lowest. -/
def lanesStop (s : State) (faults : List (Nat × AccFault)) : Stop :=
  let best := faults.foldl (fun n p => min n (faultRank p.2.code)) 4
  let these := faults.filter (fun p => faultRank p.2.code == best)
  match these with
  | p :: _ => faultStop s (these.map (·.1)) p.2
  | [] => .trap (laneTrap s 0x01)

/-- A check made in each of some lanes: every lane's result, or the instruction's fault. -/
def perLane {α : Type} (s : State) (ls : List Nat) (f : Nat → Except AccFault α) : Except Stop (List (Nat × α)) :=
  let rs := ls.map (fun l => (l, f l))
  match rs.filterMap (fun p => (faultOf p.2).map (fun e => (p.1, e))) with
  | [] => .ok (rs.filterMap (fun p => (p.2.toOption).map (fun a => (p.1, a))))
  | faults => .error (lanesStop s faults)

/-- Conflict detection of the accesses of lanes, lane by lane in ascending order, each lane's in its own order; a conflict
in any lane leaves every entry as it was (23 R318, R319). -/
def laneUses (s : State) (xs : List (Nat × Access × Use)) : Except Stop State :=
  let r := xs.foldl (fun (acc : State × List (Nat × AccFault)) p =>
    match conflictCheck acc.1 p.2.1 p.2.2 with
    | .ok s' => (s', acc.2)
    | .error f => (acc.1, acc.2 ++ [(p.1, f)])) (s, [])
  match r.2 with
  | [] => .ok r.1
  | faults => .error (lanesStop s faults)

/-- The same for accesses that all count alike. -/
def laneConflicts (s : State) (xs : List (Nat × Access)) (use : Use) : Except Stop State :=
  laneUses s (xs.map (fun p => (p.1, p.2, use)))

/-! ### Global addresses (08 R142) -/

/-- An address operand: a scalar register, or a pair of V or L codes. -/
def addrOpnd (slot : Nat) (code : BitVec 11) : Opnd :=
  if isS code.toNat then src slot code acceptAddr else srcs slot code 2 acceptAddr

/-- A global base operand, which is a. -/
def baseOpnd (code : BitVec 11) : Opnd := addrOpnd 0 code

/-- The base in a lane. -/
def laneBase (s : State) (code l : Nat) : W64 :=
  if isS code then laneReadS s (code - 0x400) else readOpnd s (code + 1) l ++ readOpnd s code l

/-- A lane's effective address. -/
def laneEa (s : State) (f : LaneWord) (l : Nat) : W64 :=
  laneBase s f.a.toNat l + (readOpnd s f.b.toNat l).signExtend 64 + f.imm.signExtend 64

/-- The accesses of the active lanes, each of one aligned word of NORMAL class. -/
def globalLanes (s : State) (act : W32) (need : Need) (use : Use) (ea : Nat → W64) :
    Except Stop (List (Nat × Access) × State) := do
  let xs ← perLane s (lanesOf act) (fun l => checkAccess s s.g.ctx s.g.core [0] need 4 (ea l))
  let s' ← laneConflicts s xs use
  pure (xs, s')

/-! ### Scratchpad addresses (08 R143) -/

/-- Whether the split's instruction names another core of the cluster. -/
def clustered (f : LaneWord) : Bool := f.mod.getLsbD 4

/-- The scratchpad offset of a lane, exactly. -/
def spadOffset (s : State) (f : LaneWord) (l : Nat) : Int :=
  let imm : Int := if clustered f then (f.imm.extractLsb' 4 27).toInt else f.imm.toInt
  (readOpnd s f.a.toNat l).toNat + (readOpnd s f.b.toNat l).toInt + imm

/-- A fault of a scratchpad address; the fault address is the offset. -/
def spadFault (off : Int) : AccFault := ⟨0x06, 0, BitVec.ofInt 64 off⟩

/-- The core, bank and offset within the bank that a lane's `n` bytes at an aligned offset reach. -/
def spadPlace (s : State) (f : LaneWord) (off : Int) (align n : Nat) : Except AccFault (Nat × Nat × Nat) :=
  let o := off.toNat
  match teamOf? s s.g.team with
  | none => .error (spadFault off)
  | some t =>
    if off < 0 || o % align != 0 then .error (spadFault off)
    else if clustered f then
      let cidx := (f.imm.extractLsb' 0 4).toNat
      if clusterSize s t ≤ cidx || scratchSize s t < o + n then .error (spadFault off)
      else .ok (teamByte (clusterTeam s t cidx) o)
    else match fifoPlace o with
      | some (bank, k) => if k + n ≤ fifoReach s s.g.core bank then .ok (s.g.core, bank, k) else .error (spadFault off)
      | none => if o + n ≤ scratchSize s t then .ok (teamByte t o) else .error (spadFault off)

/-- Conflict detection of scratchpad accesses, when the team's scratchpad is declared checked (08 R153). -/
def spadConflicts (s : State) (f : LaneWord) (xs : List (Nat × Nat × Nat × Nat)) (use : Use) : Except Stop State :=
  let r := xs.foldl (fun (acc : State × List (Nat × AccFault)) p =>
    match spadConflict acc.1 p.2.1 p.2.2.1 p.2.2.2 use with
    | .ok s' => (s', acc.2)
    | .error sub => (acc.1, acc.2 ++ [(p.1, ⟨0x08, sub, BitVec.ofInt 64 (spadOffset s f p.1)⟩)])) (s, [])
  match r.2 with
  | [] => .ok r.1
  | faults => .error (lanesStop s faults)

/-- The scratchpad words of the active lanes: (lane, core, bank, offset). -/
def spadLanes (s : State) (f : LaneWord) (act : W32) (use : Use) :
    Except Stop (List (Nat × Nat × Nat × Nat) × State) := do
  let xs ← perLane s (lanesOf act) (fun l => spadPlace s f (spadOffset s f l) 4 4)
  let s' ← spadConflicts s f xs use
  pure (xs, s')

/-- A word of a bank. -/
def bankWord (s : State) (core bank off : Nat) : W32 :=
  word32 ((List.range 4).map (fun i => readBank s core bank (off + i)))

/-- A word of a bank written. -/
def setBankWord (s : State) (core bank off : Nat) (w : W32) : State := writeBankBytes s core bank off (bytes32 w)

/-! ### Results (03 R62; 08 R145) -/

/-- Whether another split of the call is in the table or the overflow area. -/
def otherSplits (s : State) : Bool :=
  (s.g.splits.zipIdx.any (fun p => p.2 != s.ent && p.1.state != .empty)) || !s.g.overflow.isEmpty

/-- A long-latency result of the split in focus. It stays in flight under a lookahead, and where another split could
see whether it has landed; otherwise it lands at once, since every read waits for it. -/
def landResult (s : State) (la : BitVec 4) (ws : List (Nat × BitVec 4 × List (Nat × W32))) : State :=
  if la = 0 && !otherSplits s then { s with g := writeKeys s.g ws }
  else
    let mask := (curSplit s).mask
    { s with g := addLanding s.g { writes := ws, lanes := mask, left := openWindow mask la.toNat, wakes := false, landed := false } }

/-- One lane's word loaded, with UE and a log record for a bad word or an unreachable device (02 R50; 22 R311). `both`
gives the lines of which the instruction needs both sectors. -/
def loadLane (both : List Nat) (acc : List (Nat × W32) × State × BitVec 8) (p : Nat × Access) :
    List (Nat × W32) × State × BitVec 8 :=
  let s := acc.2.1
  let r := loadFrom s p.2 4 (both.contains (p.2.pa / 64))
  let bad := wordLost s p.2
  let w := if bad then 0 else word32 r.1
  let s' := if bad then { r.2 with log := r.2.log ++ [laneRecord s (.mem p.2.pa) p.1 0] } else r.2
  (acc.1 ++ [(p.1, w)], s', acc.2.2 ||| flagIf bad flagUE)

/-- The lines in which some accesses reach both sectors (17 R257). -/
def bothSectors (as : List Access) : List Nat :=
  ((as.filter (fun a => !upperSector a.pa && as.any (fun b => b.pa / 64 == a.pa / 64 && upperSector b.pa))).map
    (fun a => a.pa / 64)).eraseDups

/-- The words of the active lanes loaded in ascending order. -/
def loadLanes (s : State) (xs : List (Nat × Access)) : List (Nat × W32) × State × BitVec 8 :=
  xs.foldl (loadLane (bothSectors (xs.map (·.2)))) ([], s, 0)

/-! ### Split on miss (08 R148) -/

/-- The missing lanes of a `.sm` load moved to an entry of their own, WAITING, at the next instruction. -/
def splitOnMiss (s : State) (miss : W32) (len : Nat) (token : BitVec 11) : State :=
  let x := curSplit s
  let stay : Split := { x with mask := x.mask &&& ~~~miss, token := token.setWidth 10 }
  let gone : Split :=
    { x with mask := miss, token := token.setWidth 10, lpc := x.lpc + BitVec.ofNat 32 len, state := .waiting, wait := none }
  settleSplits { s with g := placeSplit (setSplit s.g s.ent stay) gone }

/-! ### Loads and stores (08 R145 to R148) -/

/-- The tag of a type modifier (05 R80). -/
def typeTag (f : LaneWord) : BitVec 4 := f.mod.extractLsb' 0 4

/-- VLD. Under `.sm` the set of lanes that hit is free; the split divides when neither set is empty (08 R148). -/
def execVld (f : LaneWord) (s : State) : Out :=
  laneIssue f.form.length f.pred [baseOpnd f.a, src 1 f.b acceptAddr] [dst f.d 1] s (fun act s => do
    let (xs, s1) ← globalLanes s act .read .read (laneEa s f)
    let (vals, s2, fl) := loadLanes s1 xs
    let tag (_ : Nat) : BitVec 4 := typeTag f
    let hit := act &&& Config.freeMask (s.frees * 4294967296)
    let miss := act &&& ~~~hit
    if f.mod.getLsbD 4 && !melded s && hit != 0 && miss != 0 then
      let now := keyWrites s2.g f.d.toNat (vals.filter (fun p => hit.getLsbD p.1)) tag
      let late := keyWrites s2.g f.d.toNat (vals.filter (fun p => miss.getLsbD p.1)) tag
      let s3 := splitOnMiss { s2 with g := writeKeys s2.g now } miss f.form.length f.c
      let n := f.la.toNat
      let stay := (curSplit s3).mask
      let g := addLanding (addLanding s3.g ⟨now, stay, openWindow stay n, false, true, []⟩) ⟨late, miss, openWindow miss n, true, false, []⟩
      pure ({ s3 with g := g }, fl)
    else pure (landResult s2 f.la (keyWrites s2.g f.d.toNat vals tag), fl))

/-- The words of a store of the active lanes in ascending order; matching lines of the issuing core are updated. -/
def storeLanes (s : State) (xs : List (Nat × Access)) (data : Nat → W32) : List PendWord × State :=
  xs.foldl (fun (acc : List PendWord × State) p =>
    let r := storeWord acc.2 p.2 (bytes32 (data p.1)) p.1
    (acc.1 ++ [r.1], r.2)) ([], s)

/-- Words issued as one store with the flags its instruction has raised; none for no active lane. -/
def issueWords (s : State) (ws : List PendWord) (fl : BitVec 8) : State :=
  if ws.isEmpty then s else issueStore s true ws (lanePc s) fl

/-- VST: equal addresses keep the highest lane's word (08 R145, R147). -/
def execVst (f : LaneWord) (s : State) : Out :=
  laneIssueWith f.form.length f.pred [baseOpnd f.a, src 1 f.b acceptAddr, src 2 f.c .any] [] s (fun act fl s => do
    let (xs, s1) ← globalLanes s act .write (.write 0) (laneEa s f)
    let (ws, s2) := storeLanes s1 xs (readOpnd s f.c.toNat)
    pure (issueWords s2 ws fl, 0))

/-- VLDS (08 R145). -/
def execVlds (f : LaneWord) (s : State) : Out :=
  laneIssue f.form.length f.pred [src 0 f.a acceptAddr, src 1 f.b acceptAddr] [dst f.d 1] s (fun act s => do
    let (xs, s1) ← spadLanes s f act .read
    let vals := xs.map (fun p => (p.1, bankWord s1 p.2.1 p.2.2.1 p.2.2.2))
    pure (landResult s1 f.la (keyWrites s1.g f.d.toNat vals (fun _ => typeTag f)), 0))

/-- VSTS: performed in the bank before the next instruction of the split (08 R145, R147). -/
def execVsts (f : LaneWord) (s : State) : Out :=
  laneIssue f.form.length f.pred [src 0 f.a acceptAddr, src 1 f.b acceptAddr, src 2 f.c .any] [] s (fun act s => do
    let (xs, s1) ← spadLanes s f act (.write 0)
    pure (xs.foldl (fun acc p => setBankWord acc p.2.1 p.2.2.1 p.2.2.2 (readOpnd s f.c.toNat p.1)) s1, 0))

/-! ### Atomics (08 R149, R150) -/

/-- The operation code of an atomic. -/
def atomOp (f : LaneWord) : Nat := (f.mod.extractLsb' 0 4).toNat

/-- The tags that an atomic's data may carry. -/
def atomAccept (op : Nat) : Accept := if op = 10 then acceptF32 else if op ≤ 4 then acceptAddr else .any

/-- The tag of an atomic's result on a path. -/
def atomTag (s : State) (f : LaneWord) (path : Nat) : BitVec 4 :=
  let op := atomOp f
  if op ≤ 2 then 1 else if op ≤ 4 then 2 else if op = 10 then 3 else pathTag s.g path f.c.toNat

/-- The operands of an atomic that are read besides its address: c, and d as the compare value of `.cas`. -/
def atomReads (f : LaneWord) : List Opnd :=
  src 2 f.c (atomAccept (atomOp f)) :: (if atomOp f = 9 then [src 3 f.d .any] else [])

/-- How an atomic counts in conflict detection (08 R153; 23 R317). -/
def atomUse (f : LaneWord) (returns : Bool) : Use :=
  if returns then .both else if atomOp f ≤ 7 then .write (BitVec.ofNat 4 (atomOp f + 1)) else .write 0

/-- One lane's step of a VATOM, with what the earlier lanes have left in words of other devices: there the value before the
first of them is free (13 R242), and each later one finds what the one before it left. -/
def atomLane (f : LaneWord) (s : State) (acc : List (Nat × W32) × State × BitVec 8 × List (Access × W32)) (p : Nat × Access) :
    List (Nat × W32) × State × BitVec 8 × List (Access × W32) :=
  let c := readOpnd s f.c.toNat p.1
  let d := readOpnd s f.d.toNat p.1
  let t := acc.2.1
  let x := atomicAccess t (some p.1) p.2 4 (fun bs => bytes32 (atomic32 (atomOp f) (word32 bs) c d).1)
  let lost := wordLost t p.2
  let left := if lost then none else
    (acc.2.2.2.find? (fun q => q.1.pa == p.2.pa && ptePeer q.1.pte == ptePeer p.2.pte)).map (·.2)
  let old := left.getD (word32 x.1)
  let r := atomic32 (atomOp f) old c d
  let t' := if lost then { x.2 with log := x.2.log ++ [laneRecord s (.mem p.2.pa) p.1 0] } else x.2
  let fl := if lost && p.2.peer then 0 else r.2
  (acc.1 ++ [(p.1, old)], t', acc.2.2.1 ||| fl ||| flagIf lost flagUE,
    if p.2.peer then (p.2, r.1) :: acc.2.2.2 else acc.2.2.2)

/-- VATOM: one step for each lane, in ascending order (08 R149). -/
def execVatom (f : LaneWord) (s : State) : Out :=
  laneIssue f.form.length f.pred ([baseOpnd f.a, src 1 f.b acceptAddr] ++ atomReads f) [dst f.d 1] s (fun act s => do
    let (xs, s1) ← globalLanes s act .write (atomUse f true) (laneEa s f)
    let r := xs.foldl (atomLane f s) ([], s1, 0, [])
    pure (landResult r.2.1 f.la (keyWrites r.2.1.g f.d.toNat r.1 (atomTag s f)), r.2.2.1))

/-- VATOMN: on its way to the home slice, counted as an unacknowledged store; the word's line leaves the issuing core's
L1 (08 R149, R150). -/
def execVatomn (f : LaneWord) (s : State) : Out :=
  laneIssueWith f.form.length f.pred [baseOpnd f.a, src 1 f.b acceptAddr, src 2 f.c (atomAccept (atomOp f))] [] s (fun act fl s => do
    let (xs, s1) ← globalLanes s act .write (atomUse f false) (laneEa s f)
    let r := xs.foldl (fun (acc : List PendWord × State) p =>
      let k := coreOf acc.2 s.g.core
      let s' := if (lineOf k p.2.pa).isSome then setCore acc.2 (l1Drop k p.2.pa) else acc.2
      let c := readOpnd s f.c.toNat p.1
      (acc.1 ++ [if p.2.peer then .peer (peerDevice s s.g.ctx p.2) p.2.pa p.1 (some (atomOp f, c))
        else .atomic p.2.pa (atomOp f) c (laggingPage s s.g.ctx p.2) p.1], s')) ([], s1)
    pure (issueWords r.2 r.1 fl, 0))

/-- VATOMS: in the bank that holds the word (08 R149). The no-return form does not exist in the encoding; every VATOMS
returns the old value. -/
def execVatoms (f : LaneWord) (s : State) : Out :=
  laneIssue f.form.length f.pred ([src 0 f.a acceptAddr, src 1 f.b acceptAddr] ++ atomReads f) [dst f.d 1] s (fun act s => do
    let (xs, s1) ← spadLanes s f act (atomUse f true)
    let r := xs.foldl (fun (acc : List (Nat × W32) × State × BitVec 8) p =>
      let old := bankWord acc.2.1 p.2.1 p.2.2.1 p.2.2.2
      let x := atomic32 (atomOp f) old (readOpnd s f.c.toNat p.1) (readOpnd s f.d.toNat p.1)
      (acc.1 ++ [(p.1, old)], setBankWord acc.2.1 p.2.1 p.2.2.1 p.2.2.2 x.1, acc.2.2 ||| x.2)) ([], s1, 0)
    pure (landResult r.2.1 f.la (keyWrites r.2.1.g f.d.toNat r.1 (atomTag s f)), r.2.2))

/-! ### VPREF (08 R151) -/

/-- Both sectors of a line brought into a core's L1 under the core stamp. -/
def prefetchLine (s : State) (a : Access) : State :=
  if usesL1 s s.g.ctx a then (fillBytes s a 0 true).2 else s

/-- VPREF: a lane whose access would fault is dropped. -/
def execVpref (f : LaneWord) (s : State) : Out :=
  laneIssue f.form.length f.pred [baseOpnd f.a, src 1 f.b acceptAddr] [] s (fun act s =>
    .ok ((lanesOf act).foldl (fun acc l =>
      match checkAccess s s.g.ctx s.g.core [0] .read 4 (laneEa s f l) with
      | .ok a => prefetchLine acc a
      | .error _ => acc) s, 0))

/-! ### VCOPY (08 R152) -/

/-- The checks of a run of bytes without alignment: of several faults the kind that comes first. -/
def runCheck (s : State) (need : Need) (va : W64) (n : Nat) : Except AccFault (List Access) :=
  if n = 0 then .ok [] else
  let first := va.toNat / 64
  let last := (va.toNat + n - 1) / 64
  let rs := (List.range (last - first + 1)).map (fun i =>
    checkAccess s s.g.ctx s.g.core [0] need 1 (if i = 0 then va else BitVec.ofNat 64 ((first + i) * 64)))
  allChecks rs

/-- The 32-byte sectors of a checked run of `n` bytes, one access in each. -/
def runSectors (accs : List Access) (n : Nat) : List Access :=
  (accs.foldl (fun (acc : List Access × Nat) a =>
    let k := min (64 - a.pa % 64) acc.2
    let starts := (List.range 2).map (fun i => (a.pa / 64 * 2 + i) * 32)
    let here := starts.filter (fun b => a.pa < b + 32 && b < a.pa + k)
    (acc.1 ++ here.map (fun b => { a with pa := max a.pa b, va := a.va + BitVec.ofNat 64 (max a.pa b - a.pa) }),
      acc.2 - k)) ([], n)).1

/-- Two checks of one lane: of two faults the kind that comes first. -/
def bothChecks {α β : Type} (x : Except AccFault α) (y : Except AccFault β) : Except AccFault (α × β) :=
  match x, y with
  | .ok a, .ok b => .ok (a, b)
  | .error e, .ok _ => .error e
  | .ok _, .error e => .error e
  | .error e, .error e' => .error (if faultRank e'.code < faultRank e.code then e' else e)

/-- The bytes of a run with every bad word replaced by zeros. -/
def cleanRun (s : State) (a : Access) (bs : List Byte) : List Byte :=
  bs.zipIdx.map (fun p => if wordLost s { a with pa := a.pa + p.2 } then 0 else p.1)

/-- The first bad byte of a run inside one line. -/
def badByte? (s : State) (a : Access) (n : Nat) : Option Nat :=
  ((List.range n).find? (fun i => wordLost s { a with pa := a.pa + i })).map (fun i => a.pa + i)

/-- The bytes that the accesses of a checked range reach, and the address of the first that was bad. -/
def rangeBytes (s : State) (accs : List Access) (n : Nat) : List Byte × State × Option Nat :=
  accs.foldl (fun (acc : List Byte × State × Option Nat) a =>
    let k := min (64 - a.pa % 64) (n - acc.1.length)
    -- a run inside one line, sector by sector
    let first := min (32 - a.pa % 32) k
    let both := first != k
    let x := loadFrom acc.2.1 a first both
    let rest := { a with pa := a.pa + first, va := a.va + BitVec.ofNat 64 first }
    let y := if first = k then ([], x.2) else loadFrom x.2 rest (k - first) both
    (acc.1 ++ cleanRun s a x.1 ++ cleanRun s rest y.1, y.2, acc.2.2.or (badByte? s a k))) ([], s, none)

/-- The words of a store of bytes by a lane to the accesses of a checked range. -/
def rangeWords (s : State) (accs : List Access) (bs : List Byte) (lane : Nat) : List PendWord × State :=
  let r := accs.foldl (fun (acc : List PendWord × State × List Byte) a =>
    let k := min (64 - a.pa % 64) acc.2.2.length
    let w := storeWord acc.2.1 a (acc.2.2.take k) lane
    (acc.1 ++ [w.1], w.2, acc.2.2.drop k)) ([], s, bs)
  (r.1, r.2.1)

/-- The bytes a lane copies in a step. -/
def copySize (dst : W64) (n : W32) : Nat := min n.toNat (64 - dst.toNat % 64)

/-- One lane's part of a step: its bytes read and its words stored, its operands moved on, and whether a byte it read
was bad. A lane reads all its bytes of the step before it writes any, and lanes follow one another ascending (DESIGN CHOICE:
where copies overlap, 08 R152 lets a byte take any value that the source byte held during the copy). The tags of the
registers that it moves on stay as they are (DESIGN CHOICE: the manual names none). -/
def copyLane (f : LaneWord) (acc : List PendWord × State × Bool) (p : Nat × (List Access × List Access)) :
    List PendWord × State × Bool :=
  let l := p.1
  let s := acc.2.1
  let a := laneBase s f.a.toNat l
  let b := laneBase s f.b.toNat l
  let c := readOpnd s f.c.toNat l
  let n := copySize a c
  let x := rangeBytes s p.2.1 n
  let w := rangeWords x.2.1 p.2.2 x.1 l
  let a' := a + BitVec.ofNat 64 n
  let b' := b + BitVec.ofNat 64 n
  let put (g : Group) (r : Nat) (v : W32) : Group := writeV g r l v
  let g := put (put w.2.g f.a.toNat (a'.setWidth 32)) (f.a.toNat + 1) (a'.extractLsb' 32 32)
  let g := put (put g f.b.toNat (b'.setWidth 32)) (f.b.toNat + 1) (b'.extractLsb' 32 32)
  let s' := { w.2 with g := put g f.c.toNat (c - BitVec.ofNat 32 n) }
  let s' := match x.2.2 with
    | some pa => { s' with log := s'.log ++ [laneRecord s (.mem pa) l 0] }
    | none => s'
  (acc.1 ++ w.1, s', acc.2.2 || x.2.2.isSome)

/-- The log after a step of VCOPY: a record of an earlier step keeps a later one out (02 R50). -/
def stepLog (s0 s : State) : State :=
  if (curSplit s0).flags.getLsbD 4 then { s with log := s0.log ++ (s.log.drop s0.log.length).filter (·.late) }
  else settleLog s0 s

/-- A step of VCOPY that leaves bytes to copy: its flags are set, their events are counted when the instruction retires,
and its split goes on. -/
def copyOn (s0 : State) (fl : BitVec 8) (s : State) : State :=
  let s := stepLog s0 s
  let x := curSplit s
  { s with g := setSplit (orFlags s.g true fl) s.ent { x with flags := x.flags ||| fl, wait := some .copying } }

/-- The last step of VCOPY. -/
def copyDone (s0 : State) (act : W32) (fl : BitVec 8) (len : Nat) (s : State) : State :=
  let s := stepLog s0 s
  let x := curSplit s
  retireLane s0 act (fl ||| x.flags)
    (advanceLpc (countIssue { s with g := setSplit s.g s.ent { x with flags := 0 } }) len)

/-- VCOPY: one internal step for each issue, the instruction repeated until every count is zero. A step that faults
copies nothing (08 R152; 05 R83). The count may carry any tag (DESIGN CHOICE: the manual names none). -/
def execVcopy (f : LaneWord) (s : State) : Out :=
  let act := activeLanes s f.pred
  let reads := [srcs 0 f.a 2 acceptAddr, srcs 1 f.b 2 acceptAddr, src 2 f.c .any]
  finishLane s do
    let t := laneReady s act reads reads
    let s1 := t.1
    laneChecks s1 act reads []
    let left := (lanesOf act).filter (fun l => readOpnd s1 f.c.toNat l != 0)
    if left.isEmpty then return copyDone s act t.2 f.form.length s1
    let size (l : Nat) : Nat := copySize (laneBase s1 f.a.toNat l) (readOpnd s1 f.c.toNat l)
    let xs ← perLane s1 left (fun l =>
      bothChecks (runCheck s1 .read (laneBase s1 f.b.toNat l) (size l))
        (runCheck s1 .write (laneBase s1 f.a.toNat l) (size l)))
    let uses (p : Nat × List Access × List Access) : List (Nat × Access × Use) :=
      (runSectors p.2.1 (size p.1)).map (fun a => (p.1, a, Use.read)) ++
      (runSectors p.2.2 (size p.1)).map (fun a => (p.1, a, Use.write 0))
    let s2 ← laneUses s1 (xs.flatMap uses)
    let r := xs.foldl (copyLane f) ([], s2, false)
    let fl := t.2 ||| flagIf r.2.2 flagUE
    let s3 := issueWords r.2.1 r.1 (fl ||| (curSplit s).flags)
    if left.any (fun l => readOpnd s3 f.c.toNat l != 0) then return copyOn s fl s3
    return copyDone s act fl f.form.length s3

/-! ### VDEC (07 R135) -/

/-- The field a lane decodes: whether it overruns or is malformed before any byte is read, the bytes it reads. -/
inductive VdecPlan where
  | stop (next : W32)
  | fixed (bit : Nat) (width : Nat)
  | leb (byte : Nat)
  deriving DecidableEq, Repr

/-- What a lane's operands ask for. -/
def vdecPlan (f : LaneWord) (b c : W32) : VdecPlan :=
  if (f.imm.extractLsb' 0 2).toNat ≤ 1 then
    let w := (f.imm.extractLsb' 2 5).toNat + 1
    if c.toNat < b.toNat + w then .stop 0xFFFFFFFF else .fixed b.toNat w
  else if b.toNat % 8 != 0 then .stop 0xFFFFFFFE
  else .leb (b.toNat / 8)

/-- A byte of the stream checked as a lane load. -/
def vdecCheck (s : State) (base : W64) (i : Nat) : Except AccFault Access :=
  checkAccess s s.g.ctx s.g.core [0] .read 1 (base + BitVec.ofNat 64 i)

/-- A byte of the stream loaded: +0 in a bad word, with a log record (02 R50; 22 R311). -/
def vdecByte (both : List Nat) (l : Nat) (acc : List Byte × State) (a : Access) : List Byte × State :=
  let r := loadFrom acc.2 a 1 (both.contains (a.pa / 64))
  if wordLost acc.2 a then
    (acc.1 ++ [0], { r.2 with log := r.2.log ++ [laneRecord acc.2 (.mem a.pa) l acc.1.length] })
  else (acc.1 ++ r.1.take 1, r.2)

/-- The bytes of a LEB128 field from byte `i` on, at most `n`: up to the first without the continuation bit, or the last
one inside the limit. -/
def lebBytes (s : State) (base : W64) (l limit : Nat) : Nat → Nat → Except AccFault (List Access)
  | 0, _ => .ok []
  | n + 1, i => do
    if limit < 8 * (i + 1) then return []
    let a ← vdecCheck s base i
    let b := (vdecByte [] l ([], s) a).1.headD 0
    if b.getLsbD 7 then return a :: (← lebBytes s base l limit n (i + 1)) else return [a]

/-- The bytes that a lane's field reads, checked: of several faults the kind that comes first (18 R285). -/
def vdecReads (s : State) (base : W64) (l : Nat) (limit : Nat) : VdecPlan → Except AccFault (List Access)
  | .stop _ => .ok []
  | .fixed bit w =>
    let rs := (List.range ((bit + w + 7) / 8 - bit / 8)).map (fun i => vdecCheck s base (bit / 8 + i))
    match sortBy (fun f => faultRank f.code) (rs.filterMap faultOf) with
    | e :: _ => .error e
    | [] => .ok (rs.filterMap Except.toOption)
  | .leb i => lebBytes s base l limit 5 i

/-- The number that LEB128 bytes stand for. -/
def lebValue : List Byte → Nat
  | [] => 0
  | b :: bs => b.toNat % 128 + 128 * lebValue bs

/-- A field's value and the offset after it, from the bytes read. -/
def vdecResult (f : LaneWord) (limit : Nat) (bs : List Byte) : VdecPlan → W32 × W32
  | .stop next => (0, next)
  | .fixed bit w =>
    let z := BitVec.ofNat 32 (leNat bs / 2 ^ (bit % 8) % 2 ^ w)
    (if f.imm.getLsbD 0 then (z >>> 1) ^^^ (0 - (z &&& 1)) else z, BitVec.ofNat 32 (bit + w))
  | .leb i =>
    if (bs.getLast?.map (fun b => !b.getLsbD 7)).getD false then
      if 2 ^ 32 ≤ lebValue bs then (0, 0xFFFFFFFE)
      else (BitVec.ofNat 32 (lebValue bs), BitVec.ofNat 32 (8 * (i + bs.length)))
    else if limit < 8 * (i + bs.length + 1) && bs.length < 5 then (0, 0xFFFFFFFF)
    else (0, 0xFFFFFFFE)

/-- VDEC: the value to d and the offset after the field to d+1, both U32. -/
def execVdec (f : LaneWord) (s : State) : Out :=
  laneIssue f.form.length f.pred [src 0 f.a .any, src 1 f.b .any, src 2 f.c .any] [dst f.d 2] s (fun act s => do
    let base := laneReadS s (f.a.toNat - 0x400)
    let limit (l : Nat) : Nat := (readOpnd s f.c.toNat l).toNat
    let plan (l : Nat) : VdecPlan := vdecPlan f (readOpnd s f.b.toNat l) (readOpnd s f.c.toNat l)
    let xs ← perLane s (lanesOf act) (fun l =>
      if !vaOk base then .error ⟨0x06, 0, base⟩ else vdecReads s base l (limit l) (plan l))
    let s1 ← laneUses s (xs.flatMap (fun p => p.2.map (fun a => (p.1, a, Use.read))))
    let r := xs.foldl (fun (acc : List (Nat × W32 × W32) × State) p =>
      let bs := p.2.foldl (vdecByte (bothSectors (xs.flatMap (·.2))) p.1) ([], acc.2)
      (acc.1 ++ [(p.1, vdecResult f (limit p.1) bs.1 (plan p.1))], bs.2)) ([], s1)
    let bad := s.log.length < r.2.log.length
    let vals := r.1.map (fun p => (p.1, p.2.1))
    let nexts := r.1.map (fun p => (p.1, p.2.2))
    pure (landResult r.2 f.la
      (keyWrites r.2.g f.d.toNat vals (fun _ => 2) ++ keyWrites r.2.g (f.d.toNat + 1) nexts (fun _ => 2)), flagIf bad flagUE))

end Sys2Proof.Machine
end

