-- ==== Sys2Proof/Machine/LaneControl.lean ====
section
/-! DEFINITION. Branches, reconvergence, LSTOP, melded regions, LSPAWN, LAWAIT, LEXIT, LTRAP and LNOP
(08 R154 to R169; 18 R291). -/

namespace Sys2Proof.Machine

/-! ### Issue without an advance -/

/-- A control instruction: waits on results, checks, its effect on the split, flags. -/
def controlIssue (act : W32) (reads writes : List Opnd) (s : State)
    (body : State → Except Stop (State × BitVec 8)) : Out :=
  finishLane s do
    let t := laneTouch s act reads writes
    laneChecks t.1 act reads writes
    let r ← body t.1
    pure (retireLane s act (r.2 ||| t.2) r.1)

/-- Trap 0x01 for an instruction that a melded region forbids (08 R163). -/
def forbidMelded (s : State) (k : Out) : Out :=
  if melded s then finishLane s (.error (wholeFault s (curSplit s).mask 0x01)) else k

/-- The split in focus moved to a lane PC. -/
def moveSplit (s : State) (lpc : W32) : State := { s with g := setSplit s.g s.ent { curSplit s with lpc := lpc } }

/-- The lane PC of the next instruction. -/
def nextLpc (s : State) (f : LaneWord) : W32 := (curSplit s).lpc + BitVec.ofNat 32 f.form.length

/-! ### Branches (08 R154, R157, R158) -/

/-- The targets of a split's lanes with the lanes that take them, in ascending order of the lowest lane. -/
def byTarget (ts : List (Nat × W32)) : List (W32 × W32) :=
  ((ts.map (·.2)).eraseDups).map (fun t => (t, maskOf ((ts.filter (fun p => p.2 == t)).map (·.1))))

/-- The split in focus divided: the lanes of `keep` stay in its entry, every further target takes an entry of its own
(08 R154). -/
def divide (s : State) (parts : List (W32 × W32)) (keep : W32) (token : BitVec 10) : State :=
  let x := curSplit s
  let mine := ((parts.find? (fun p => p.1 == keep)).map (·.2)).getD 0
  let g := setSplit s.g s.ent { x with mask := mine, lpc := keep, token := token }
  settleSplits { s with
    g := (parts.filter (fun p => p.1 != keep)).foldl (fun acc p =>
      placeSplit acc { x with mask := p.2, lpc := p.1, token := token }) g }

/-- A branch of the split in focus to its lanes' targets. A division in a melded region raises trap 0x01 and has no
effect (08 R163); one under `.u` sets UV (08 R158). `keep` is the fall-through, where the branch has one. -/
def branchTo (s : State) (ts : List (Nat × W32)) (keep : Option W32) (token : BitVec 10) (claim : Bool) :
    Except Stop (State × BitVec 8) :=
  match byTarget ts with
  | [] => .ok (s, 0)
  | [p] => .ok (moveSplit s p.1, 0)
  | p :: rest =>
    if melded s then .error (wholeFault s (curSplit s).mask 0x01)
    else .ok (divide s (p :: rest) (keep.getD p.1) token, flagIf claim flagUV)

/-- LBR (08 R157). -/
def execLbr (f : LaneWord) (s : State) : Out :=
  let m := (curSplit s).mask
  let here := (curSplit s).lpc
  controlIssue m [src 0 f.a .any] [] s (fun t =>
    let target (l : Nat) : W32 := if readOpnd t f.a.toNat l != 0 then here + f.imm.signExtend 32 else nextLpc s f
    branchTo t ((lanesOf m).map (fun l => (l, target l))) (some (nextLpc s f)) (f.c.setWidth 10) (f.mod.getLsbD 0))

/-- LJMP: the whole split (08 R157). -/
def execLjmp (f : LaneWord) (s : State) : Out :=
  controlIssue (curSplit s).mask [] [] s (fun t => .ok (moveSplit t ((curSplit s).lpc + f.imm.signExtend 32), 0))

/-- LBRX: the target is operand a in each lane (08 R157). -/
def execLbrx (f : LaneWord) (s : State) : Out :=
  let m := (curSplit s).mask
  controlIssue m [src 0 f.a .any] [] s (fun t =>
    branchTo t ((lanesOf m).map (fun l => (l, readOpnd t f.a.toNat l))) none (f.c.setWidth 10) (f.mod.getLsbD 0))

/-- The link register of LCALLX and LRET. -/
abbrev linkReg : Nat := 127

/-- LCALLX: the targets are read before V127 takes the next instruction's offset, tag U32 (08 R157; 18 R291). -/
def execLcallx (f : LaneWord) (s : State) : Out :=
  let m := (curSplit s).mask
  forbidMelded s <| controlIssue m [src 0 f.a .any] [⟨3, linkReg, 1, .any⟩] s (fun t =>
    let ts := (lanesOf m).map (fun l => (l, readOpnd t f.a.toNat l))
    let t' := { t with g := writeReg t.g linkReg 2 ((lanesOf m).map (fun l => (l, nextLpc s f))) }
    branchTo t' ts none (f.c.setWidth 10) (f.mod.getLsbD 0))

/-- LRET: to V127 of each lane, under the split's own token (08 R154, R157). -/
def execLret (_f : LaneWord) (s : State) : Out :=
  let m := (curSplit s).mask
  forbidMelded s <| controlIssue m [⟨0, linkReg, 1, .any⟩] [] s (fun t =>
    branchTo t ((lanesOf m).map (fun l => (l, readOpnd t linkReg l))) none (curSplit s).token false)

/-! ### Reconvergence and LSTOP (08 R159 to R161) -/

/-- LRECONV: a split with a smaller token goes on, any other stands AT-TOKEN here until the merge. -/
def execLreconv (f : LaneWord) (s : State) : Out :=
  let u : BitVec 10 := f.imm.setWidth 10
  forbidMelded s <| controlIssue (curSplit s).mask [] [] s (fun t =>
    if (curSplit t).token < u then .ok (moveSplit t (nextLpc s f), 0)
    else .ok (settleSplits { t with
      g := setSplit t.g t.ent { curSplit t with state := .atToken, site := u, next := nextLpc s f } }, 0))

/-- LSTOP: outstanding results land and the split is STOPPED (08 R161; 03 R62). -/
def execLstop (_f : LaneWord) (s : State) : Out :=
  forbidMelded s <| controlIssue (curSplit s).mask [] [] s (fun t =>
    let t := landResults t
    .ok (settleSplits { t with g := setSplit t.g t.ent { curSplit t with state := .stopped } }, 0))

/-! ### Melded regions (08 R162 to R164) -/

/-- The entries of a renaming table: 128 halfwords, ten bits of each (04 R71). -/
def tableEntries (bs : List Byte) : List (BitVec 10) :=
  (List.range 128).map (fun i => BitVec.ofNat 10 (field bs (2 * i) 2))

/-- The slot that holds a table. -/
def slotWith (g : Group) (a : W64) : Option Nat :=
  (findIdx? (fun (t : Option RenTable) => (t.map (·.addr)) == some a) g.ren 0).map (·.1)

/-- LMELD: the table's address and its 256 bytes are checked, the table is loaded unless a slot holds it, and the path
mask is a snapshot of K[p] (08 R162). -/
def execLmeld (f : LaneWord) (s : State) : Out :=
  let m := (curSplit s).mask
  forbidMelded s <|
    if s.g.meld.isSome then finishLane s (.error (.wait .meld))
    else controlIssue m [src 0 f.a .any] [] s (fun t => do
      let a := laneReadS t (f.a.toNat - 0x400)
      if a.toNat % 64 != 0 then throw (.trap { laneTrap s 0x06 with fmask := m, faddr := a })
      let accs ← match runCheck t .read a 256 with
        | .ok accs => Except.ok accs
        | .error e => .error (faultStop s (lanesOf m) e)
      let path := readK t.g f.pred.toNat &&& m
      let opened (t : State) (slot : Nat) : State :=
        let g := { t.g with meld := some ⟨path, slot⟩, renOld := 1 - slot }
        moveSplit { t with g := setSplit g t.ent { splitAt g t.ent with meld := true } } (nextLpc s f)
      match slotWith t.g a with
      | some slot => pure (opened t slot, 0)
      | none =>
        let lane := (lanesOf m).headD 0
        let t1 ← laneConflicts t ((runSectors accs 256).map (fun x => (lane, x))) .read
        let (bs, t2, bad) := rangeBytes t1 accs 256
        let slot := t.g.renOld
        let t3 := match bad with
          | some pa => { t2 with log := t2.log ++ [laneRecord s (.mem pa) lane 0] }
          | none => t2
        pure (opened { t3 with g := { t3.g with ren := t3.g.ren.set slot (some ⟨a, tableEntries bs⟩) } } slot,
          flagIf bad.isSome flagUE))

/-- LMEND: the region ends; the loaded tables stay (08 R164). -/
def execLmend (f : LaneWord) (s : State) : Out :=
  if !melded s then finishLane s (.error (wholeFault s (curSplit s).mask 0x01))
  else controlIssue (curSplit s).mask [] [] s (fun t =>
    let t := moveSplit t (nextLpc s f)
    .ok ({ t with g := { setSplit t.g t.ent { curSplit t with meld := false } with meld := none } }, 0))

/-! ### LSPAWN (08 R165) -/

/-- The frame to which the end of a lane's task reports, plus one; 0 in a lane that holds no task, as every lane of a
trap handler's call (08 R165). -/
def laneTask (g : Group) (l : Nat) : Nat := if g.depth = 0 then mapGet 0 l g.tasks else 0

/-- The number of a lane among its group's wait frames: the lanes of a handler's call have frames of their own. -/
def frameKey (g : Group) (l : Nat) : Nat := g.depth * 32 + l

/-- The wait frame of a lane, 0 for none. -/
def waitFrame (g : Group) (l : Nat) : Nat := mapGet 0 (frameKey g l) g.wframes

/-- The key that LSPAWN's records and LAWAIT's frames take: the values latched at LCALL (07 R134). -/
def latchedKey (g : Group) : W64 := (laneEnv g).seedhi ++ (laneEnv g).seedlo

/-- A lane's wait frame recorded in its group. -/
def setWaitFrame (s : State) (l va : Nat) : State :=
  { s with g := { s.g with wframes := mapSet 0 (frameKey s.g l) va s.g.wframes } }

/-- The wait frame of a lane, allocated if it has none; `none` while the pool is empty. -/
def laneFrame (s : State) (l : Nat) : Option (Nat × State) :=
  let have_ := waitFrame s.g l
  if have_ != 0 then some (have_, s)
  else if laneTask s.g l != 0 then
    (takeFrame s s.g.ctx (laneTask s.g l - 1) (s.g.entryVa + 64).toNat).map (fun p => (p.1, setWaitFrame p.2 l p.1))
  else match groupFrame s with
    | .error _ => none
    | .ok (f, s1) =>
      (takeFrame s1 s1.g.ctx f 0).map (fun p => (p.1, joinAdd (setWaitFrame p.2 l p.1) s1.g.ctx f 1))

/-- One lane's task: its frame's join count raised and its record; `none` while the pool is empty. -/
def spawnLane (f : LaneWord) (s : State) (l : Nat) : Option (TaskRecord × State) :=
  (laneFrame s l).map (fun p =>
    (childRecord s (laneReadS s (f.a.toNat - 0x400)) (readOpnd s f.b.toNat l) (readOpnd s f.c.toNat l) p.1 (latchedKey s.g),
     joinAdd p.2 s.g.ctx p.1 1))

/-- The lanes spawned one by one in ascending order, each record placed as it is made; the lanes left when a pool is
exhausted, with what they wait for. -/
def spawnInOrder (f : LaneWord) (d : Descriptor) : List Nat → State → List Nat × Wait × State
  | [], s => ([], .frames, s)
  | l :: ls, s =>
    match spawnLane f s l with
    | none => (l :: ls, .frames, s)
    | some (r, s1) =>
      let s2 := placeRecords s1 s1.g.ctx s1.g.core d [r]
      if poolShort s1 s2 then (l :: ls, .records, s) else spawnInOrder f d ls s2

/-- The records of every lane made before any is placed, as the grouping of deterministic mode needs (18 R279). -/
def spawnTogether (f : LaneWord) : List Nat → State → Option (List TaskRecord × State)
  | [], s => some ([], s)
  | l :: ls, s =>
    match spawnLane f s l with
    | none => none
    | some (r, s1) => (spawnTogether f ls s1).map (fun p => (r :: p.1, p.2))

/-- LSPAWN's effect in the lanes not yet served: all of them, or those before a pool ran out, and what the split then waits
for. -/
def spawnLanes (f : LaneWord) (d : Descriptor) (act : W32) (s : State) : State × Option Wait :=
  let todo := lanesOf (act &&& ~~~(curSplit s).done)
  if (ctxOf s s.g.ctx).det then
    match spawnTogether f todo s with
    | some (recs, s1) => (placeRecords s1 s1.g.ctx s1.g.core d recs, none)
    | none => (s, some .frames)
  else
    let r := spawnInOrder f d todo s
    let served := act &&& ~~~maskOf r.1
    let t := r.2.2
    ({ t with g := setSplit t.g t.ent { curSplit t with done := if r.1.isEmpty then 0 else served } },
      if r.1.isEmpty then none else some r.2.1)

/-- LSPAWN: the stores drain, the descriptor is checked, then one task for each active lane. While it waits for a frame or
a record it has not retired, and does not count in its split's windows. A word of the descriptor that is bad or lost sets UE
(02 R50; 22 R311). -/
def execLspawn (f : LaneWord) (s0 : State) : Out :=
  let act := activeLanes s0 f.pred
  let reads := [src 0 f.a .any, src 1 f.b .any, src 2 f.c .any]
  match laneChecks (laneReady s0 act reads []).1 act reads [] with
  | .error e => finishLane s0 (.error e)
  | .ok _ =>
    let s := release s0
    finishLane s do
      let t := laneReady s act reads []
      let entry := laneReadS t.1 (f.a.toNat - 0x400)
      let lanes := if act = 0 then (curSplit s).mask else act
      if entry.toNat % 64 != 0 then throw (.trap { laneTrap s 0x06 with fmask := lanes, faddr := entry })
      match readDescriptor t.1 entry with
      | .error e => throw (faultStop s (lanesOf lanes) e)
      | .ok none => throw (wholeFault s act 0x01)
      | .ok (some d) =>
        if d.kind != 1 then throw (wholeFault s act 0x01)
        let r := spawnLanes f d act t.1
        match r.2 with
        | none =>
          let lost := if act = 0 then none else lostDescriptor? t.1 entry
          let u := match lost with
            | some p => { r.1 with log := r.1.log ++ [laneRecord s (.mem p.2) ((lanesOf act).headD 0) p.1] }
            | none => r.1
          pure (retireLane s act (t.2 ||| flagIf lost.isSome flagUE) (advanceLpc (countIssue u) f.form.length))
        | some w => pure (blockSplit { r.1 with log := s.log ++ r.1.log.drop t.1.log.length } w)

/-! ### LAWAIT and LEXIT (08 R166, R167) -/

/-- The values that LAWAIT saves of a lane in its wait frame, with KEY and PRIO (18 R276). -/
def saveLane (s : State) (l va : Nat) : State :=
  let tag (m : Nat) : Nat := (tagV s.g (4 + m)).toNat
  let parent := (frame64 s s.g.ctx va 0 &&& ~~~63).toNat
  let cont := (frame64 s s.g.ctx va 8 &&& ~~~63).toNat
  let tags := (List.range 8).foldl (fun n m => n + tag m * 16 ^ m) 0
  let vals := (List.range 10).flatMap (fun m => bytes32 (readElem s (4 + m) l))
  let s := frameWrite s s.g.ctx va 0 (leBytes 8 (parent + tag 9) ++ leBytes 8 (cont + tag 8))
  let s := frameWrite s s.g.ctx va 20 (leBytes 4 tags ++ vals)
  frameWrite s s.g.ctx va 64 (bytes64 (latchedKey s.g) ++ leBytes 8 (myPrio s).toNat)

/-- A lane that leaves its group by LAWAIT: its registers are saved, and its continuation waits for the frame's join
count, or is binned at once on the core where the end took place that brought the count to zero (18 R278). -/
def awaitLane (s : State) (l : Nat) : State :=
  let va := waitFrame s.g l
  let s := tell (saveLane s l va) (groupKey s.g.gid) (frameKeyOf va)
  let a : Awaiting := ⟨s.g.ctx, va, s.g.core, myRoot s⟩
  if frameJoin s s.g.ctx va = 0 then
    let core := ((s.zeros.find? (fun z => z.ctx == s.g.ctx && z.frame == va)).map (·.core)).getD s.g.core
    startContinuation { s with zeros := s.zeros.filter (fun z => !(z.ctx == s.g.ctx && z.frame == va)) } core a
  else { s with awaits := s.awaits ++ [a] }

/-- Lanes that leave the split in focus and K1; those of `ends` hold no task any more. An entry without lanes is EMPTY; the
lanes that stay go on to the next instruction. -/
def leaveLanes (s : State) (ends ls : List Nat) (next : W32) : State :=
  let gone := maskOf ls
  let x := curSplit s
  let rest := x.mask &&& ~~~gone
  let g := writeK s.g 1 (readK s.g 1 &&& ~~~gone)
  let g := { g with
    tasks := g.tasks.filter (fun p => !ends.contains p.1)
    wframes := g.wframes.filter (fun p => !ends.contains p.1) }
  { s with g := setSplit g s.ent (if rest = 0 then Split.none else { x with mask := rest, lpc := next }) }

/-- The lanes whose continuation descriptor reads as no valid task descriptor. -/
def badContinuations (s : State) (ls : List Nat) : List Nat :=
  ls.filter (fun l => match readDescriptor s (frame64 s s.g.ctx (waitFrame s.g l) 8 &&& ~~~63) with
    | .ok (some d) => d.kind != 1
    | .ok none => true
    | .error _ => false)

/-- The records of what a lane's LAWAIT reads bad: of V4 to V13, which it saves, and of its continuation's descriptor
(02 R50; 22 R311). The registers are no operands of its word; they rank as its operand a (DESIGN CHOICE). -/
def savedBad (s t : State) (l : Nat) : List (Option LogRecord) :=
  (((List.range 10).filter (fun m => t.g.poison.contains ((4 + m) * 32 + l))).map (fun m => some (laneRecord s (.reg 0) l m))) ++
  ((lostDescriptor? t (frame64 t t.g.ctx (waitFrame t.g l) 8 &&& ~~~63)).map (fun p => some (laneRecord s (.mem p.2) l p.1))).toList

/-- LAWAIT: every outstanding result lands (03 R62). The lanes with a wait frame leave; what the split did before is
performed first, so that it is ordered before whatever observes the end of the continuation (13 R234; the drain is
DEDUCED). The others go on with an acquire (08 R166). -/
def execLawait (f : LaneWord) (s : State) : Out :=
  let m := (curSplit s).mask
  forbidMelded s <| controlIssue m [] [] s (fun t => do
    let idle := (lanesOf m).filter (fun l => laneTask t.g l == 0)
    if !idle.isEmpty then throw (lanesFault s idle 0x01)
    let held := (lanesOf m).filter (fun l => waitFrame t.g l != 0)
    let bad := badContinuations t held
    if !bad.isEmpty then throw (lanesFault s bad 0x01)
    let _ ← perLane t held (fun l => readDescriptor t (frame64 t t.g.ctx (waitFrame t.g l) 8 &&& ~~~63))
    let t := landResults t
    let bad := (held.flatMap (savedBad s t)).headD none
    let t := match bad with
      | some r => { t with log := t.log ++ [r] }
      | none => t
    let t := if held.isEmpty then t else held.foldl awaitLane (release t)
    let t := if maskOf held = m then t else acquire t
    pure (settleSplits (leaveLanes t held held (nextLpc s f)), flagIf bad.isSome flagUE))

/-- The lanes without a task that LEXIT stops, in a STOPPED split of their own at this instruction. -/
def stopLanes (s : State) (x : Split) (mask : W32) : State :=
  if mask = 0 then s
  else { s with g := placeSplit s.g { x with mask := mask, state := .stopped } }

/-- LEXIT: the active lanes' tasks end, once the group's stores have drained (13 R234); lanes without a task stop
(08 R167). -/
def execLexit (f : LaneWord) (s : State) : Out :=
  let act := activeLanes s f.pred
  forbidMelded s <| controlIssue act [] [] s (fun t =>
    let ends := (lanesOf act).filter (fun l => laneTask t.g l != 0)
    let stops := (lanesOf act).filter (fun l => laneTask t.g l == 0)
    let x := curSplit t
    let t := if ends.isEmpty then t else release t
    let t := if stops.isEmpty then t else landResults t
    let reports := ends.map (fun l => (⟨t.g.gid, true, waitFrame t.g l, laneTask t.g l - 1⟩ : HeldEnd))
    let t := { ends.foldl (fun acc l => tell acc (groupKey t.g.gid) (frameKeyOf (laneTask t.g l - 1))) t with
      ends := t.ends ++ reports }
    let keepK := readK t.g 1
    let t := leaveLanes t ends (ends ++ stops) (nextLpc s f)
    let t := { t with g := writeK t.g 1 (keepK &&& ~~~maskOf ends) }
    .ok (settleSplits (stopLanes t x (maskOf stops)), 0))

/-! ### LTRAP and LNOP (08 R168) -/

/-- LTRAP: trap 0x0A for the active lanes, resuming at the next instruction; nothing when none is active. -/
def execLtrap (f : LaneWord) (s : State) : Out :=
  let act := activeLanes s f.pred
  controlIssue act [] [] s (fun t =>
    let t := advanceLpc t f.form.length
    if act = 0 then .ok (t, 0)
    else .ok (takeLaneTrap t { laneTrap s 0x0A with fmask := act, num := f.imm.setWidth 8 } (curSplit t).lpc
      (curSplit s).mask, 0))

/-- LNOP. -/
def execLnop (f : LaneWord) (s : State) : Out := laneIssue f.form.length 0 [] [] s (fun _ t => .ok (t, 0))

end Sys2Proof.Machine
end

