-- ==== Sys2Proof/Machine/Matrix.lean ====
section
/-! DEFINITION. The matrix array, the B-store and the tile instructions (09 R170 to R184; 02 R46, R47, R49, R50). -/

namespace Sys2Proof.Machine

/-! ### Tile words -/

/-- A word of a tile as an instruction reads it: +0 for one with an uncorrectable error (02 R50; 09 R179). -/
def readTile (s : State) (t row col : Nat) : W32 :=
  if s.g.poison.contains (tileBad t row col) then 0 else readT s.g t row col

/-- The tile of a code. -/
def tileOf (code : BitVec 11) : Nat := code.toNat - 0x300

/-- A tile operand. -/
def tileOpnd (slot : Nat) (code : BitVec 11) (tags : Accept) : Opnd := ⟨slot, code.toNat, 1, tags⟩

/-- UE and a log record for the first bad word among a tile's cells, (row, column) in ascending order (02 R50, R52). -/
def noteTile (s : State) (t slot : Nat) (cells : List (Nat × Nat)) : State × BitVec 8 :=
  if s.g.poison.isEmpty then (s, 0) else
  match cells.find? (fun c => s.g.poison.contains (tileBad t c.1 c.2)) with
  | none => (s, 0)
  | some c => ({ s with log := s.log ++ [laneRecord s (.reg slot) c.1 c.2] }, flagUE)

/-- Every column of some rows. -/
def rowCells (rows : List Nat) : List (Nat × Nat) := rows.flatMap (fun i => (List.range 128).map (fun j => (i, j)))

/-! ### The B-store (09 R172 to R174) -/

/-- A unit of a CPYB performed before its turn. One that would fault or that meets a bad word is left to its turn. -/
def copyUnit (s : State) (o : EngineOp) (k : Nat) : State :=
  if unitDone o k || (unitBad s o k).isSome then s else
  match o.held.find? (fun p => p.1 == k) with
  | some _ => earlyUnit s o k true
  | none =>
    match unitBytes s o k with
    | .ok bs => (match unitWrite s o k bs with
      | .ok s' => modOp s' o.id (fun o => unitNoted o k)
      | .error _ => s)
    | .error _ => s

/-- The units of outstanding CPYBs of the context and core that an MMA finds already copied: a free choice for each 64-byte
unit of its tile (09 R174). -/
def earlyCopies (s : State) (base size : Nat) : State :=
  s.ops.foldl (fun acc o =>
    match o.kind with
    | .cpyb off _ n =>
      if o.core != s.g.core || o.ctx != s.g.ctx || o.finished || o.cancelled then acc else
      (List.range (n / 64)).foldl (fun acc k =>
        let at_ := off.toNat + 64 * k
        if base ≤ at_ && at_ < base + size && choose s (freeKey 5 (at_ / 64)) 2 = 1 then
          (match acc.ops.find? (fun x => x.id == o.id) with
          | some x => copyUnit acc x k
          | none => acc)
        else acc) acc
    | _ => acc) s

/-! ### MMA (09 R175 to R179) -/

/-- The format code. -/
def mmaFmt (f : LaneWord) : Nat := (f.mod.extractLsb' 0 3).toNat

/-- The tags of A. -/
def mmaAccept (fmt : Nat) : Accept :=
  .only (match fmt with | 0 => [8] | 1 => [6] | 2 => [7] | 3 => [1, 2] | _ => [4])

/-- The tag of the accumulator and of the result. -/
def mmaTag (fmt : Nat) : BitVec 4 := if fmt = 3 then 1 else 3

/-- The operands of an MMA in the order of 02 R50: a, b, c, d. -/
def mmaReads (f : LaneWord) : List Opnd :=
  [srcs 0 f.a 32 (mmaAccept (mmaFmt f))] ++
  (if mmaFmt f = 0 then [srcs 1 f.b 8 (.only [9]), src 2 f.c .any] else []) ++
  [tileOpnd 3 f.d (.only [mmaTag (mmaFmt f)])]

/-- The band-scale word: all 64 bits of the scalar register, zero when it has an uncorrectable error (09 R179). -/
def bandWord (s : State) (f : LaneWord) : W64 :=
  let r := f.c.toNat - 0x400
  if s.g.poison.contains (scalarBad r) then 0 else laneReadS s r

/-- The words of A in a row. -/
def aRow (s : State) (f : LaneWord) (i : Nat) : List W32 := (List.range 32).map (fun r => readOpnd s (f.a.toNat + r) i)

/-- The block scales of a row: byte q mod 4 of register q / 4. -/
def aScales (s : State) (f : LaneWord) (i : Nat) : List Nat :=
  rowBytes ((List.range 8).map (fun r => readOpnd s (f.b.toNat + r) i))

/-- What an MMA reads at issue: the rows of the active lanes, the band word and the B tile (09 R177). -/
def mmaInputs (s : State) (f : LaneWord) (act : W32) : MmaInputs :=
  let base := 256 * f.imm.toNat
  let row (i : Nat) : MmaRow :=
    ⟨i, aRow s f i, if mmaFmt f = 0 then aScales s f i else [],
      (List.range 128).map (fun j => readTile s (tileOf f.d) i j)⟩
  { fmt := mmaFmt f, sat := f.mod.getLsbD 3, band := bandWord s f, base := base, rows := (lanesOf act).map row
    tile := bTile (coreOf s s.g.core) (mmaFmt f) base, pc := lanePc s, flags := 0 }

/-- UE for the bad bytes of the B tile: the lowest in the order of columns, logged with its B-store offset for the lowest
active row (02 R50, R52). -/
def noteB (s : State) (f : LaneWord) (act : W32) : State × BitVec 8 :=
  let base := 256 * f.imm.toNat
  let bad := (coreOf s s.g.core).poison.filter (fun o => base ≤ o && o < base + bTileSize (mmaFmt f))
  let col (o : Nat) : Nat := if o - base < 16384 then (o - base) / 128 else (o - base - 16384) / 32
  match sortBy (fun o => col o * 2 ^ 24 + o) bad, lanesOf act with
  | o :: _, i :: _ => ({ s with log := s.log ++ [laneRecord s (.bstore o) i (col o)] }, flagUE)
  | _, _ => (s, 0)

/-- MMA: A, the scales, the band word and the B tile are read at issue, once the array is free; the rows are written at
the completion (09 R177, R178). A unit of the tile that a CPYB writes in the meantime may yet be read (`meetMma`). -/
def execMma (f : LaneWord) (s : State) : Out :=
  laneIssue f.form.length f.pred (mmaReads f) [dst f.d 1] s (fun act s1 =>
    let s2 := earlyCopies (completeMma s1 s1.g.core) (256 * f.imm.toNat) (bTileSize (mmaFmt f))
    let x := mmaInputs s2 f act
    let r := x.result
    let (s3, ue) := noteTile s2 (tileOf f.d) 3 (rowCells (lanesOf act))
    let (s4, ub) := noteB s3 f act
    let c := coreOf s4 s4.g.core
    let x := { x with flags := r.2 }
    .ok (setCore s4 { c with mma := some ⟨s.g.gid, tileOf f.d, mmaTag (mmaFmt f), r.1, some x⟩ }, r.2 ||| ue ||| ub))

/-- MMA_COMPLETE: the end of the eighth clock of the MMA on a core's array (09 R178). -/
def execMmaComplete (s : State) : Out := .next (completeMma s s.ev.core)

/-! ### Tile moves (09 R180 to R183) -/

/-- The tag that MOD [0] names for a tile. -/
def tileTag (f : LaneWord) : BitVec 4 := if f.mod.getLsbD 0 then 1 else 3

/-- TZERO. -/
def execTzero (f : LaneWord) (s : State) : Out :=
  laneIssue f.form.length 0 [] [dst f.d 1] s (fun act s1 =>
    let g := (rowCells (lanesOf act)).foldl (fun g c => writeT g (tileOf f.d) c.1 c.2 0) s1.g
    .ok ({ s1 with g := setTagT g (tileOf f.d) (tileTag f) }, 0))

/-- The column that b names in a lane. -/
def columnOf (s : State) (f : LaneWord) (i : Nat) : Nat := (readOpnd s f.b.toNat i).toNat % 128

/-- TRD: d takes the tile's tag (09 R181). -/
def execTrd (f : LaneWord) (s : State) : Out :=
  laneIssue f.form.length f.pred [tileOpnd 0 f.a .any, src 1 f.b .any] [dst f.d 1] s (fun act s1 =>
    let t := tileOf f.a
    let cells := (lanesOf act).map (fun i => (i, columnOf s1 f i))
    let vals := cells.map (fun c => (c.1, readTile s1 t c.1 c.2))
    let (s2, ue) := noteTile s1 t 0 cells
    .ok (landResult s2 f.la (keyWrites s2.g f.d.toNat vals (fun _ => tagT s2.g t)), ue))

/-- TWR: the whole tile takes the tag (09 R181). -/
def execTwr (f : LaneWord) (s : State) : Out :=
  laneIssue f.form.length f.pred [src 0 f.a .any, src 1 f.b .any] [dst f.d 1] s (fun act s1 =>
    let g := (lanesOf act).foldl (fun g i =>
      writeT g (tileOf f.d) i (columnOf s1 f i) (readOpnd s1 f.a.toNat i)) s1.g
    .ok ({ s1 with g := setTagT g (tileOf f.d) (tileTag f) }, 0))

/-- TSCL: one rounding, FTZ ignored (09 R182). -/
def execTscl (f : LaneWord) (s : State) : Out :=
  laneIssue f.form.length f.pred [tileOpnd 0 f.a acceptF32, src 1 f.b acceptF32] [dst f.d 1] s (fun act s1 =>
    let rm := modRm f (laneEnv s1.g)
    let cells := rowCells (lanesOf act)
    let rs := cells.map (fun c => (c, f32Mul rm false (readTile s1 (tileOf f.a) c.1 c.2) (readOpnd s1 f.b.toNat c.1)))
    let (s2, ue) := noteTile s1 (tileOf f.a) 0 cells
    let g := rs.foldl (fun g r => writeT g (tileOf f.d) r.1.1 r.1.2 r.2.1) s2.g
    .ok ({ s2 with g := setTagT g (tileOf f.d) 3 }, rs.foldl (fun fl r => fl ||| r.2.2) ue))

/-! ### TLD and TST (09 R183) -/

/-- The bytes of a tile row. -/
abbrev rowSize : Nat := 512

/-- Whether the rows are in scratchpad. -/
def inSpad (f : LaneWord) : Bool := f.mod.getLsbD 0

/-- A lane's row of global memory checked: a multiple of 64, then the whole 512 bytes. -/
def globalRow (s : State) (need : Need) (f : LaneWord) (l : Nat) : Except AccFault (List Access) :=
  let va := laneEa s f l
  if va.toNat % 64 != 0 then .error ⟨0x06, 0, va⟩ else runCheck s need va rowSize

/-- The rows of the split's lanes in global memory. -/
def globalRows (s : State) (f : LaneWord) (act : W32) (need : Need) (use : Use) :
    Except Stop (List (Nat × List Access) × State) := do
  let xs ← perLane s (lanesOf act) (globalRow s need f)
  let s' ← laneConflicts s (xs.flatMap (fun p => (runSectors p.2 rowSize).map (fun a => (p.1, a)))) use
  pure (xs, s')

/-- The words of a lane's row of scratchpad, as core, bank and offset. -/
def spadRow (s : State) (f : LaneWord) (l : Nat) : Except AccFault (List (Nat × Nat × Nat)) := do
  let off := spadOffset s f l
  let _ ← spadPlace s f off 64 rowSize
  (List.range 128).mapM (fun (j : Nat) => spadPlace s f (off + 4 * (j : Int)) 4 4)

/-- The rows of the split's lanes in scratchpad; conflict detection takes one word of each sector. -/
def spadRows (s : State) (f : LaneWord) (act : W32) (use : Use) :
    Except Stop (List (Nat × List (Nat × Nat × Nat)) × State) := do
  let xs ← perLane s (lanesOf act) (spadRow s f)
  let s' ← spadConflicts s f (xs.flatMap (fun p => (p.2.filter (fun w => w.2.2 % 32 == 0)).map (fun w => (p.1, w)))) use
  pure (xs, s')

/-- The operands of TLD and TST besides the tile. -/
def rowReads (f : LaneWord) : List Opnd := [src 0 f.a acceptAddr, src 1 f.b acceptAddr]

/-- The words of a run of bytes. -/
def wordsOf (n : Nat) (bs : List Byte) : List W32 := (List.range n).map (fun j => word32 ((bs.drop (4 * j)).take 4))

/-- Rows written into a tile, whose tag stays. -/
def writeRows (g : Group) (t : Nat) (rows : List (Nat × List W32)) : Group :=
  rows.foldl (fun g r => r.2.zipIdx.foldl (fun g w => writeT g t r.1 w.2 w.1) g) g

/-- TLD: the rows land as one whole-tile write. -/
def execTld (f : LaneWord) (s : State) : Out :=
  laneIssue f.form.length 0 (rowReads f) [dst f.d 1] s (fun act s1 =>
    if inSpad f then do
      let (xs, s2) ← spadRows s1 f act .read
      let rows := xs.map (fun p => (p.1, p.2.map (fun w => bankWord s2 w.1 w.2.1 w.2.2)))
      pure ({ s2 with g := writeRows s2.g (tileOf f.d) rows }, 0)
    else do
      let (xs, s2) ← globalRows s1 f act .read .read
      let r := xs.foldl (fun (acc : List (Nat × List W32) × State × BitVec 8) p =>
        let x := rangeBytes acc.2.1 p.2 rowSize
        let s' := match x.2.2 with
          | some pa => { x.2.1 with log := x.2.1.log ++ [laneRecord s1 (.mem pa) p.1 0] }
          | none => x.2.1
        (acc.1 ++ [(p.1, wordsOf 128 x.1)], s', acc.2.2 ||| flagIf x.2.2.isSome flagUE)) ([], s2, 0)
      pure ({ r.2.1 with g := writeRows r.2.1.g (tileOf f.d) r.1 }, r.2.2))

/-- The words of one lane's row on their way: each is single-copy atomic. -/
def rowWords (s : State) (accs : List Access) (ws : List W32) (lane : Nat) : List PendWord × State :=
  let places := accs.flatMap (fun a => (List.range 16).map (fun k =>
    { a with pa := a.pa + 4 * k, va := a.va + BitVec.ofNat 64 (4 * k) }))
  (places.zip ws).foldl (fun (acc : List PendWord × State) p =>
    let r := storeWord acc.2 p.1 (bytes32 p.2) lane
    (acc.1 ++ [r.1], r.2)) ([], s)

/-- TST: lanes in ascending order; a global TST is one store (09 R183). -/
def execTst (f : LaneWord) (s : State) : Out :=
  laneIssueWith f.form.length 0 (rowReads f ++ [tileOpnd 3 f.d .any]) [] s (fun act fl s1 =>
    let row (s : State) (l : Nat) : List W32 := (List.range 128).map (fun j => readTile s (tileOf f.d) l j)
    if inSpad f then do
      let (xs, s2) ← spadRows s1 f act (.write 0)
      let (s3, ue) := noteTile s2 (tileOf f.d) 3 (rowCells (lanesOf act))
      pure (xs.foldl (fun acc p =>
        (p.2.zip (row s3 p.1)).foldl (fun acc w => setBankWord acc w.1.1 w.1.2.1 w.1.2.2 w.2) acc) s3, ue)
    else do
      let (xs, s2) ← globalRows s1 f act .write (.write 0)
      let (s3, ue) := noteTile s2 (tileOf f.d) 3 (rowCells (lanesOf act))
      let r := xs.foldl (fun (acc : List PendWord × State) p =>
        let w := rowWords acc.2 p.2 (row s3 p.1) p.1
        (acc.1 ++ w.1, w.2)) ([], s3)
      pure (issueWords r.2 r.1 (fl ||| ue), ue))

end Sys2Proof.Machine
end

