-- ==== Sys2Proof/Machine/Geometry.lean ====
section
/-! DEFINITION. Box trees and the exact edge unit (10 R185 to R210). Positions are integers in units of 2^−24 cells, ray
parameters are exact ratios of integers. -/

namespace Sys2Proof.Machine

/-! ### Exact ratios -/

/-- A ratio of an integer and a positive denominator. -/
structure Ratio where
  num : Int
  den : Nat
  deriving DecidableEq, Repr

/-- n ÷ d for a nonzero d. -/
def Ratio.of (n d : Int) : Ratio := if d < 0 then ⟨-n, d.natAbs⟩ else ⟨n, d.natAbs⟩
/-- Zero. -/
def Ratio.zero : Ratio := ⟨0, 1⟩
/-- Whether a ratio is at most another. -/
def Ratio.le (a b : Ratio) : Bool := a.num * b.den ≤ b.num * a.den
/-- The larger of two ratios. -/
def Ratio.max (a b : Ratio) : Ratio := if a.le b then b else a
/-- The smaller of two ratios. -/
def Ratio.min (a b : Ratio) : Ratio := if a.le b then a else b
/-- A sum. -/
def Ratio.add (a b : Ratio) : Ratio := ⟨a.num * b.den + b.num * a.den, a.den * b.den⟩
/-- A ratio divided by a positive integer. -/
def Ratio.div (a : Ratio) (n : Nat) : Ratio := ⟨a.num, a.den * n⟩
/-- A ratio rounded once into FP32; an exact zero is +0. -/
def Ratio.round (rm : Rm) (a : Ratio) : W32 :=
  let k := 64 + Nat.log2 a.den
  let q := divBits a.num.natAbs a.den k
  BitVec.ofNat 32 (fp32.round rm false (a.num < 0) q.1 (-(k : Int)) q.2).1
/-- Whether a ratio is below an FP32 value, exactly; nothing is below a NaN. -/
def Ratio.below (a : Ratio) (w : W32) : Bool :=
  match fp32.decode w.toNat with
  | .nan => false
  | .inf neg => !neg
  | .fin neg m e => a.num * ((2 ^ (-e).toNat : Nat) : Int) < signedInt neg m * ((2 ^ e.toNat : Nat) : Int) * (a.den : Int)

/-! ### Vectors -/

/-- Three integers. -/
structure V3 where
  x : Int
  y : Int
  z : Int
  deriving DecidableEq, Repr

/-- A difference. -/
def V3.sub (a b : V3) : V3 := ⟨a.x - b.x, a.y - b.y, a.z - b.z⟩
/-- A sum. -/
def V3.add (a b : V3) : V3 := ⟨a.x + b.x, a.y + b.y, a.z + b.z⟩
/-- A multiple. -/
def V3.scale (k : Int) (a : V3) : V3 := ⟨k * a.x, k * a.y, k * a.z⟩
/-- A dot product. -/
def V3.dot (a b : V3) : Int := a.x * b.x + a.y * b.y + a.z * b.z
/-- A cross product. -/
def V3.cross (a b : V3) : V3 := ⟨a.y * b.z - a.z * b.y, a.z * b.x - a.x * b.z, a.x * b.y - a.y * b.x⟩
/-- The three axes. -/
def V3.list (a : V3) : List Int := [a.x, a.y, a.z]
/-- Whether some axis satisfies `p`. -/
def V3.any (a : V3) (p : Int → Bool) : Bool := p a.x || p a.y || p a.z

/-- Origin units to a cell. -/
abbrev cell : Int := 16777216

/-! ### Status words (10 R191) -/

/-- OK. -/
abbrev stOk : W32 := 0
/-- MISS. -/
abbrev stMiss : W32 := 1
/-- BADREC. -/
abbrev stBadRec : W32 := 2
/-- BADIDX. -/
abbrev stBadIdx : W32 := 3
/-- BADDIR. -/
abbrev stBadDir : W32 := 4
/-- DEPTH. -/
abbrev stDepth : W32 := 5
/-- RANGE. -/
abbrev stRange : W32 := 6
/-- INEXACT. -/
abbrev stInexact : W32 := 7
/-- ESCAPE. -/
abbrev stEscape : W32 := 8
/-- PARALLEL. -/
abbrev stParallel : W32 := 9
/-- GROW. -/
abbrev stGrow : W32 := 0x100
/-- BACK. -/
abbrev stBack : W32 := 0x200

/-- The lowest nonzero code of several conditions. -/
def lowest (xs : List W32) : W32 :=
  xs.foldl (fun a x => if x = 0 then a else if a = 0 then x else if x < a then x else a) 0

/-- +∞. -/
abbrev f32Inf : W32 := 0x7F800000

/-! ### Records in registers (10 R188, R189) -/

/-- A ray or eye record as read: its status, its exact fields, its words. -/
structure Ray where
  status : W32
  o      : V3
  d      : V3
  cull   : W32
  depth  : Nat
  tbase  : Nat
  tmax   : W32
  deriving DecidableEq, Repr

/-- Whether bits [31:n] of a word are all equal. -/
def extended (w : W32) (n : Nat) : Bool :=
  let v := w.toNat / 2 ^ n
  v == 0 || v == 2 ^ (32 - n) - 1

/-- An axis of an origin: s72 in three words. -/
def originAxis (w0 w1 w2 : W32) : Int := ((w2.setWidth 8) ++ w1 ++ w0 : BitVec 72).toInt

/-- A record's word. -/
def wordAt (ws : List W32) (i : Nat) : W32 := ws.getD i 0

/-- A ray record, or an eye record. -/
def readRay (eye : Bool) (ws : List W32) : Ray :=
  let w := wordAt ws
  let bad := !extended (w 2) 7 || !extended (w 5) 7 || !extended (w 8) 7 || (w 12).toNat / 1024 != 0 ||
    40 < (w 12).toNat % 256 || (eye && (w 9 != 0 || w 10 != 0 || w 11 != 0))
  let dir := !extended (w 9) 23 || !extended (w 10) 23 || !extended (w 11) 23
  { status := if bad then stBadRec else if dir then stBadDir else stOk
    o := ⟨originAxis (w 0) (w 1) (w 2), originAxis (w 3) (w 4) (w 5), originAxis (w 6) (w 7) (w 8)⟩
    d := ⟨(w 9).toInt, (w 10).toInt, (w 11).toInt⟩
    cull := w 12 &&& 0x300, depth := (w 12).toNat % 256, tbase := (w 13).toNat + (w 14).toNat * 2 ^ 32, tmax := w 15 }

/-- The words of an origin axis. -/
def axisWords (v : Int) : List W32 :=
  let b := BitVec.ofInt 96 v
  [b.extractLsb' 0 32, b.extractLsb' 32 32, b.extractLsb' 64 32]

/-- A record's words. -/
def packRay (o : V3) (dir : List W32) (flags : W32) (tbase : Nat) (tmax : W32) : List W32 :=
  axisWords o.x ++ axisWords o.y ++ axisWords o.z ++ dir ++
  [flags, BitVec.ofNat 32 tbase, BitVec.ofNat 32 (tbase / 2 ^ 32), tmax]

/-- The three bytes of a word as a point. -/
def pointOf (w : W32) : V3 := ⟨w.toNat % 256, w.toNat / 256 % 256, w.toNat / 65536 % 256⟩

/-! ### Slabs (10 R193) -/

/-- An axis's part of a slab: the bounds meet the running entry and exit; none when nothing is left. -/
def slabAxis (acc : Option (Option (Ratio × Ratio))) (p : Int × Int × Int × Int) : Option (Option (Ratio × Ratio)) :=
  match acc with
  | none => none
  | some r =>
    let (o, d, lo, hi) := p
    if hi < lo then none
    else if d = 0 then (if lo ≤ o && o ≤ hi then some r else none)
    else
      let a := Ratio.of (lo - o) (d * cell)
      let b := Ratio.of (hi - o) (d * cell)
      let near := a.min b
      let far := a.max b
      match r with
      | none => some (some (near, far))
      | some (ten, tex) => some (some (ten.max near, tex.min far))

/-- max(ten, 0) for a ray that meets the closed box from lo to hi, in the frame's units of t. -/
def slabEntry (o d lo hi : V3) : Option Ratio :=
  match [(o.x, d.x, lo.x, hi.x), (o.y, d.y, lo.y, hi.y), (o.z, d.z, lo.z, hi.z)].foldl slabAxis (some none) with
  | none => none
  | some none => some Ratio.zero
  | some (some (ten, tex)) => if !ten.le tex || tex.num < 0 then none else some (ten.max Ratio.zero)

/-- The exact root parameter of a local parameter. -/
def rootParam (r : Ray) (t : Ratio) : Ratio := Ratio.add ⟨r.tbase, 2 ^ 40⟩ (t.div (2 ^ r.depth))

/-! ### Memory as the geometry instructions reach it (10 R190, R192) -/

/-- What an instruction has done to memory so far: the state, the words its earlier lanes stored, the words of its
store, its flags, and the faults of the lane's accesses so far. -/
structure GeoMem where
  s      : State
  wrote  : List (Nat × W32)
  words  : List PendWord
  flags  : BitVec 8
  faults : List AccFault
  deriving DecidableEq, Repr

/-- A lane's computation over memory. -/
abbrev GeoM := StateT GeoMem (Except AccFault)

/-- The number under which an instruction remembers a word it has stored. -/
def placeKey (a : Access) : Nat := ptePeer a.pte * 2 ^ 64 + a.pa

/-- UE and a log record for a bad word read (02 R50; 22 R311). -/
def geoBad (l : Nat) (a : Access) (m : GeoMem) : GeoMem :=
  { m with s := { m.s with log := m.s.log ++ [laneRecord m.s (.mem a.pa) l 0] }, flags := m.flags ||| flagUE }

/-- A fault of the lane noted; of several the kind that comes first is raised (18 R285). -/
def geoNote (f : AccFault) (m : GeoMem) : GeoMem := { m with faults := m.faults ++ [f] }

/-- The fault that a lane's accesses raise. -/
def worstFault (fs : List AccFault) : Option AccFault := (sortBy (fun f => faultRank f.code) fs).head?

/-- Conflict detection of an access. -/
def geoConflict (a : Access) (use : Use) (m : GeoMem) : GeoMem :=
  match conflictCheck m.s a use with
  | .ok s => { m with s := s }
  | .error f => geoNote f m

/-- A checked word read as a lane load. -/
def geoLoad (both : List Nat) (l : Nat) (a : Access) (m : GeoMem) : W32 × GeoMem :=
  let m := geoConflict a .read m
  match m.wrote.find? (fun p => p.1 == placeKey a) with
  | some p => (p.2, m)
  | none =>
    let r := loadFrom m.s a 4 (both.contains (a.pa / 64))
    let m := { m with s := r.2 }
    if wordLost m.s a then (0, geoBad l a m) else (word32 r.1, m)

/-- Words read together, none of whose addresses depends on another. Where one cannot be read the instruction faults. -/
def geoReads (l : Nat) (vas : List W64) : GeoM (List W32) := fun m =>
  let xs := vas.map (fun va => checkAccess m.s m.s.g.ctx m.s.g.core [0] .read 4 va)
  let as := xs.filterMap Except.toOption
  let r := as.foldl (fun (acc : List W32 × GeoMem) a =>
    let x := geoLoad (bothSectors as) l a acc.2
    (acc.1 ++ [x.1], x.2)) ([], m)
  match worstFault (xs.filterMap faultOf ++ (if as.length < vas.length then r.2.faults else [])) with
  | some f => .error f
  | none => .ok r

/-- The addresses of consecutive words. -/
def wordVas (va : W64) (n : Nat) : List W64 := (List.range n).map (fun i => va + BitVec.ofNat 64 (4 * i))

/-- Consecutive words. -/
def geoWords (l : Nat) (va : W64) (n : Nat) : GeoM (List W32) := geoReads l (wordVas va n)

/-- A word. -/
def geoWord (l : Nat) (va : W64) : GeoM W32 := do return wordAt (← geoReads l [va]) 0

/-- A fault of the lane. -/
def geoFault {α : Type} (f : AccFault) : GeoM α := fun _ => .error f

/-- A word written, once its byte has passed its checks. -/
def geoPut (va : W64) (put : Access → GeoMem → GeoMem) : GeoM Unit := fun m =>
  match checkAccess m.s m.s.g.ctx m.s.g.core [0] .write 4 va with
  | .ok a => .ok ((), put a m)
  | .error f => .ok ((), geoNote f m)

/-- A word stored as VST stores it. -/
def geoStore (l : Nat) (va : W64) (w : W32) : GeoM Unit :=
  geoPut va (fun a m =>
    let m := geoConflict a (.write 0) m
    let r := storeWord m.s a (bytes32 w) l
    { m with s := r.2, wrote := (placeKey a, w) :: m.wrote, words := m.words ++ [r.1] })

/-- A bound widened by an atomic at the last-level cache, permitted on checked pages (10 R192, R203). -/
def geoWiden (l : Nat) (va : W64) (up : Bool) (old v : W32) : GeoM Unit :=
  geoPut va (fun a m =>
    let c := coreOf m.s m.s.g.core
    let s := if (lineOf c a.pa).isSome then setCore m.s (l1Drop c a.pa) else m.s
    let op := if up then 12 else 11
    let w : PendWord := if a.peer then .peer (peerDevice s s.g.ctx a) a.pa l (some (op, v))
      else .atomic a.pa op v (laggingPage s s.g.ctx a) l
    { m with s := s, wrote := (placeKey a, boundWord up old v) :: m.wrote, words := m.words ++ [w] })

/-- A box address held in registers: a multiple of 64, sign-extended (10 R190). -/
def geoAddress (va : W64) : GeoM Unit := if va.toNat % 64 != 0 || !vaOk va then geoFault ⟨0x06, 0, va⟩ else pure ()

/-- Whether a pointer read from a record is well formed (10 R186). -/
def pointerOk (va : W64) (align : Nat) : Bool := va.toNat % align == 0 && vaOk va

/-- One lane's computation with the faults of all its accesses. -/
def geoLane (m : GeoMem) (one : GeoM (List W32)) : Except AccFault (List W32 × GeoMem) :=
  match one.run { m with faults := [] } with
  | .ok r =>
    (match worstFault r.2.faults with
    | some f => .error f
    | none => .ok r)
  | .error f => .error f

/-- Every lane in ascending order: the words of its results, or the instruction's fault. -/
def geoLanes (s : State) (ls : List Nat) (one : Nat → GeoM (List W32)) :
    Except Stop (List (Nat × List W32) × GeoMem) :=
  let r := ls.foldl (fun (acc : List (Nat × List W32) × GeoMem × List (Nat × AccFault)) l =>
    match geoLane acc.2.1 (one l) with
    | .ok (ws, m) => (acc.1 ++ [(l, ws)], m, acc.2.2)
    | .error f => (acc.1, acc.2.1, acc.2.2 ++ [(l, f)])) ([], ⟨s, [], [], 0, []⟩, [])
  match r.2.2 with
  | [] => .ok (r.1, r.2.1)
  | faults => .error (lanesStop s faults)

/-- A geometry instruction: its result registers, each with a tag, from each lane's words. `long` for GBOX and GTRI,
whose results may be in flight (03 R61). What one instruction stores and widens is one store of the group's counter, as
08 R147 and R150 count an instruction; for a GUPD that does both the manual does not say so (DESIGN CHOICE). -/
def geoIssue (f : LaneWord) (long : Bool) (reads : List Opnd) (tags : List (BitVec 4)) (s : State)
    (one : State → Nat → GeoM (List W32)) : Out :=
  laneIssueWith f.form.length f.pred reads [dst f.d tags.length] s (fun act fl s1 => do
    let (rows, m) ← geoLanes s1 (lanesOf act) (one s1)
    let ws := tags.zipIdx.map (fun t => (f.d.toNat + t.2, t.1, rows.map (fun r => (r.1, wordAt r.2 t.2))))
    let s2 := issueWords m.s m.words (fl ||| m.flags)
    pure (if long then landResult s2 f.la ws else { s2 with g := writeKeys s2.g ws }, m.flags))

/-! ### Operands -/

/-- GEO records. -/
def acceptGeo : Accept := .only [12]

/-- Consecutive registers of a lane. -/
def laneWords (s : State) (code : BitVec 11) (n l : Nat) : List W32 :=
  (List.range n).map (fun i => readOpnd s (code.toNat + i) l)

/-- A primitive reference's operands: address, index, and the reserved word, which is not read (10 R189). -/
def refOpnds (slot : Nat) (code : BitVec 11) : List Opnd :=
  [⟨slot, code.toNat, 2, acceptAddr⟩, ⟨slot, code.toNat + 2, 1, acceptInt⟩, ⟨slot, code.toNat + 3, 1, .unread⟩]

/-- A primitive reference: box address and index. -/
def readRef (s : State) (code : BitVec 11) (l : Nat) : W64 × Nat :=
  (readOpnd s (code.toNat + 1) l ++ readOpnd s code.toNat l, (readOpnd s (code.toNat + 2) l).toNat)

/-! ### Records in memory (10 R186, R187) -/

/-- NCHILD of a record's first word. -/
def childCount (w : W32) : Nat := w.toNat / 2 ^ 28
/-- STEP + 1 of a record's first word. -/
def stepOf (w : W32) : Nat := w.toNat / 2 ^ 25 % 8 + 1
/-- A pointer in two words of a record. -/
def pointerAt (ws : List W32) (i : Nat) : W64 := wordAt ws (i + 1) ++ wordAt ws i

/-- The words of the box record at a register's address. -/
def geoBox (l : Nat) (va : W64) : GeoM (List W32) := do
  geoAddress va
  geoWords l va 11

/-- A triangle of a box: the status, BOXID and its vertices. -/
def geoTriangle (l : Nat) (va : W64) (j : Nat) : GeoM (W32 × W32 × V3 × V3 × V3) := do
  let w ← geoBox l va
  let none_ (st : W32) : W32 × W32 × V3 × V3 × V3 := (st, wordAt w 3, ⟨0, 0, 0⟩, ⟨0, 0, 0⟩, ⟨0, 0, 0⟩)
  let tris := pointerAt w 8
  let verts := pointerAt w 6
  if 8 < childCount (wordAt w 0) || !pointerOk tris 8 || !pointerOk verts 4 then return none_ stBadRec
  if (wordAt w 10).toNat / 65536 ≤ j then return none_ stBadIdx
  let t ← geoWords l (tris + BitVec.ofNat 64 (8 * j)) 2
  let nvert := (wordAt w 10).toNat % 65536
  let i0 := (wordAt t 0).toNat % 65536
  let i1 := (wordAt t 0).toNat / 65536
  let i2 := (wordAt t 1).toNat % 65536
  if nvert ≤ i0 || nvert ≤ i1 || nvert ≤ i2 then return none_ stBadIdx
  let vs ← geoReads l ([i0, i1, i2].map (fun i => verts + BitVec.ofNat 64 (4 * i)))
  return (stOk, wordAt w 3, pointOf (wordAt vs 0), pointOf (wordAt vs 1), pointOf (wordAt vs 2))

/-! ### Edge tests (10 R194 to R196) -/

/-- Whether the first nonzero axis, in the order x, y, z, is positive. -/
def leadsPositive (g : V3) : Bool := match g.list.find? (fun v => v != 0) with | some v => 0 < v | none => false

/-- An edge of a ray (10 R194): E, and G for the tie. -/
def rayEdge (d a b : V3) (va vb : V3) : Int × V3 := (d.dot (a.cross b), (vb.sub va).cross d)

/-- Whether an edge passes. -/
def edgePasses (e : Int × V3) : Bool := 0 < e.1 || (e.1 == 0 && leadsPositive e.2)

/-- The reversed edge. -/
def reversed (e : Int × V3) : Int × V3 := (-e.1, e.2.scale (-1))

/-- An edge of a tile (10 R195): A, B and C. -/
def tileEdge (t : List W32) (a b : V3) : Int × Int × Int :=
  let w := a.cross b
  let at_ (i : Nat) : V3 := ⟨(wordAt t i).toInt, (wordAt t (i + 1)).toInt, (wordAt t (i + 2)).toInt⟩
  ((at_ 0).dot w, (at_ 3).dot w, (at_ 6).dot w)

/-- Whether a pixel is inside an edge, or with `sg` −1 inside the reversed edge. -/
def pixelInside (sg : Int) (e : Int × Int × Int) (x y : Nat) : Bool :=
  let v := sg * (e.1 + e.2.1 * x + e.2.2 * y)
  0 < v || (v == 0 && (0 < sg * e.2.1 || (e.2.1 == 0 && 0 < sg * e.2.2)))

/-! ### GDOWN (10 R193) -/

/-- GDOWN's words in a lane: the record, then the status. -/
def downWords (ws child : List W32) : List W32 :=
  let r := readRay false ws
  let c := wordAt child
  let s := stepOf (c 0)
  let depth := r.depth + s
  if r.status = stBadRec || 8 < childCount (c 0) then ws ++ [stBadRec]
  else if r.status != stOk then ws ++ [stBadDir]
  else if 40 < depth then ws ++ [stDepth]
  else
    let o1 := (r.o.sub ((pointOf (c 0)).scale cell)).scale ((2 ^ s : Nat) : Int)
    let moves := r.d.any (fun v => v != 0)
    let entry := slabEntry o1 r.d ((pointOf (c 1)).scale cell) ((pointOf (c 2)).scale cell)
    let n : Nat := if moves then match entry with | some t => t.num.toNat / t.den | none => 0 else 0
    let o2 := o1.add (r.d.scale ((n : Int) * cell))
    let tb := r.tbase + n * 2 ^ (40 - depth)
    if 2 ^ 64 ≤ tb || o2.any (fun v => v < -(2 ^ 71) || 2 ^ 71 ≤ v) then ws ++ [stRange]
    else packRay o2 ((ws.drop 9).take 3) (r.cull ||| BitVec.ofNat 32 depth) tb r.tmax ++
      [if moves && entry.isNone then stMiss else stOk]

/-- GDOWN. -/
def execGdown (f : LaneWord) (s : State) : Out :=
  geoIssue f false [srcs 0 f.a 16 acceptGeo, addrOpnd 1 f.b] (List.replicate 16 12 ++ [2]) s (fun s l => do
    let va := laneBase s f.b.toNat l
    geoAddress va
    let c ← geoWords l va 3
    pure (downWords (laneWords s f.a 16 l) c))

/-! ### GBOX (10 R198) -/

/-- The first words of the records of `n` children. -/
def kidVas (va : W64) (n : Nat) : List W64 := (List.range n).flatMap (fun i => wordVas (va + BitVec.ofNat 64 (64 * i)) 3)

/-- The children's words one by one; none when a child is malformed. -/
def kidWords (n : Nat) (ws : List W32) : Option (List (List W32)) :=
  let kids := (List.range n).map (fun i => (ws.drop (3 * i)).take 3)
  if kids.any (fun c => 8 < childCount (wordAt c 0)) then none else some kids

/-- The records of the children, all of them read. -/
def geoChildren (l : Nat) (va : W64) (n : Nat) : GeoM (Option (List (List W32))) := do
  return kidWords n (← geoReads l (kidVas va n))

/-- A hit kept in the order of its entry, ties by the lower child. -/
def insertHit (h : Ratio × Nat × W32) : List (Ratio × Nat × W32) → List (Ratio × Nat × W32)
  | [] => [h]
  | x :: xs => if x.1.le h.1 then x :: insertHit h xs else h :: x :: xs

/-- A child's entry, when it is hit. -/
def childHit (r : Ray) (c : List W32) : Option Ratio :=
  let s := stepOf (wordAt c 0)
  let bound (w : W32) : V3 := ((pointOf (wordAt c 0)).scale cell).add ((pointOf w).scale (cell / ((2 ^ s : Nat) : Int)))
  match slabEntry r.o r.d (bound (wordAt c 1)) (bound (wordAt c 2)) with
  | some t => if (rootParam r t).below r.tmax then some t else none
  | none => none

/-- GBOX's words for the children of a well-formed box. -/
def boxWords (r : Ray) (kids : List (List W32)) : List W32 :=
  let hits := kids.zipIdx.foldl (fun acc p =>
    match childHit r p.1 with
    | some t => insertHit (t, p.2, wordAt p.1 0) acc
    | none => acc) ([] : List (Ratio × Nat × W32))
  match hits with
  | [] => [0, 0, f32Inf, stMiss]
  | h :: _ =>
    let mask := hits.foldl (fun n x => n + 2 ^ x.2.1 + (if x.2.2.getLsbD 24 then 2 ^ (8 + x.2.1) else 0) +
      (if childCount x.2.2 != 0 then 2 ^ (16 + x.2.1) else 0)) 0
    let order := hits.zipIdx.foldl (fun n x => n + (8 + x.1.2.1) * 16 ^ x.2) 0
    [BitVec.ofNat 32 mask, BitVec.ofNat 32 order, (rootParam r h.1).round .rd, stOk]

/-- GBOX. -/
def execGbox (f : LaneWord) (s : State) : Out :=
  geoIssue f true [srcs 0 f.a 16 acceptGeo, addrOpnd 1 f.b] [2, 2, 3, 2] s (fun s l => do
    let r := readRay false (laneWords s f.a 16 l)
    let w ← geoBox l (laneBase s f.b.toNat l)
    let n := childCount (wordAt w 0)
    let kidsAt := pointerAt w 4
    let kids ← if 8 < n || (n != 0 && !pointerOk kidsAt 64) then pure none else geoChildren l kidsAt n
    let st := lowest [r.status, if kids.isNone then stBadRec else stOk]
    pure (if st != stOk then [0, 0, f32Inf, st] else boxWords r (kids.getD [])))

/-! ### GTRI (10 R199) -/

/-- GTRI's t, u, v and status. -/
def triWords (r : Ray) (v0 v1 v2 : V3) : W32 × W32 × W32 × W32 :=
  let a (v : V3) : V3 := (v.scale cell).sub r.o
  let e01 := rayEdge r.d (a v0) (a v1) v0 v1
  let e12 := rayEdge r.d (a v1) (a v2) v1 v2
  let e20 := rayEdge r.d (a v2) (a v0) v2 v0
  let es := [e01, e12, e20]
  let face : Option W32 :=
    if es.all edgePasses && !r.cull.getLsbD 9 then some stOk
    else if (es.map reversed).all edgePasses && !r.cull.getLsbD 8 then some stBack
    else none
  let sum := e01.1 + e12.1 + e20.1
  match face with
  | none => (f32Inf, 0, 0, stMiss)
  | some st =>
    if sum = 0 then (f32Inf, 0, 0, stParallel)
    else
      let n := (v1.sub v0).cross (v2.sub v0)
      let tl := Ratio.of ((a v0).dot n) (r.d.dot n * cell)
      let tr := rootParam r tl
      if tl.num < 0 || !tr.below r.tmax then (f32Inf, 0, 0, stMiss)
      else (tr.round .rn, (Ratio.of e20.1 sum).round .rn, (Ratio.of e01.1 sum).round .rn, st)

/-- GTRI. -/
def execGtri (f : LaneWord) (s : State) : Out :=
  geoIssue f true (srcs 0 f.a 16 acceptGeo :: refOpnds 1 f.b) [3, 3, 3, 2, 2, 2] s (fun s l => do
    let r := readRay false (laneWords s f.a 16 l)
    let ref := readRef s f.b l
    let t ← geoTriangle l ref.1 ref.2
    let st := lowest [r.status, t.1]
    let x := if st != stOk then (f32Inf, 0, 0, st) else triWords r t.2.2.1 t.2.2.2.1 t.2.2.2.2
    pure [x.1, x.2.1, x.2.2.1, t.2.1, BitVec.ofNat 32 ref.2, x.2.2.2])

/-! ### GHIT (10 R200) -/

/-- The better of two hit records. -/
def betterHit (a b : List W32) : List W32 :=
  let ok (r : List W32) : Bool := (wordAt r 5).toNat % 256 == 0
  let x := fp32.decode (wordAt a 0).toNat
  let y := fp32.decode (wordAt b 0).toNat
  let ids (r : List W32) : Nat := (wordAt r 3).toNat * 2 ^ 32 + (wordAt r 4).toNat
  if ok a && ok b then (if y.lt x || (y.eq x && ids b < ids a) then b else a)
  else if ok b then b else a

/-- GHIT. -/
def execGhit (f : LaneWord) (s : State) : Out :=
  let hit (slot : Nat) (c : BitVec 11) : List Opnd := [srcs slot c 3 acceptF32, ⟨slot, c.toNat + 3, 3, acceptInt⟩]
  geoIssue f false (hit 0 f.a ++ hit 1 f.b) [3, 3, 3, 2, 2, 2] s (fun s l =>
    pure (betterHit (laneWords s f.a 6 l) (laneWords s f.b 6 l)))

/-! ### GTILE (10 R201) -/

/-- GTILE's coverage and status. -/
def tileWords (r : Ray) (t : List W32) (v0 v1 v2 : V3) : List W32 :=
  let a (v : V3) : V3 := (v.scale cell).sub r.o
  let es := [tileEdge t (a v0) (a v1), tileEdge t (a v1) (a v2), tileEdge t (a v2) (a v0)]
  let p := (a v0).dot ((v1.sub v0).cross (v2.sub v0))
  let sg : Int := if 0 < p && !r.cull.getLsbD 9 then 1 else if p < 0 && !r.cull.getLsbD 8 then -1 else 0
  let cov := if sg = 0 then 0 else (List.range 64).foldl (fun n i =>
    if es.all (fun e => pixelInside sg e (i % 8) (i / 8)) then n + 2 ^ i else n) 0
  [BitVec.ofNat 32 cov, BitVec.ofNat 32 (cov / 2 ^ 32), if cov = 0 then stMiss else if sg < 0 then stBack else stOk]

/-- GTILE. -/
def execGtile (f : LaneWord) (s : State) : Out :=
  geoIssue f false ([srcs 0 f.a 16 acceptGeo, srcs 1 f.b 9 acceptGeo] ++ refOpnds 2 f.c) [2, 2, 2] s (fun s l => do
    let r := readRay true (laneWords s f.a 16 l)
    let t := laneWords s f.b 9 l
    let ref := readRef s f.c l
    let x ← geoTriangle l ref.1 ref.2
    let dir := if t.all (fun w => extended w 23) then stOk else stBadDir
    let st := lowest [r.status, dir, x.1]
    pure (if st != stOk then [0, 0, st] else tileWords r t x.2.2.1 x.2.2.2.1 x.2.2.2.2))

/-! ### GQNT (10 R202) -/

/-- An axis quantised: the byte, whether it escapes, whether it is inexact. -/
def quantAxis (w : W32) : Nat × Bool × Bool :=
  match fp32.decode w.toNat with
  | .nan => (0, true, false)
  | .inf neg => (if neg then 0 else 255, true, false)
  | .fin neg m e =>
    let q := XVal.toIntegral .rn neg m e
    let v := signedInt neg q
    if v < 0 then (0, true, false)
    else if 255 < v then (255, true, false)
    else (q, false, !(XVal.fin neg m e).eq (.fin neg q 0))

/-- GQNT's vertex word and status. -/
def quantWords (x y z : W32) : List W32 :=
  let a := quantAxis x
  let b := quantAxis y
  let c := quantAxis z
  let st := if a.2.1 || b.2.1 || c.2.1 then stEscape else if a.2.2 || b.2.2 || c.2.2 then stInexact else stOk
  [BitVec.ofNat 32 (a.1 + b.1 * 256 + c.1 * 65536), st]

/-- GQNT. -/
def execGqnt (f : LaneWord) (s : State) : Out :=
  geoIssue f false [srcs 0 f.a 3 acceptF32] [12, 2] s (fun s l =>
    let w := laneWords s f.a 3 l
    pure (quantWords (wordAt w 0) (wordAt w 1) (wordAt w 2)))

/-! ### GUPD (10 R203) -/

/-- GUPD in a lane. -/
def updLane (s : State) (f : LaneWord) (l : Nat) : GeoM (List W32) := do
  let ref := readRef s f.a l
  let w ← geoBox l ref.1
  let verts := pointerAt w 6
  let e := (wordAt w 1).toNat / 2 ^ 24
  if 8 < childCount (wordAt w 0) || 47 < e || !pointerOk verts 4 then return [stBadRec]
  if (wordAt w 10).toNat % 65536 ≤ ref.2 then return [stBadIdx]
  let vva := verts + BitVec.ofNat 64 (4 * ref.2)
  let old ← geoWord l vva
  let k := (readOpnd s f.c.toNat l).toNat
  if 47 < k then return [stRange]
  let delta (i : Nat) : Int := (readOpnd s (f.b.toNat + i) l).toInt * ((2 ^ k : Nat) : Int)
  let unit : Int := ((2 ^ e : Nat) : Int)
  let ds : V3 := ⟨delta 0, delta 1, delta 2⟩
  if ds.any (fun v => v % unit != 0) then return [stInexact]
  let new := (pointOf old).add ⟨ds.x / unit, ds.y / unit, ds.z / unit⟩
  if new.any (fun v => v < 0 || 255 < v) then return [stEscape]
  let word := old &&& 0xFF000000 ||| BitVec.ofNat 32 (new.x.toNat + new.y.toNat * 256 + new.z.toNat * 65536)
  geoStore l vva word
  let lo := pointOf (wordAt w 1)
  let hi := pointOf (wordAt w 2)
  let inside := lo.x ≤ new.x && new.x ≤ hi.x && lo.y ≤ new.y && new.y ≤ hi.y && lo.z ≤ new.z && new.z ≤ hi.z
  if inside then return [stOk]
  geoWiden l (ref.1 + 4) false (wordAt w 1) word
  geoWiden l (ref.1 + 8) true (wordAt w 2) word
  return [stGrow]

/-- GUPD. -/
def execGupd (f : LaneWord) (s : State) : Out :=
  geoIssue f false (refOpnds 0 f.a ++ [srcs 1 f.b 3 acceptInt, src 2 f.c acceptInt]) [2] s (fun s l => updLane s f l)

/-! ### GREFIT (10 R204) -/

/-- Bounds met so far. -/
abbrev Bounds := V3 × V3

/-- Bounds that also cover a range. -/
def Bounds.cover (b : Bounds) (lo hi : V3) : Bounds :=
  (⟨min b.1.x lo.x, min b.1.y lo.y, min b.1.z lo.z⟩, ⟨max b.2.x hi.x, max b.2.y hi.y, max b.2.z hi.z⟩)

/-- Bounds that also cover some vertices. -/
def Bounds.verts (b : Bounds) (ws : List W32) : Bounds := ws.foldl (fun b w => b.cover (pointOf w) (pointOf w)) b

/-- Bounds that also cover a child's occupancy, none for an empty one. -/
def Bounds.kid (b : Bounds) (c : List W32) : Bounds :=
  let d : Int := ((2 ^ stepOf (wordAt c 0) : Nat) : Int)
  let off := pointOf (wordAt c 0)
  let lo := pointOf (wordAt c 1)
  let hi := pointOf (wordAt c 2)
  let down (v : Int) : Int := v / d
  let up (v : Int) : Int := (v + d - 1) / d
  if hi.x < lo.x || hi.y < lo.y || hi.z < lo.z then b
  else b.cover (off.add ⟨down lo.x, down lo.y, down lo.z⟩) (off.add ⟨up hi.x, up hi.y, up hi.z⟩)

/-- A bound as the byte that is stored; the manual states no byte for one above 255, which only a child that breaks the
inside rule gives. -/
def boundByte (s : State) (key : Nat) (v : Int) : Nat :=
  if 0 ≤ v && v ≤ 255 then v.toNat else choose s (freeKey 6 key) 256

/-- GREFIT in a lane. Its words are performed one by one, so that of an unordered GREFIT and GUPD (10 R204) each word of
OMIN and OMAX has an outcome of its own: the manual does not say that they share one (DESIGN CHOICE). -/
def refitLane (s : State) (f : LaneWord) (l : Nat) : GeoM (List W32) := do
  let va := laneBase s f.a.toNat l
  let w ← geoBox l va
  let n := childCount (wordAt w 0)
  let nvert := (wordAt w 10).toNat % 65536
  let kids := pointerAt w 4
  let verts := pointerAt w 6
  if 8 < n || 47 < (wordAt w 1).toNat / 2 ^ 24 || (n != 0 && !pointerOk kids 64) || (nvert != 0 && !pointerOk verts 4) then
    return [stBadRec]
  let ws ← geoReads l (wordVas verts nvert ++ kidVas kids n)
  match kidWords n (ws.drop nvert) with
  | none => return [stBadRec]
  | some cs =>
    if cs.any (fun c => 47 < (wordAt c 1).toNat / 2 ^ 24) then return [stBadRec]
    let b := cs.foldl Bounds.kid (Bounds.verts (⟨255, 255, 255⟩, ⟨0, 0, 0⟩) (ws.take nvert))
    let bytes (side : Nat) (v : V3) : List Nat := v.list.zipIdx.map (fun p => boundByte s (l * 8 + side * 4 + p.2) p.1)
    let lo := bytes 0 b.1
    let hi := bytes 1 b.2
    let word (keep : W32) (xs : List Nat) : W32 :=
      keep &&& 0xFF000000 ||| BitVec.ofNat 32 (xs.getD 0 0 + xs.getD 1 0 * 256 + xs.getD 2 0 * 65536)
    geoStore l (va + 4) (word (wordAt w 1) lo)
    geoStore l (va + 8) (word (wordAt w 2) hi)
    let below := (lo.zip (pointOf (wordAt w 1)).list).any (fun p => (p.1 : Int) < p.2)
    let above := (hi.zip (pointOf (wordAt w 2)).list).any (fun p => p.2 < (p.1 : Int))
    return [if below || above then stGrow else stOk]

/-- GREFIT. -/
def execGrefit (f : LaneWord) (s : State) : Out :=
  geoIssue f false [baseOpnd f.a] [2] s (fun s l => refitLane s f l)

/-! ### GDESKEW (10 R205) -/

/-- A running FP32 computation: its flags so far. -/
abbrev FlagM := StateM (BitVec 8)

/-- An operation that keeps its flags. -/
def flagged (r : W32 × BitVec 8) : FlagM W32 := fun fl => (r.1, fl ||| r.2)
/-- FMUL with RNE, FTZ ignored. -/
def fmul (a b : W32) : FlagM W32 := flagged (f32Mul .rn false a b)
/-- FADD with RNE, FTZ ignored. -/
def fadd (a b : W32) : FlagM W32 := flagged (f32Add .rn false a b)
/-- FFMA with RNE, FTZ ignored. -/
def ffma (a b c : W32) : FlagM W32 := flagged (f32Fma .rn false a b c)
/-- The sign of a word inverted. -/
def fneg (a : W32) : W32 := a ^^^ 0x80000000

/-- a × y − b × x as the manual orders it: ffma(−b, x, fmul(a, y)). -/
def fcross (a y b x : W32) : FlagM W32 := do ffma (fneg b) x (← fmul a y)

/-- The deskewed point. -/
def deskew (q m p : List W32) : FlagM (List W32) := do
  let qw := wordAt q 0
  let qx := wordAt q 1
  let qy := wordAt q 2
  let qz := wordAt q 3
  let px := wordAt p 0
  let py := wordAt p 1
  let pz := wordAt p 2
  let two : W32 := 0x40000000
  let sx ← fmul two (← fcross qy pz qz py)
  let sy ← fmul two (← fcross qz px qx pz)
  let sz ← fmul two (← fcross qx py qy px)
  let cx ← fcross qy sz qz sy
  let cy ← fcross qz sx qx sz
  let cz ← fcross qx sy qy sx
  let dx ← fadd (← fadd (← ffma qw sx px) cx) (wordAt m 0)
  let dy ← fadd (← fadd (← ffma qw sy py) cy) (wordAt m 1)
  let dz ← fadd (← fadd (← ffma qw sz pz) cz) (wordAt m 2)
  return [dx, dy, dz]

/-- The place of a slice record in the team's scratchpad. -/
def deskewPlace (s : State) (off : Nat) : Except AccFault (Nat × Nat × Nat) :=
  match teamOf? s s.g.team with
  | some t => if off % 32 != 0 || scratchSize s t < off + 32 then .error (spadFault off) else .ok (teamByte t off)
  | none => .error (spadFault off)

/-- GDESKEW in a lane. -/
def deskewLane (s : State) (f : LaneWord) (l : Nat) : GeoM (List W32) := fun m => do
  let off := (readOpnd s f.b.toNat l).toNat
  let p ← deskewPlace m.s off
  let m := match spadConflict m.s p.1 p.2.1 p.2.2 .read with
    | .ok s1 => { m with s := s1 }
    | .error sub => geoNote ⟨0x08, sub, BitVec.ofNat 64 off⟩ m
  let rec_ := (List.range 7).map (fun i => bankWord m.s p.1 p.2.1 (p.2.2 + 4 * i))
  let r := (deskew (rec_.take 4) (rec_.drop 4) (laneWords s f.a 3 l)).run m.flags
  pure (r.1, { m with flags := r.2 })

/-- GDESKEW. -/
def execGdeskew (f : LaneWord) (s : State) : Out :=
  geoIssue f false [srcs 0 f.a 3 acceptF32, src 1 f.b acceptAddr] [3, 3, 3] s (fun s l => deskewLane s f l)

end Sys2Proof.Machine
end

