-- ==== Sys2Proof/Machine/Cruise.lean ====
section
/-! DEFINITION. The cruise instructions (11 R211 to R220). -/

namespace Sys2Proof.Machine

/-- A counter as an instruction reaches it: its byte, its page's class and CRBASE index, which half of the byte. -/
structure Counter where
  acc : Access
  cls : Nat
  crb : Nat
  odd : Bool
  deriving DecidableEq, Repr

/-- The class of the page that holds an array's base, which fixes its layout (11 R215). -/
def baseClass (s : State) (base : W64) : Except AccFault Nat :=
  if !vaOk base then .error ⟨0x06, 0, base⟩ else
  match translate s s.g.ctx s.g.core base with
  | .error cause => .error ⟨0x04, cause, base⟩
  | .ok l => .ok (pteClass l.entry)

/-- A counter's byte checked in the order of 11 R215: address forms, pages present, write permission, classes. A base
page of another class has no counter byte to check. -/
def counterAt (s : State) (need : Need) (base : W64) (i : W32) : Except AccFault Counter := do
  let cls ← baseClass s base
  if cls != 1 && cls != 2 then throw ⟨0x07, 0, base⟩
  let va := base + BitVec.ofNat 64 (if cls = 1 then i.toNat / 2 else i.toNat)
  let a ← checkAccess s s.g.ctx s.g.core [cls] need 1 va
  pure ⟨a, cls, pteCrb a.pte, cls == 1 && i.getLsbD 0⟩

/-- The array base: all 64 bits of a scalar register. -/
def arrayBase (s : State) (f : LaneWord) : W64 := laneReadS s (f.a.toNat - 0x400)

/-- The operands that every cruise instruction reads. -/
def cruiseReads (f : LaneWord) : List Opnd := [src 0 f.a .any, src 1 f.b acceptAddr]

/-- The counters of the active lanes with their conflict detection (11 R220). -/
def counters (s : State) (f : LaneWord) (act : W32) (need : Need) (use : Use) :
    Except Stop (List (Nat × Counter) × State) := do
  let base := arrayBase s f
  let xs ← perLane s (lanesOf act) (fun l => counterAt s need base (readOpnd s f.b.toNat l))
  let s' ← laneConflicts s (xs.map (fun p => (p.1, p.2.acc))) use
  pure (xs, s')

/-- A lane's operation on its counter. -/
def cruiseWord (s : State) (f : LaneWord) (l : Nat) (c : Counter) (kind : CruiseKind) (fl : BitVec 8) : PendWord :=
  .cruise ⟨s.g.ctx, c.acc.pa, c.cls, c.odd, c.crb, readOpnd s f.b.toNat l, l, kind, fl⟩

/-- The weight of CADD with its flags (11 R216). -/
def weightOf (float : Bool) (w : W32) : CruiseKind × BitVec 8 :=
  if float then
    match fp32.decode w.toNat with
    | .nan => (.idle, flagNV)
    | .inf neg => if neg then (.idle, flagNV) else (.full, 0)
    | .fin neg m e => if m = 0 then (.idle, 0) else if neg then (.idle, flagNV) else (.add (m * 2 ^ e.toNat) (-e).toNat, 0)
  else (.add w.toNat 0, 0)

/-- CADD (11 R216, R219): performed at the home slice, counted as one store. -/
def execCadd (f : LaneWord) (s : State) : Out :=
  let float := f.mod.getLsbD 0
  laneIssueWith f.form.length f.pred (cruiseReads f ++ [src 2 f.c (.only [if float then 3 else 2])]) [] s (fun act fl s1 => do
    let (xs, s2) ← counters s1 f act .write (.write 0)
    pure (issueWords s2 (xs.map (fun p =>
      let w := weightOf float (readOpnd s1 f.c.toNat p.1)
      cruiseWord s1 f p.1 p.2 w.1 w.2)) fl, 0))

/-- CSET (11 R218). -/
def execCset (f : LaneWord) (s : State) : Out :=
  laneIssueWith f.form.length f.pred (cruiseReads f ++ [src 2 f.c (.only [11])]) [] s (fun act fl s1 => do
    let (xs, s2) ← counters s1 f act .write (.write 0)
    pure (issueWords s2 (xs.map (fun p => cruiseWord s1 f p.1 p.2 (.set (readOpnd s1 f.c.toNat p.1).toNat) 0)) fl, 0))

/-- CMRG: the source counter is checked after the target and as it is, its page writable (11 R215, R217); in conflict
detection a lane's source read comes before its target write (11 R220; 23 R318). -/
def execCmrg (f : LaneWord) (s : State) : Out :=
  laneIssueWith f.form.length f.pred (cruiseReads f ++ [src 2 f.c acceptAddr]) [] s (fun act fl s1 => do
    let base := arrayBase s1 f
    let xs ← perLane s1 (lanesOf act) (fun l =>
      bothChecks (counterAt s1 .write base (readOpnd s1 f.b.toNat l)) (counterAt s1 .write base (readOpnd s1 f.c.toNat l)))
    let s2 ← laneUses s1 (xs.flatMap (fun p => [(p.1, p.2.2.acc, .read), (p.1, p.2.1.acc, .write 0)]))
    pure (issueWords s2 (xs.map (fun p =>
      cruiseWord s1 f p.1 p.2.1 (.merge p.2.2.acc.pa p.2.2.odd p.2.2.crb) 0)) fl, 0))

/-- One lane's counter read at its home slice, after the group's earlier operations on it. -/
def readCounter (f : LaneWord) (acc : List (Nat × W32) × State × BitVec 8) (p : Nat × Counter) :
    List (Nat × W32) × State × BitVec 8 :=
  let s := settleBytes acc.2.1 acc.2.1.g.gid p.2.acc.pa 1
  let x := readLevel s p.2.cls p.2.acc.pa p.2.odd
  let v := if f.mod.getLsbD 0 then (BitVec.ofNat 32 x.1, 0) else estimate (baseK s s.g.ctx p.2.crb) x.1
  let s := if x.2 = 0 then s else { s with log := s.log ++ [laneRecord s (.mem p.2.acc.pa) p.1 0] }
  (acc.1 ++ [(p.1, v.1)], s, acc.2.2 ||| x.2 ||| v.2)

/-- CRD (11 R218, R219). -/
def execCrd (f : LaneWord) (s : State) : Out :=
  laneIssue f.form.length f.pred (cruiseReads f) [dst f.d 1] s (fun act s1 => do
    let (xs, s2) ← counters s1 f act .read .read
    let r := xs.foldl (readCounter f) ([], s2, 0)
    let tag : BitVec 4 := if f.mod.getLsbD 0 then 11 else 3
    pure (landResult r.2.1 f.la (keyWrites r.2.1.g f.d.toNat r.1 (fun _ => tag)), r.2.2))

end Sys2Proof.Machine
end

