-- ==== Sys2Proof/Machine/Pair.lean ====
section
/-! DEFINITION. Pair words and illegal words (03 R55, R59, R60; 05 R82). -/

namespace Sys2Proof.Machine

/-- The elementwise instruction of a pairable opcode (05 R82); any other opcode makes the pair illegal at decode. -/
def pairElem (op : Nat) (f : LaneWord) : Option Elem :=
  match op with
  | 0x01 => some (elemVadd f)
  | 0x02 => some (elemVsub f)
  | 0x03 => some (elemVmul f)
  | 0x04 => some (elemVmulh f)
  | 0x05 => some (elemVmulhu f)
  | 0x06 => some (elemVmad f)
  | 0x08 => some (elemVand f)
  | 0x09 => some (elemVor f)
  | 0x0A => some (elemVxor f)
  | 0x0B => some (elemVandn f)
  | 0x0C => some (elemVshl f)
  | 0x0D => some (elemVshr f)
  | 0x0E => some (elemVsra f)
  | 0x0F => some (elemVror f)
  | 0x10 => some (elemVmin f)
  | 0x11 => some (elemVmax f)
  | 0x12 => some (elemVminu f)
  | 0x13 => some (elemVmaxu f)
  | 0x14 => some (elemVclz f)
  | 0x15 => some (elemVpop f)
  | 0x16 => some (elemVbrev f)
  | 0x17 => some (elemVbfx f)
  | 0x18 => some (elemVbfi f)
  | 0x19 => some (elemVsel f)
  | 0x1A => some (elemVcmp f)
  | 0x1B => some (elemVmov f)
  | 0x1C => some (elemVmovi f)
  | 0x1D => some (elemVaddc f)
  | 0x20 => some (elemFadd f)
  | 0x21 => some (elemFsub f)
  | 0x22 => some (elemFmul f)
  | 0x23 => some (elemFfma f)
  | 0x24 => some (elemFmin f)
  | 0x25 => some (elemFmax f)
  | 0x26 => some (elemFcmp f)
  | 0x27 => some (elemFrnd f)
  | 0x30 => some (elemHadd2 f)
  | 0x31 => some (elemHmul2 f)
  | 0x32 => some (elemHfma2 f)
  | _ => none

/-- The bytes a pair stands in: twelve, or thirteen as a raw internal word (03 R58). -/
def pairLength (raw : Bool) : Nat := if raw then 13 else 12

/-- Trap 0x01 of a lane word that is no defined instruction, in the split that executes it (03 R60). -/
def illegalLane (s : State) : Out := finishLane s (.error (wholeFault s (curSplit s).mask 0x01))

/-- PAIR_WORD (03 R59): each half has the effect of its single form. -/
def execPairWord (raw : Bool) (h0 h1 : PairHalf) (s : State) : Out :=
  match pairElem h0.op.toNat (halfSingle h0), pairElem h1.op.toNat (halfSingle h1) with
  | some e0, some e1 => execPair (pairLength raw) e0 e1 (halfSingle h0) (halfSingle h1) s
  | _, _ => illegalLane s

/-- ILLEGAL_WORD (03 R60). -/
def execIllegalWord (s : State) : Out := illegalLane s

/-- ILLEGAL_SCALAR_WORD (03 R55): trap 0x01 and no effect. -/
def execIllegalScalarWord (_w : W32) (s : State) : Out := finishScalar s (.error (.trap (scalarTrap s 0x01)))

end Sys2Proof.Machine
end

