-- ==== Sys2Proof/Machine/MemoryEvents.lean ====
section
/-! DEFINITION. The steps of memory, fabric and translation that no instruction word starts: landings, acknowledgements,
blaze markers, replica propagation, stamp wraps, link failures and time-outs, page walks, the answers of firmware to
translation faults, and the event classes (01 R21, R25, R28; 12 R228; 13 R240, R241; 17 R261, R264; 18 R286, R287;
22 R308 to R311; 02 R53). -/

namespace Sys2Proof.Machine

/-! ### Landings and acknowledgements -/

/-- LOAD_LANDING (01 R20, R28; 03 R62): the n-th outstanding result of a group lands whole, in every lane at once. -/
def execLoadLanding (s : State) : Out :=
  match groupOf? s s.ev.gid with
  | none => .next s
  | some g =>
    match (g.landings.filter (fun d => !d.landed))[s.ev.n]? with
    | none => .next s
    | some d => .next (modGroup s g.gid (fun g => landWhere g (· == d)))

/-- Whether a word of a store may be performed next: no earlier word must come before it. -/
def wordFree (s : State) (n j : Nat) : Bool :=
  match s.stores[n]? with
  | none => false
  | some st =>
    match st.words[j]? with
    | none => false
    | some w =>
      !(s.stores.take n).any (fun e => e.words.any (fun v => e.holdsBack st v w)) && !(st.words.take j).any (fun v => v.leads w)

/-- A word of a store performed before the others of its store. -/
def ackWord (s : State) (n j : Nat) : State :=
  match s.stores[n]? with
  | none => s
  | some st =>
    match st.words[j]? with
    | none => s
    | some w => ackAt { s with stores := s.stores.set n { st with words := w :: dropAt j st.words } } n

/-- STORE_ACK (01 R21; 12 R225; 13 R240): a word of a store reaches its point of coherence; the store is acknowledged
with its last word. -/
def execStoreAck (s : State) : Out := .next (if wordFree s s.ev.n s.ev.req then ackWord s s.ev.n s.ev.req else s)

/-- Whether a word goes from a die to its point of coherence by the fabric: on another device, or on a die of this one which is
not its own. -/
def PendWord.homedAt (this device die own : Nat) (w : PendWord) : Bool :=
  match w with
  | .write pa _ _ _ => device == this && homeDie pa == die && die != own
  | .atomic pa _ _ _ _ => device == this && homeDie pa == die && die != own
  | .cruise op => device == this && homeDie op.pa == die && die != own
  | .peer d _ _ _ => device != this && d == device

/-- Whether a word on its way goes to another device. -/
def PendWord.isPeer : PendWord → Bool
  | .peer .. => true
  | _ => false

/-- The link by which a word of a store leaves: each is a packet of its own (22 R309). -/
def wordLink (s : State) (st : PendStore) (w : PendWord) : Nat :=
  linkFor s st.seed (w.place.2 * 32 + w.place.1) w.isPeer

/-- The words of some stores that satisfy `p`, and the earlier words that must be performed before them. -/
def markWords (p : PendStore → PendWord → Bool) (stores : List PendStore) : List (PendStore × List (PendWord × Bool)) :=
  let flat := stores.zipIdx.flatMap (fun x => x.1.words.map (fun w => (x.2, x.1, w)))
  let first (x y : Nat × PendStore × PendWord) : Bool :=
    if x.1 = y.1 then x.2.2.leads y.2.2 else x.2.1.holdsBack y.2.1 x.2.2 y.2.2
  let marks := flat.foldr (fun x (acc : List ((Nat × PendStore × PendWord) × Bool)) =>
    (x, p x.2.1 x.2.2 || acc.any (fun y => y.2 && first x y.1)) :: acc) []
  stores.zipIdx.map (fun x => (x.1, (marks.filter (fun m => m.1.1 == x.2)).map (fun m => (m.1.2.2, m.2))))

/-- The first `k` words of the n-th store performed. -/
def ackTimes (s : State) (n : Nat) : Nat → State
  | 0 => s
  | k + 1 => ackTimes (ackAt s n) n k

/-- The words that satisfy `p` performed, oldest first; the others of their stores stay. -/
def ackWords (s : State) (p : PendStore → PendWord → Bool) : State :=
  let xs := markWords p s.stores
  let pick (b : Bool) (ws : List (PendWord × Bool)) : List PendWord := (ws.filter (fun w => w.2 == b)).map (·.1)
  let s := { s with stores := xs.map (fun x => { x.1 with words := pick true x.2 ++ pick false x.2 }) }
  (xs.foldl (fun (acc : State × Nat) x =>
    let k := (pick true x.2).length
    (ackTimes acc.1 acc.2 k, if k = x.2.length && 0 < k then acc.2 else acc.2 + 1)) (s, 0)).1

/-- BLAZE_MARKER (13 R240; 22 R309): a group's marker comes down the path `link` to a die of this device, or to another device,
after every packet that the group has sent there by it: those have been performed. A drain is one step, so a marker names its
release by its group. -/
def execBlazeMarker (s : State) : Out :=
  let own := ((groupOf? s s.ev.gid).map (fun g => dieOf g.core)).getD 0
  .next (ackWords s (fun st w =>
    st.gid == s.ev.gid && w.homedAt s.device.toNat s.ev.device s.ev.die own && wordLink s st w == s.ev.link))

/-- REPLICA_PROPAGATE (13 R241): the n-th write on its way reaches its die, after the earlier ones to the same bytes. -/
def execReplicaPropagate (s : State) : Out :=
  .next (applyProps s (s.props.zipIdx.map (fun p => (p.1, p.2 == s.ev.n))))

/-- CORE_STAMP_WRAP (12 R228): a core whose stamp is 255 invalidates its L1 and starts its stamps again. -/
def execCoreStampWrap (s : State) : Out :=
  .next (if (coreOf s s.ev.core).stamp = 255 then wrapStamp s s.ev.core else s)

/-! ### Links and devices (22 R308 to R311) -/

/-- FLIT_RETRANSMIT (22 R308): the link sends the flit again; nothing that a program, the host or firmware can read
changes. -/
def execFlitRetransmit (s : State) : Out := .next s

/-- LINK_FAILURE (22 R309): the link carries nothing any more; what it had not delivered is sent again on other paths in its
order (`linkFor`), and no store, marker or propagation on its way is lost. -/
def execLinkFailure (s : State) : Out :=
  .next (if s.links.contains s.ev.link then s else { s with links := s.links ++ [s.ev.link] })

/-- Whether a context names a device in its peer table or a communicator (22 R306, R311). -/
def namesDevice (s : State) (c : Context) (device : Nat) : Bool :=
  c.peers.any (fun p => p.2 == device) || s.comms.any (fun x => x.2.contains device)

/-- A waiter of an unreachable device's future word, at `pa` there, woken with the value 0: its read sets UE and is
logged. -/
def wakeLost (s : State) (gid pa : Nat) : State :=
  match groupOf? s gid with
  | none => s
  | some g =>
    let s := modGroup s gid (fun g => orFlags { g with deliver := some 0 } false flagUE)
    lateEvents { s with log := s.log ++ [⟨g.ctx, g.spc, false, .mem pa, 0, 0, true⟩] } gid g.spc flagUE

/-- Whether a deferred-read entry waits for a word of a device. -/
def waitsOn (s : State) (device : Nat) (w : Nat × Nat) : Bool :=
  match groupOf? s w.2 with
  | none => false
  | some g => w.1 / 2 ^ 56 != 0 && (ctxOf s g.ctx).peers.any (fun p => p.1 == w.1 / 2 ^ 56 && p.2 == device)

/-- FABRIC_TIMEOUT (22 R311): a device has been unreachable for longer than the time-out. Its accesses end from now on,
waiting gets are woken with 0, and each context that names it receives a context error. -/
def execFabricTimeout (s : State) : Out :=
  let d := s.ev.device
  if s.unreach.contains d then .next s else
  let lost := s.waiters.filter (waitsOn s d)
  let s1 := { s with unreach := s.unreach ++ [d], waiters := s.waiters.filter (fun w => !waitsOn s d w) }
  let s2 := lost.foldl (fun acc w => wakeLost acc w.2 (w.1 % 2 ^ 56)) s1
  .next (((s.ctxs.filter (fun c => namesDevice s c d)).map (·.id)).foldl (fun acc c =>
    errorFor acc c .fabric 0 (BitVec.ofNat 64 d)) s2)

/-! ### Translation (17 R261, R264; 18 R286) -/

/-- A leaf put into a TLB of `n` entries, in the place of what it overlaps. -/
def tlbAdd (n : Nat) (l : Leaf) (tlb : List Leaf) : List Leaf :=
  l :: (tlb.filter (fun m => !(m.ctx == l.ctx && rangesTouch m.va m.size l.va l.size))).take (n - 1)

/-- PAGE_WALK (17 R261, R264): a walk that an access through a core asks for, by its issue scheduler `n` or, with no such
scheduler, by an engine; its leaf is cached in the TLBs of the scheduler, the core and the die. A faulting result is not. -/
def execPageWalk (s : State) : Out :=
  let core := s.ev.core
  if !coreExists core || !vaOk s.ev.va then .next s else
  match walk s (ctxOf s s.ev.ctx) s.ev.va with
  | .error _ => .next s
  | .ok l =>
    let c := coreOf s core
    let scheds := c.scheds.zipIdx.map (fun x => if x.2 = s.ev.n then { x.1 with tlb := tlbAdd 32 l x.1.tlb } else x.1)
    let die := tlbAdd 32768 l ((s.dtlb.filter (fun p => p.1 == dieOf core)).map (·.2))
    .next { setCore s { c with tlb := tlbAdd 2048 l c.tlb, scheds := scheds } with
      dtlb := die.map (fun x => (dieOf core, x)) ++ s.dtlb.filter (fun p => p.1 != dieOf core) }

/-- Firmware's store of a table entry, performed at the point of coherence (17 R262). -/
def firmwareStore (s : State) (h : HostAccess) : State :=
  match h with
  | .pcieWrite pa data => if physRange pa data.length then performWrite s 0 pa data false else s
  | _ => s

/-- Whether a group is suspended by a translation fault. -/
def Group.isSuspended (g : Group) : Bool :=
  g.wait == some .suspended || g.splits.any (fun x => x.wait == some .suspended)

/-- Firmware's refusal reaching an engine operation (06 R109): it ends in error 0x02. A kick past its ring header answers
for each of its requests that waits. -/
def declineOp (s : State) (o : EngineOp) : State :=
  match o.kind with
  | .xkick .. =>
    if o.done = 0 then failOp s o.id 0x02 o.errAddr
    else (s.xreqs.filter (fun x => x.op == o.id && x.faulted)).foldl (fun acc x =>
      let acc := modReq acc x (fun y => { y with performed := true, faulted := false, err := 0x02 })
      if x.performed then advanceCons (modReq acc x (fun y => { y with posted := true })) x.ctx x.ring else acc) s
  | _ => failOp s o.id 0x02 o.errAddr

/-- Firmware's answer to an engine operation that waits for a translation. -/
def answerOp (s : State) (o : EngineOp) (mapped : Bool) : State :=
  let s := { s with faults := s.faults.filter (fun f => f.op != o.id) }
  if mapped then
    { modOp s o.id (fun o => { o with faulted := false }) with
      xreqs := s.xreqs.map (fun x => if x.op == o.id then { x with faulted := false } else x) }
  else withFocus s o.gid (fun t => declineOp t o)

/-- TRANSLATION_RESTART (18 R286; 06 R109): firmware has made the mapping, by the store it names, and the instruction
executes again from its first byte; or it declines, and the instruction's next execution delivers trap 0x04. With an
operation named in `n` the answer goes to that operation. -/
def execTranslationRestart (s : State) : Out :=
  let s1 := if s.ev.mapped then firmwareStore s s.ev.host else s
  if s.ev.n != 0 then
    match s1.ops.find? (fun o => o.id == s.ev.n) with
    | some o => .next (answerOp s1 o s.ev.mapped)
    | none => .next s1
  else
    match groupOf? s1 s.ev.gid with
    | none => .next s1
    | some g =>
      if g.isSuspended then
        .next { modGroup s1 g.gid (fun g => { g with mapping := s.ev.mapped, declined := !s.ev.mapped }) with
          faults := s1.faults.filter (fun f => f.gid != g.gid || f.op != 0) }
      else .next s1

/-! ### Traps and event classes (18 R285, R287; 01 R25; 02 R53) -/

/-- TRAP_TAKE (18 R287): the group named takes a trap; a lane trap is one of the split entry `n`. -/
def execTrapTake (s : State) : Out :=
  let s1 := focus s s.ev.gid
  if s1.g.gid = s.ev.gid && s1.g.run == .resident then
    if s.ev.trap.lane then
      let s2 := { s1 with ent := s.ev.n }
      .next (takeLaneTrap s2 s.ev.trap (curSplit s2).lpc (curSplit s2).mask)
    else .next (takeScalarTrap s1 s.ev.trap s1.g.spc)
  else .next s

/-- The trap that event classes call for at an instruction boundary, after the instruction at `dueAt` (02 R53). -/
def dueTrap (g : Group) : TrapReq := ⟨0x09, false, 0, 0, 0, g.due, 0, g.dueAt⟩

/-- Whether event classes call for a trap at this boundary (02 R53). -/
def trapDue (g : Group) : Bool := g.due != 0 && g.depth == 0

/-- The trap that is due taken by the group in focus. -/
def takeDue (s : State) : State := takeScalarTrap { s with g := { s.g with due := 0 } } (dueTrap s.g) s.g.spc

/-- EVENT_THRESHOLD (02 R53; 01 R25): a class whose open count exceeds THRESH fires its action once, and its window
closes. -/
def execEventThreshold (s : State) : Out :=
  match groupOf? s s.ev.gid with
  | none => .next s
  | some g =>
    let e := (ctxOf s g.ctx).evctl.getD s.ev.cls 0
    let c := mapGet EventCount.zero s.ev.cls g.events
    if !(8 ≤ s.ev.cls) && evWindow e != 0 && c.isOpen && evThresh e < c.count then
      let trap := evAction e % 2 == 1 && g.depth == 0
      let s := modGroup s g.gid (fun g => { g with
        events := mapSet EventCount.zero s.ev.cls EventCount.zero g.events
        due := if trap then g.due ||| (1 <<< s.ev.cls) else g.due
        dueAt := if trap then g.spc else g.dueAt })
      .next (if 2 ≤ evAction e then { s with ints := s.ints ++ [(g.ctx, s.ev.cls)] } else s)
    else .next s

/-- EVENT_WINDOW_CLOSE (01 R25): a window open for WINDOW clocks closes and its count returns to zero. -/
def execEventWindowClose (s : State) : Out :=
  match groupOf? s s.ev.gid with
  | none => .next s
  | some g =>
    let c := mapGet EventCount.zero s.ev.cls g.events
    if c.isOpen && c.start + evWindow ((ctxOf s g.ctx).evctl.getD s.ev.cls 0) ≤ s.clock.toNat then
      .next (modGroup s g.gid (fun g => { g with events := mapSet EventCount.zero s.ev.cls EventCount.zero g.events }))
    else .next s

end Sys2Proof.Machine
end

