-- ==== Sys2Proof/Machine/Residency.lean ====
section
/-! DEFINITION. Task launches from bins and the pool, admission, residency, parking, aging and time slices
(18 R270 to R284; 01 R26 to R32; 17 R253, R254). -/

namespace Sys2Proof.Machine

/-! ### Bins and the pool (18 R278, R279) -/

/-- A bin of a core. -/
def binOf (s : State) (core bin : Nat) : Bin := (coreOf s core).bins.getD bin Bin.none

/-- A bin of a core replaced. -/
def setBin (s : State) (core bin : Nat) (b : Bin) : State :=
  let c := coreOf s core
  setCore s { c with bins := c.bins.set bin b }

/-- The period of a bin's timer in clocks. -/
def binPeriod (s : State) (core : Nat) (b : Bin) : Nat :=
  match descriptorFor s b.ctx core b.key with
  | some d => if d.btimer = 0 then (ctxOf s b.ctx).btimer else d.btimer * 256
  | none => (ctxOf s b.ctx).btimer

/-- Whether a bin's timer has run for a period. -/
def binExpired (s : State) (core : Nat) (b : Bin) : Bool := b.timer + binPeriod s core b ≤ s.clock.toNat

/-- Whether an address operand of an operation of a group of team `u` reaches the scratchpad of team `t`; an indexed one
may reach every bank of its space. -/
def reachesTeam (s : State) (u t : Team) (indexed : Bool) (a : W64) : Bool :=
  let top := a.extractLsb' 56 8
  (top == 0x40 && u.id == t.id && (indexed || (a.extractLsb' 0 23).toNat < fifoBase)) ||
  (top == 0x41 && (if indexed then (clusterTeams s u).any (fun v => v.id == t.id)
    else (clusterTeam s u (a.extractLsb' 24 4).toNat).id == t.id))

/-- Whether an outstanding engine operation targets a team's banks (01 R31). -/
def banksInUse (s : State) (t : Team) : Bool :=
  s.ops.any (fun o => !o.finished && (match (groupOf? s o.gid).bind (fun g => teamOf? s g.team) with
    | none => false
    | some u => (match o.kind with
      | .cpy d r _ => reachesTeam s u t false d || reachesTeam s u t false r
      | .gath d _ b _ _ => reachesTeam s u t false d || reachesTeam s u t true b
      | .scat r _ b _ _ => reachesTeam s u t false r || reachesTeam s u t true b
      | _ => false)))

/-- A parked team's banks spilled: their contents go with its park image and the banks return to cache ways (01 R31).
Nothing happens while an engine operation targets them. -/
def spillTeam (s : State) (t : Team) : State :=
  let c := viewOf s t.ctx t.core
  if t.state != .parked || t.banks.isEmpty || banksInUse s t then s else
  let image := t.banks.map (fun b => (c.spad.filter (fun p => p.1 / bankSize == b)).map (fun p => (p.1 % bankSize, p.2)))
  let s := putView s t.ctx (t.banks.foldl (fun c b => setBank (clearBank c b) b .cache) c)
  modTeam s t.id (fun t => { t with banks := [], spill := image })

/-- The parked teams of a list spilled in turn, as far as it takes until there is room (01 R31). -/
def spillUntil (enough : State → Bool) (cores : List Nat) : List Nat → State → State
  | [], s => s
  | id :: ids, s =>
    if enough s then s else
    match teamOf? s id with
    | some t => spillUntil enough cores ids (if cores.contains t.core then spillTeam s t else s)
    | none => spillUntil enough cores ids s

/-- The parked teams that a step names, whose banks it may need. -/
def namedTeams (s : State) : List Nat := s.ev.team :: s.ev.teams

/-- The parked teams that hold banks on some cores. -/
def parkedOn (s : State) (cores : List Nat) : List Nat :=
  (s.teams.filter (fun t => t.state == .parked && !t.banks.isEmpty && cores.contains t.core)).map (·.id)

/-- Records launched, the teams that the step names being spilled as far as their banks are needed. -/
def launchSpilling (s : State) (ctx core : Nat) (recs : List TaskRecord) : State × Bool :=
  if (tryLaunch s ctx core recs).2 then tryLaunch s ctx core recs
  else tryLaunch (spillUntil (fun t => (tryLaunch t ctx core recs).2) [core] (namedTeams s) s) ctx core recs

/-- A bin launches: its records leave with the task group, or the launch waits for a further period. -/
def launchBin (s : State) (core bin : Nat) : State :=
  let b := binOf s core bin
  let r := launchSpilling s b.ctx core b.records
  if r.2 then setBin r.1 core bin Bin.none
  else if b.waiting then s
  else setBin s core bin { b with waiting := true, timer := s.clock.toNat }

/-- TASK_GROUP_LAUNCH (18 R278): a bin that holds 32 records, or whose launch waits, launches them as one task group. -/
def execTaskGroupLaunch (s : State) : Out :=
  let b := binOf s s.ev.core s.ev.bin
  .next (if b.records.length = 32 || (b.waiting && !b.records.isEmpty) then launchBin s s.ev.core s.ev.bin else s)

/-- BIN_TIMER_EXPIRE (18 R278): a bin whose timer has run for its period launches what it holds. -/
def execBinTimerExpire (s : State) : Out :=
  let b := binOf s s.ev.core s.ev.bin
  .next (if !b.records.isEmpty && !b.waiting && binExpired s s.ev.core b then launchBin s s.ev.core s.ev.bin else s)

/-- BIN_LAUNCH_TIMEOUT (18 R278): a launch that has waited for a further period gives its records to the pool; for want of
room there they stay until firmware, which is asked to, has made some. -/
def execBinLaunchTimeout (s : State) : Out :=
  let b := binOf s s.ev.core s.ev.bin
  .next (if !b.waiting || !binExpired s s.ev.core b then s
    else if poolRoom s b.ctx b.records.length then
      setBin (b.records.foldl (fun acc r => pushPool acc b.ctx r) s) s.ev.core s.ev.bin Bin.none
    else askGrow s b.ctx true)

/-- The records that a pull takes, with their places: the oldest and up to 31 further ones of the same ENTRY. -/
def pullRecords (pool : List (Nat × TaskRecord)) : List (Nat × TaskRecord) :=
  match pool with
  | [] => []
  | p :: rest => p :: (rest.filter (fun q => q.2.entry == p.2.entry)).take 31

/-- POOL_PULL (18 R279): a core with room and no bin launch pending takes a task group from its context's pool; records that
waited for room follow. -/
def execPoolPull (s : State) : Out :=
  match (coreOf s s.ev.core).ctx with
  | none => .next s
  | some ctx =>
    if (coreOf s s.ev.core).bins.any (·.waiting) then .next s else
    let out := pullRecords (poolRecords s ctx)
    let left := (ctxOf s ctx).pool.filter (fun p => !out.any (fun q => q.1 == p.1))
    let r := launchSpilling (modCtx s ctx (fun c => { c with pool := left })) ctx s.ev.core (out.map (·.2))
    .next (if r.2 then fillPool r.1 ctx else s)

/-! ### Admission (18 R273, R275) -/

/-- The cores of the rectangle whose first core is given, row-major; none when it leaves the mesh of 6 × 8 cores. -/
def rectangle (core rows cols : Nat) : Option (List Nat) :=
  let row := core % 64 / 8
  let col := core % 8
  if row + rows ≤ 6 && col + cols ≤ 8 then
    some ((List.range rows).flatMap (fun r => (List.range cols).map (fun c => core + 8 * r + c)))
  else none

/-- The cores on which the next teams of a grid would start with a first core: a cluster takes a rectangle. -/
def startCores (x : Grid) (core : Nat) : Option (List Nat) :=
  if x.desc.clustered then rectangle core x.desc.crows x.desc.ccols else some [core]

/-- The logical core on which team `t` of a deterministic context stands (18 R275). -/
def logicalCore (c : Context) (t : Nat) : Nat := c.cores.getD (t % c.cores.length) 0

/-- The next team of a grid to be admitted with a first core: the lowest not yet distributed, or in deterministic mode the
lowest of those that stand on that core (18 R275). A cluster's teams are admitted together, and its first team comes in the
order of the grid. -/
def nextTeam (c : Context) (x : Grid) (core : Nat) : Option Nat :=
  if c.det && x.home.isNone && !x.desc.clustered then
    let n := c.cores.length
    match findIdx? (fun k => k == core) c.cores 0 with
    | none => none
    | some (j, _) =>
      let first := x.placed + (j + n - x.placed % n) % n
      let t := first + n * (x.ahead.filter (fun i => i % n == j)).length
      if t < x.nteams then some t else none
  else if x.placed < x.nteams && (!c.det || x.home.isSome || logicalCore c x.placed == core) then some x.placed
  else none

/-- Whether a bank table keeps a grid's teams from a core: they were launched after its load, or no team of the context is
admitted there, so that it is applied first (17 R332). -/
def tableBlocks (s : State) (x : Grid) (core : Nat) : Bool :=
  (coreOf s core).tables.any (fun t => t.ctx == x.ctx &&
    (t.after < x.number || !(admittedTeams s core).any (fun u => u.ctx == x.ctx)))

/-- Whether the next teams of a grid may be admitted now with a first core. -/
def mayAdmit (s : State) (x : Grid) (core : Nat) : Bool :=
  let c := ctxOf s x.ctx
  (nextTeam c x core).isSome && !c.halted && (match x.home with | some h => h == core | none => true) &&
  match startCores x core with
  | none => false
  | some cs => cs.all (fun k => c.cores.contains k && canAdmit s x.ctx k x.desc && !tableBlocks s x k)

/-- Whether a grid's teams come before another's in the distributor: by priority, then by launch order. -/
def gridBefore (x y : Grid) : Bool := y.prio < x.prio || (x.prio == y.prio && x.number < y.number)

/-- The next teams of a grid admitted with a first core. -/
def admitNext (s : State) (x : Grid) (core : Nat) : State :=
  match startCores x core, nextTeam (ctxOf s x.ctx) x core with
  | some all, some t =>
    let cs := all.take (x.nteams - t)
    placeTeams (cs.zipIdx.foldl (fun acc p => admitTeam acc x (t + p.2) p.1 cs p.2) s) x.id
      ((List.range cs.length).map (fun i => t + i))
  | _, _ => s

/-- TEAM_ADMIT (18 R273, R275; 17 R254; 01 R31): the next team of a grid is admitted to a core with room, no grid of its
context before it being admissible there. The parked teams that the step names are spilled as far as their banks are needed, on
any core that the team or its cluster starts on. -/
def execTeamAdmit (s : State) : Out :=
  match gridOf? s s.ev.grid with
  | none => .next s
  | some x =>
    let s1 := spillUntil (fun t => mayAdmit t x s.ev.core) ((startCores x s.ev.core).getD []) (namedTeams s) s
    if mayAdmit s1 x s.ev.core &&
       !s1.grids.any (fun y => y.ctx == x.ctx && gridBefore y x && mayAdmit s1 y s.ev.core) then
      .next (admitNext s1 x s.ev.core)
    else .next s

/-! ### What ends a wait (18 R281, R282) -/

/-- Whether the condition that a blocked stream of a group waits for is met. -/
def waitMet (s : State) (g : Group) : Wait → Bool
  | .join => callStopped g
  | .awaitg => g.gframe == 0 || frameJoin s g.ctx g.gframe == 0
  | .engines => g.counters.isEmpty
  | .barrier p => (match teamOf? s g.team with | some t => decide (p < t.phase) | none => true)
  | .cbarrier p => (match teamOf? s g.team with | some t => decide (p < (clusterPhase s t).phase) | none => true)
  | .future => g.deliver.isSome
  | .counter cls n => counterOf g cls ≤ n
  | .handle h => readH g h != .pending
  | .vblocks n => grantable (viewOf s g.ctx g.core).vreq g.gid n (freeBlocks s g.core)
  | .tiles n => grantable (viewOf s g.ctx g.core).treq g.gid n (freeTiles s g.core)
  | .qclaim bank => (match bankOf (viewOf s g.ctx g.core) bank with | .fifo _ _ slots _ => slots.any SlotState.isFree && !bankTaken s g bank (.qclaim bank) | _ => true)
  | .qpop bank => (match bankOf (viewOf s g.ctx g.core) bank with | .fifo _ _ _ q => !q.isEmpty && !bankTaken s g bank (.qpop bank) | _ => true)
  | .room cls => counterOf g cls < 63
  | .busy h => readH g h != .pending
  | .frames => (ctxOf s g.ctx).used.length < (ctxOf s g.ctx).frames
  | .records => poolRoom s g.ctx 1
  | .copying => true
  | .meld => g.meld.isNone
  | .suspended => g.mapping || g.declined

/-- Whether the scalar stream of a group stands in a wait under which its team may be parked (18 R281). -/
def parkWait (g : Group) : Wait → Bool
  | .awaitg => true
  | .barrier _ => true
  | .cbarrier _ => true
  | .future => true
  | .qclaim _ => true
  | .qpop _ => true
  | .vblocks _ => true
  | .tiles _ => true
  | .suspended => true
  | .counter _ _ => g.parkable
  | .handle _ => g.parkable
  | _ => false

/-- Whether a group has ended, or is blocked so that its team may be parked: suspended, or its scalar stream in such a
wait with no split of a call that could issue. -/
def groupParkable (g : Group) : Bool :=
  g.gone || (g.run == .resident && (g.isSuspended ||
    ((match g.wait with | some w => parkWait g w | none => false) && g.splits.all (fun x => x.state != .ready))))

/-- The groups of a team. -/
def teamGroups (s : State) (t : Team) : List Group := t.groups.filterMap (groupOf? s)

/-- Whether a resident team may be parked. -/
def teamParkable (s : State) (t : Team) : Bool := t.state == .resident && (teamGroups s t).all groupParkable

/-- The clock since which a team has been blocked: that of its group blocked last. -/
def blockedSince (s : State) (t : Team) : Nat :=
  (teamGroups s t).foldl (fun n g => if g.gone then n else max n g.since) 0

/-! ### Parking (01 R28 to R31; 18 R271, R281) -/

/-- The drain of a group before its state is saved: the MMA and the results in flight land, the stores drain; a trap that
this calls for is taken before the park and saved as trap state (01 R28). -/
def drainGroup (s : State) (gid : Nat) : State :=
  withFocus s gid (fun s =>
    let s := release (landResults s)
    if trapDue s.g then takeDue s else s)

/-- The priority under which a team returns: that of its grid, which a change of its queue's priority reaches. -/
def returnPrio (s : State) (t : Team) : BitVec 3 := ((gridOf? s t.grid).map (·.prio)).getD t.prio

/-- A resident team parked: every group drains and leaves its slot. -/
def parkTeam (s : State) (t : Team) (sliced : Bool) : State :=
  let live := (teamGroups s t).filter (fun g => g.run == .resident)
  let s := live.foldl (fun acc g => drainGroup acc g.gid) s
  let s := live.foldl (fun acc g => modGroup acc g.gid (fun g => if g.run == .resident then { g with run := .parked } else g)) s
  let prio := returnPrio s t
  modTeam s t.id (fun t => { t with state := .parked, prio := prio, sliced := sliced, ready := false, aged := 0 })

/-- TEAM_PARK (18 R281; 01 R28 to R31): a team is parked when one waits for residency on its core: the lowest priority
first, and then the one blocked longest. -/
def execTeamPark (s : State) : Out :=
  match teamOf? s s.ev.team with
  | none => .next s
  | some t =>
    let onCore := s.teams.filter (fun u => u.core == t.core)
    let better (u : Team) : Bool := teamParkable s u &&
      (u.prio < t.prio || (u.prio == t.prio && blockedSince s u < blockedSince s t))
    if teamParkable s t && onCore.any (fun u => u.ready && (u.state == .admitted || u.state == .parked)) &&
       !onCore.any better then .next (parkTeam s t false)
    else .next s

/-- PARKT_EXPIRE (18 R281): a group that has waited in WAITC or WAITH for longer than PARKT lets its team be parked. -/
def execParktExpire (s : State) : Out :=
  match groupOf? s s.ev.gid with
  | none => .next s
  | some g =>
    let long := s.parkt < s.clock.toNat - g.since
    match g.wait with
    | some (.counter _ _) => .next (if long then modGroup s g.gid (fun g => { g with parkable := true }) else s)
    | some (.handle _) => .next (if long then modGroup s g.gid (fun g => { g with parkable := true }) else s)
    | _ => .next s

/-! ### Residency (18 R274, R282; 01 R14, R26, R29) -/

/-- A team's effective priority: its own plus one for every AGE clocks since it became ready, at most 7. -/
def effective (t : Team) : Nat := min 7 (t.prio.toNat + t.aged)

/-- A ready team aged by the clocks that have passed. -/
def ageTeam (s : State) (t : Team) : Team :=
  if t.ready && (t.state == .admitted || t.state == .parked) then
    { t with aged := max t.aged ((s.clock.toNat - t.readyAt) / s.age) }
  else t

/-- PRIORITY_AGE (18 R282). -/
def execPriorityAge (s : State) : Out :=
  .next (modTeam s s.ev.team (ageTeam s))

/-- Whether a ready team is served before another. -/
def servedBefore (t u : Team) : Bool :=
  effective u < effective t ||
  (effective t == effective u && ((t.state == .parked && u.state == .admitted) ||
    (t.state == u.state && t.readyAt < u.readyAt)))

/-- Whether a team is the first of the ready teams of its core. -/
def firstReady (s : State) (t : Team) : Bool :=
  t.ready && (coreOf s t.core).ctx == some t.ctx &&
  !s.teams.any (fun u => u.core == t.core && u.ctx == t.ctx && u.ready && (u.state == .admitted || u.state == .parked) &&
    servedBefore (ageTeam s u) (ageTeam s t))

/-- The issue-scheduler slots of a core that are free: 32 in all. -/
def freeSlots (s : State) (core : Nat) : Nat :=
  32 - ((allGroups s).filter (fun g => g.core == core && g.onCore)).length

/-- A free issue-scheduler slot of a group's core: which one is not architectural. -/
def freeSeat (s : State) (g : Group) : Nat :=
  let open_ := upto 32 (fun i => !(allGroups s).any (fun h => h.core == g.core && h.onCore && h.seat == i))
  open_.getD (choose s (freeKey 7 g.gid) open_.length) 0

/-- The groups of a team that take a slot. -/
def slotGroups (s : State) (t : Team) : List Group :=
  (teamGroups s t).filter (fun g => g.run == .waiting || g.run == .parked)

/-- Whether a team's slots, blocks and tiles are free. A parked team's are granted in the order of the requests waiting, in
which it stands since it became ready (01 R14, R29). -/
def teamFits (s : State) (t : Team) : Bool :=
  let gs := slotGroups s t
  let blocks := gs.foldl (fun n g => n + g.blocks) 0
  let tiles := gs.foldl (fun n g => n + g.tiles) 0
  let c := coreOf s t.core
  let mine (q : List (Nat × Nat)) : Bool := match q with | [] => true | (g, _) :: _ => t.groups.contains g
  gs.length ≤ freeSlots s t.core && blocks ≤ freeBlocks s t.core && tiles ≤ freeTiles s t.core &&
  (t.state != .parked || ((blocks == 0 || mine c.vreq) && (tiles == 0 || mine c.treq)))

/-- The requests by which a parked team's groups ask for their blocks, or for their tiles, again. -/
def returnRequests (s : State) (t : Team) (held : Group → Nat) : List (Nat × Nat) :=
  ((slotGroups s t).filter (fun g => held g != 0)).map (fun g => (g.gid, held g))

/-- A parked team that has become ready enters the queues for the blocks and tiles that it returns with (01 R14, R29). -/
def askAgain (s : State) (t : Team) : State :=
  let v := returnRequests s t (·.blocks)
  let q := returnRequests s t (·.tiles)
  if v.isEmpty && q.isEmpty then s else
  let c := viewOf s t.ctx t.core
  putView s t.ctx { c with vreq := c.vreq ++ v, treq := c.treq ++ q }

/-- These requests granted. -/
def grantAgain (s : State) (t : Team) : State :=
  let v := returnRequests s t (·.blocks)
  let q := returnRequests s t (·.tiles)
  if v.isEmpty && q.isEmpty then s else
  let c := coreOf s t.core
  setCore s { c with vreq := v.foldl dropRequest c.vreq, treq := q.foldl dropRequest c.treq }

/-- A team made resident: its groups take their slots, and each starts with an acquire (13 R233; 01 R29). -/
def seatTeam (s : State) (t : Team) : State :=
  let gs := slotGroups s t
  let s := if t.state == .parked then grantAgain s t else s
  let s := gs.foldl (fun acc g =>
    acquireFor (modGroup acc g.gid (fun h => { h with run := .resident, seat := freeSeat acc g, lastRun := 0 })) g.gid) s
  modTeam s t.id (fun t => { t with state := .resident, ready := false, sliced := false, aged := 0 })

/-- TEAM_RESIDENCY (18 R274, R282; 01 R26, R27): a team that was never resident becomes so. -/
def execTeamResidency (s : State) : Out :=
  match teamOf? s s.ev.team with
  | none => .next s
  | some t =>
    .next (if t.state == .admitted && firstReady s t && teamFits s t then seatTeam s t else s)

/-- A spilled team's banks found and filled again; `none` while there is no room (01 R31). -/
def restoreBanks (s : State) (t : Team) : Option State :=
  if t.spill.isEmpty then some s else
  (findBanks (coreOf s t.core) t.spill.length).map (fun banks =>
    modTeam (setCore s (refill (coreOf s t.core) t.id banks t.spill)) t.id (fun t => { t with banks := banks, spill := [] }))

/-- Whether a group's park image holds a reserved tag (01 R16). -/
def badImage (g : Group) : Bool := (g.vtags ++ g.ttags).any (fun p => 13 ≤ p.2.toNat)

/-- A team whose park image is rejected: a context error, and its groups end in error (01 R16). -/
def rejectImage (s : State) (t : Team) : State :=
  (slotGroups s t).foldl (fun acc g => withFocus acc g.gid haltGroup) (errorFor s t.ctx .image 0 0)

/-- TEAM_UNPARK (01 R16, R29 to R31; 18 R282): a parked team that is ready returns to its core. -/
def execTeamUnpark (s : State) : Out :=
  match teamOf? s s.ev.team with
  | none => .next s
  | some t =>
    if t.state == .parked && firstReady s t && teamFits s t then
      if (slotGroups s t).any badImage then .next (rejectImage s t) else
      match restoreBanks s t with
      | some s' => .next (seatTeam s' t)
      | none => .next s
    else .next s

/-- Whether a parked group can go on: what blocked it is over, or a trap taken as it was parked has left it in its
handler. -/
def groupReady (s : State) (g : Group) : Bool :=
  g.run == .parked && (if g.isSuspended then g.mapping || g.declined else
    match g.wait with
    | some w => waitMet s g w
    | none => true)

/-- Whether a parked team has become ready: a condition that blocked one of its groups is met, whether or not its core serves
its context then, or, after a time slice, its context is resident there again (18 R282). -/
def nowReady (s : State) (t : Team) : Bool :=
  t.state == .parked && !t.ready &&
  (if t.sliced then (coreOf s t.core).ctx == some t.ctx else (teamGroups s t).any (groupReady s))

/-- The teams that have become ready, noted with the clock. -/
def noteReady (s : State) : State :=
  match s.teams.filter (nowReady s) with
  | [] => s
  | ts =>
    let t := ts.foldl askAgain s
    { t with teams := t.teams.map (fun t => if nowReady s t then { t with ready := true, readyAt := s.clock.toNat } else t) }

/-! ### Time slices (18 R284; 01 R32; 17 R253) -/

/-- What a switch leaves of a bank map for its context: the contents of an empty FIFO are not saved, and are then kept
or zero (17 R253). -/
def savedSpad (s : State) (c : Core) : SMap Byte :=
  c.spad.filter (fun p =>
    match bankOf c (p.1 / bankSize) with
    | .fifo _ _ slots _ => !fifoEmpty s (c.ctx.getD 0) c (p.1 / bankSize) slots || choose s (freeKey 18 (c.id * 24 + p.1 / bankSize)) 2 == 0
    | _ => true)

/-- A core given to a context, whose banks, B-store and requests it takes up again, or to none. -/
def giveCore (s : State) (core : Nat) (new : Option Nat) : State :=
  let mine (v : CoreSave) : Bool := some v.ctx == new && v.core == core
  let back := (s.saved.find? mine).getD (saveOf 0 (Core.init core))
  setCore { s with saved := s.saved.filter (fun v => !mine v) }
    { coreOf s core with
      ctx := new, lines := [], banks := back.banks, spad := back.spad, bstore := back.bstore, poison := back.poison
      vreq := back.vreq, treq := back.treq, qwait := back.qwait, since := s.clock.toNat }

/-- A core taken from a context and given to another, or to none. -/
def switchCore (s : State) (old : Nat) (new : Option Nat) (core : Nat) : State :=
  let c := coreOf s core
  let keep := saveOf old { c with spad := savedSpad s c }
  giveCore { s with saved := keep :: s.saved.filter (fun v => !(v.ctx == old && v.core == core)) } core new

/-- The cores that serve a context now. -/
def servingCores (s : State) (ctx : Nat) : List Nat :=
  (ctxOf s ctx).cores.filter (fun k => (coreOf s k).ctx == some ctx)

/-- Whether a context has no team on some cores and none to distribute: its slice has then ended by completion. -/
def workedOut (s : State) (ctx : Nat) (cs : List Nat) : Bool :=
  !(cs.any (fun k => (admittedTeams s k).any (fun t => t.ctx == ctx))) &&
  !s.grids.any (fun x => x.ctx == ctx && x.launched < x.nteams)

/-- TIME_SLICE_EXPIRE (18 R284; 01 R32): a context whose slice has run out on its cores has its resident teams parked, or
has ended its slice by completion, with nothing to park; the cores go to the next context, or to none when it names none. -/
def execTimeSliceExpire (s : State) : Out :=
  let ctx := s.ev.ctx
  let cs := servingCores s ctx
  let next := if (ctxOf? s s.ev.nextCtx).isSome && s.ev.nextCtx != ctx then some s.ev.nextCtx else none
  if cs.isEmpty || !(workedOut s ctx cs || cs.all (fun k => (coreOf s k).since + (ctxOf s ctx).slice ≤ s.clock.toNat)) then .next s
  else
    let s1 := (s.teams.filter (fun t => t.ctx == ctx && t.state == .resident && cs.contains t.core)).foldl
      (fun acc t => parkTeam acc t true) s
    .next (cs.foldl (fun acc k =>
      let acc := completeMma acc k
      switchCore acc ctx (next.filter (fun n => (ctxOf s n).cores.contains k)) k) s1)

/-- The contexts that some core serves: those that are resident. -/
def residentContexts (s : State) : List Nat := (s.cores.filterMap (fun p => p.2.ctx)).eraseDups

/-- Whether a context is resident or may become so: at most 16 are at once (18 R269). -/
def mayReside (s : State) (ctx : Nat) : Bool := (residentContexts s).contains ctx || (residentContexts s).length < 16

/-- A core that serves no context given to one (18 R269, R270, R284). -/
def claimCore (s : State) (ctx core : Nat) : State :=
  if (coreOf s core).ctx.isSome || !(ctxOf? s ctx).any (fun x => x.cores.contains core) || !mayReside s ctx then s
  else giveCore s core (some ctx)

end Sys2Proof.Machine
end

