-- ==== Sys2Proof/Machine/Launch.lean ====
section
/-! DEFINITION. Queues, launches and completion records, contexts, code objects and what firmware does for them
(24 R321 to R325; 18 R269, R271, R276, R279; 03 R66; 17 R332; 23 R317). -/

namespace Sys2Proof.Machine

/-! ### Queues (18 R269; 24 R321) -/

/-- The queue of a number. -/
def queueOf? (s : State) (q : Nat) : Option Queue := s.queues.find? (fun x => x.id == q)

/-- A queue changed. -/
def modQueue (s : State) (q : Nat) (f : Queue → Queue) : State :=
  { s with queues := s.queues.map (fun x => if x.id == q then f x else x) }

/-- Something returned to the host or the management port. -/
def reply (s : State) (r : Response) : State := { s with replies := s.replies ++ [r] }

/-- Whether work of a context that was reset is still under way. -/
def resetUnderWay (s : State) (ctx : Nat) : Bool :=
  (allGroups s).any (fun g => g.ctx == ctx && g.run != .ended) || s.grids.any (fun x => x.ctx == ctx && !x.done &&
    (match x.origin with | .host .. => true | _ => false))

/-- A doorbell written: the count of packets, or the queue stops (24 R321). -/
def ringDoorbell (s : State) (q : Queue) (count : Nat) : State :=
  if q.stopped then s
  else if count < q.written || q.consumed + 2 ^ q.log2 < count then
    reply (modQueue s q.id (fun q => { q with stopped := true })) (.queueStopped q.id)
  else modQueue s q.id (fun q => { q with written := count })

/-- The doorbell of a queue written with a count; one written during a reset is dropped (24 R321, R326). -/
def writeDoorbell (s : State) (queue count : Nat) : State :=
  match queueOf? s queue with
  | none => s
  | some q =>
    if (ctxOf s q.ctx).halted then
      if resetUnderWay s q.ctx then s
      else ringDoorbell (modCtx s q.ctx (fun c => { c with halted := false })) q count
    else ringDoorbell s q count

/-- DOORBELL (24 R321, R326). -/
def execDoorbell (s : State) : Out := .next (writeDoorbell s s.ev.queue s.ev.count.toNat)

/-! ### Packets and completion records (24 R322, R323) -/

/-- A launch packet's fields. -/
structure Packet where
  op    : Nat
  dims  : Nat              -- DIMX × DIMY × DIMZ
  desc  : W64
  args  : W64
  seed  : W64
  done  : W64
  clean : Bool             -- its reserved fields are zero
  deriving DecidableEq, Repr

/-- A packet of 64 bytes parsed. -/
def parsePacket (bs : List Byte) : Packet :=
  let d (off : Nat) : W64 := BitVec.ofNat 64 (field bs off 8)
  { op := field bs 0 1, dims := field bs 4 4 * field bs 8 4 * field bs 12 4, desc := d 16, args := d 24, seed := d 32
    done := d 40, clean := field bs 1 3 == 0 && field bs 48 8 == 0 && field bs 56 8 == 0 }

/-- The physical address of packet i of a queue. -/
def packetPa (q : Queue) (i : Nat) : Nat := q.base + 64 * (i % 2 ^ q.log2)

/-- Packet i of a queue. -/
def packetOf (s : State) (q : Queue) (i : Nat) : Packet := parsePacket (readBytes s (packetPa q i) 64)

/-- The value of a completion record. -/
def hostRecord (teams status op : Nat) : W64 :=
  BitVec.ofNat 64 (teams % 2 ^ 32 * 2 ^ 32 + status % 256 * 256 + op % 256)

/-- A completion record written by an FPUT to DONE, unless DONE is 0, and the queue's vector raised; a DONE that cannot
take it is a context error (24 R323). `key` is that of what the record releases. -/
def complete (s : State) (ctx queue key : Nat) (done : W64) (teams status op : Nat) : State :=
  let v := hostRecord teams status op
  let s :=
    if done = 0 then s
    else match checkAccess s ctx ((ctxOf s ctx).cores.headD 0) [3] .write 8 done with
      | .ok a => if a.peer then s else putWord s 0 key a.pa v
      | .error f => errorFor s ctx .completion f.code done
  { s with ints := s.ints ++ [(ctx, 256 + queue)] }

/-- Whether a queue holds packets not yet taken. -/
def Queue.pending (q : Queue) : Bool := q.consumed < q.written

/-- The place of a queue in firmware's order: higher priority first, equal ones round-robin after the last of that
priority. -/
def queueRank (s : State) (q : Queue) : Nat :=
  (7 - q.prio.toNat) * 256 + (q.id + 511 - mapGet 255 q.prio.toNat s.qlast) % 256

/-- The grid that a packet launches. -/
def packetGrid (id : Nat) (q : Queue) (p : Packet) (d : Descriptor) : Grid :=
  { id := id, ctx := q.ctx, number := 0, origin := .host q.id (BitVec.ofNat 8 p.op) p.done.toNat, root := id, home := none
    desc := d, entryVa := p.desc, args := p.args, seedlo := p.seed.setWidth 32, seedhi := p.seed.extractLsb' 32 32
    prio := q.prio, nteams := p.dims, placed := 0, ahead := [], ended := 0, failed := false, descErr := false
    aborted := false, pg := 0, pt := 0, pfrom := 0, pto := none, done := false }

/-- The descriptor of a packet that may launch. -/
def packetDescriptor (s : State) (q : Queue) (p : Packet) : Option Descriptor :=
  if p.op = 1 && p.clean && 1 ≤ p.dims && p.dims < 2 ^ 32 && p.desc.toNat % 64 == 0 then
    (descriptorFor s q.ctx ((ctxOf s q.ctx).cores.headD 0) p.desc).filter (fun d => d.kind == 0)
  else none

/-- The next packet of a queue taken: a grid, or a rejected packet's record; a stopped queue's packets complete with
status 4. -/
def takePacket (s : State) (q : Queue) : State :=
  let p := packetOf s q q.consumed
  let s := { modQueue s q.id (fun q => { q with consumed := q.consumed + 1 }) with
    qlast := mapSet 255 q.prio.toNat q.id s.qlast }
  if q.stopped then complete s q.ctx q.id nobody p.done 0 4 p.op
  else match packetDescriptor s q p with
    | some d =>
      let r := fresh s
      addGrid r.2 (packetGrid r.1 q p d)
    | none => complete s q.ctx q.id nobody p.done 0 1 p.op

/-- LAUNCH (24 R322; 18 R269): the next packet of a queue is checked and launches a grid; no queue with packets comes
before it. -/
def execLaunch (s : State) : Out :=
  match queueOf? s s.ev.queue with
  | none => .next s
  | some q =>
    if q.pending && !(s.queues.any (fun r => r.pending && queueRank s r < queueRank s q)) then .next (takePacket s q)
    else .next s

/-- The status of a grid that has ended (18 R272, R288; 24 R323). -/
def gridStatus (x : Grid) : Nat := if x.aborted then 3 else if x.failed || x.descErr then 2 else 0

/-- GRID_COMPLETION (24 R323, R324): a host grid whose last team has ended writes its record. -/
def execGridCompletion (s : State) : Out :=
  match gridOf? s s.ev.grid with
  | none => .next s
  | some x =>
    match x.origin with
    | .host q op done =>
      if x.done || x.ended < x.nteams then .next s
      else
        let s1 := { s with grids := s.grids.map (fun y => if y.id == x.id then { y with done := true } else y) }
        .next (complete s1 x.ctx q (endKey x.id) (BitVec.ofNat 64 done) x.launched (gridStatus x) op.toNat)
    | _ => .next s

/-- QUEUE_PRIORITY_CHANGE (18 R271): teams not yet distributed take it when they are, and parked teams return under it. -/
def execQueuePriorityChange (s : State) : Out :=
  let mine (x : Grid) : Bool := match x.origin with | .host q _ _ => q == s.ev.queue | _ => false
  let ids := (s.grids.filter mine).map (·.id)
  let s1 := modQueue s s.ev.queue (fun q => { q with prio := s.ev.prio })
  .next { s1 with
    grids := s1.grids.map (fun x => if mine x then { x with prio := s.ev.prio } else x)
    teams := s1.teams.map (fun t => if ids.contains t.grid && t.state == .parked then { t with prio := s.ev.prio } else t) }

/-! ### Contexts (24 R325; 18 R269, R270) -/

/-- The context that a mailbox command describes. OREV is 2, the native ordering, until a code object fixes it: the manual
gives it no value before (DESIGN CHOICE). -/
def newContext (id : Nat) (a : ContextArgs) : Context :=
  { id := id, det := a.det, spchk := a.spchk, orev := 2, crbase := List.replicate 8 0, evctl := List.replicate 8 0
    trapvec := 0, ptRoot := a.ptRoot, peers := a.peers, rings := a.rings.map (fun r => ⟨r.1, r.2.1, r.2.2, 0, 0, false⟩)
    frameVa := a.frameVa, framePa := a.framePa, frames := a.frames, used := [], records := a.records, poolPa := a.recordPa
    pool := [], excess := [], trapVa := a.trapVa, trapPa := a.trapPa, cores := a.cores
    slice := if a.slice = 0 then 2500000 else a.slice, btimer := 2048, grids := 0, loaded := false, shadow := []
    queues := a.queues.map (·.1), halted := false }

/-- Whether a mailbox command can be carried out: its queues are free and rings of 16 to 65,536 packets, its cores
exist, its frames are aligned to 128. -/
def contextOk (s : State) (a : ContextArgs) : Bool :=
  a.queues.all (fun q => q.1 < 256 && (queueOf? s q.1).isNone && 4 ≤ q.2.2.2 && q.2.2.2 ≤ 16) &&
  (a.queues.map (·.1)).eraseDups.length == a.queues.length && a.cores.all coreExists &&
  a.cores.eraseDups.length == a.cores.length && a.frameVa % 128 == 0 && a.framePa % 128 == 0

/-- A ring header as firmware sets it up: PRIV, and nothing kicked or posted (22 R301). -/
def setupRing (ctx : Nat) (s : State) (r : Ring) : State :=
  match walk s (ctxOf s ctx) (BitVec.ofNat 64 r.header) with
  | .error _ => s
  | .ok l =>
    let pa := ptePage l.entry + (r.header % 2 ^ 55 - l.va)
    if ptePeer l.entry != 0 || !physRange pa 64 then s else
    let b := readByte s (pa + 8) &&& 0x7F ||| (if r.priv then 0x80 else 0)
    performWrite (performWrite s 0 (pa + 8) [b] false) 0 (pa + 16) (List.replicate 16 0) false

/-- CONTEXT_CREATE (24 R325): firmware makes a context with the lowest free number, its queues bound, on the cores that are
free; the reply is its CTXID, or that there is none. Before firmware runs nothing answers. -/
def execContextCreate (s : State) : Out :=
  let a := s.ev.context
  if s.booted != .running then .next s else
  match (List.range 64).find? (fun n => (ctxOf? s n).isNone) with
  | none => .next (reply s (.context none))
  | some id =>
    if !contextOk s a then .next (reply s (.context none))
    else
      let c := newContext id a
      let s1 := { s with
        ctxs := s.ctxs ++ [c]
        queues := s.queues ++ a.queues.map (fun q => ⟨q.1, id, q.2.1, q.2.2.1, q.2.2.2, 0, 0, false⟩) }
      let s2 := c.rings.foldl (setupRing id) s1
      .next (reply (a.cores.foldl (fun acc k => claimCore acc id k) s2) (.context (some id)))

/-- POOL_GROW (18 R276, R279): firmware adds frames to a context's frame pool and records to its task pool, which answers
what asked for them; records that waited for room enter the pool. -/
def execPoolGrow (s : State) : Out :=
  let grown (q : PoolAsk) : Bool := q.ctx == s.ev.ctx && (if q.tasks then 0 < s.ev.records else 0 < s.ev.frames)
  let s1 := modCtx s s.ev.ctx (fun c => { c with frames := c.frames + s.ev.frames, records := c.records + s.ev.records })
  .next (fillPool { s1 with asks := s1.asks.filter (fun q => !grown q) } s.ev.ctx)

/-- SHADOW_REGION_CLEAR (23 R317): while no team of the context is resident. -/
def execShadowRegionClear (s : State) : Out :=
  .next (if s.teams.any (fun t => t.ctx == s.ev.ctx && t.state == .resident) then s
    else modCtx s s.ev.ctx (fun c => { c with shadow := [] }))

/-! ### Code objects (03 R66; 17 R332; 24 R330) -/

/-- A code object's header. -/
structure ObjectHeader where
  magic    : Nat
  version  : Nat
  orev     : Nat
  flags    : Nat
  sections : List (Nat × Nat)      -- offset and size of .scalar, .lane, .data, .rodata, the entries, the Sloivo module
  banks    : Nat × Nat             -- offset and count of the bank table
  deriving DecidableEq, Repr

/-- A header parsed. -/
def parseHeader (bs : List Byte) : ObjectHeader :=
  let pair (off unit : Nat) : Nat × Nat := (field bs off 4, unit * field bs (off + 4) 4)
  { magic := field bs 0 4, version := field bs 4 2, orev := field bs 6 1, flags := field bs 7 1
    sections := [pair 8 1, pair 16 1, pair 24 1, pair 32 1, pair 40 64, pair 48 1], banks := pair 56 1 }

/-- The bank table's words. -/
def bankWords (h : ObjectHeader) (bs : List Byte) : List W64 :=
  (List.range h.banks.2).map (fun i => BitVec.ofNat 64 (field bs (h.banks.1 + 8 * i) 8))

/-- Whether no two byte ranges of a list meet. -/
def apart : List (Nat × Nat) → Bool
  | [] => true
  | r :: rest => rest.all (fun q => r.2 == 0 || q.2 == 0 || !rangesTouch r.1 r.2 q.1 q.2) && apart rest

/-- The checks of a header that do not need its bank table (03 R66): the sections that must not overlap are `.scalar`, `.lane`,
`.data` and `.rodata` (00 R8). -/
def headerOk (c : Context) (h : ObjectHeader) : Bool :=
  h.magic == 0x3947464E && h.version == 1 && (h.orev == 1 || h.orev == 2) && h.flags < 2 &&
  (h.flags == 1 || h.sections.getD 5 (0, 0) == (0, 0)) &&
  apart (h.sections.take 4) && (!c.loaded || c.orev.toNat == h.orev)

/-- Whether a bank table may be loaded: each word is valid under 06 R113, no two name one bank, a cache way remains. -/
def tableOk (s : State) (ctx core : Nat) (ws : List W64) : Bool :=
  let banks := ws.map (fun w => (w.extractLsb' 0 5).toNat)
  ws.all (fun w => (configureBank (setCore s { coreOf s core with banks := [] }) ctx core w).1 != 3) &&
  banks.eraseDups.length == banks.length &&
  (ws.filter (fun w => w.extractLsb' 5 2 != 0)).length < 24

/-- The table of level 3 that maps an address, if the tables above it exist. -/
def leafTable (s : State) (c : Context) (va : Nat) : Option Nat :=
  let down (table level : Nat) : Option Nat :=
    let e := read64 s (table + 8 * levelIndex va level)
    if pteV e && !pteLeaf e && tableEntryOk e then some (ptePage e) else none
  (down c.ptRoot 1).bind (fun t => down t 2)

/-- The attribute bits with which a section is mapped: LEAF and V, and W for `.data` and for a carried Sloivo module, which
is mapped as data, SX for `.scalar`, LX for `.lane` (03 R66, R67). -/
def sectionBits (i : Nat) : Nat := 0x81 + (if i = 2 || i = 5 then 2 else 0) + (if i = 0 then 4 else 0) + (if i = 1 then 8 else 0)

/-- The pages that a section has bytes in, the object's first byte standing at `base` within its first page. -/
def sectionPages (base : Nat) (r : Nat × Nat) : List Nat :=
  if r.2 = 0 then [] else
  let lo := (base + r.1) / 65536
  (List.range ((base + r.1 + r.2 - 1) / 65536 + 1 - lo)).map (fun k => lo + k)

/-- The pages of a code object to map: the copy of the object that a page belongs to, the page, its attribute bits. A page
maps one set of rights; where sections that are mapped differently share one, firmware lays the object down once for each
section, a whole number of pages apart, and maps of each copy the pages of that section (DESIGN CHOICE). -/
def objectPages (h : ObjectHeader) (base n : Nat) : List (Nat × Nat × Nat) :=
  let count := (base + n + 65535) / 65536
  let uses := h.sections.zipIdx.map (fun r => (r.2, sectionPages base r.1))
  let bitsOf (p : Nat) : List Nat := ((uses.filter (fun u => u.2.contains p)).map (fun u => sectionBits u.1)).eraseDups
  if (List.range count).all (fun p => (bitsOf p).length ≤ 1) then
    (List.range count).map (fun p => (0, p, (bitsOf p).headD 0x81))
  else uses.flatMap (fun u => u.2.map (fun p => (u.1, p, sectionBits u.1)))

/-- One page of a code object mapped by firmware's store of its entry; `none` without a table to hold it. -/
def mapPage (ctx pa va : Nat) (s : State) (page bits : Nat) : Option State :=
  let at_ := va / 65536 * 65536 + 65536 * page
  (leafTable s (ctxOf s ctx) at_).map (fun t =>
    performWrite s 0 (t + 8 * levelIndex at_ 3) (leBytes 8 ((pa / 65536 + page) * 65536 + bits)) false)

/-- The copies of a code object that its pages need, at a 64-byte aligned physical address and a virtual address with the
same offset in its page, laid down and mapped. -/
def layObject (s : State) (ctx : Nat) (o : CodeObject) (va : Nat) : Option State :=
  let n := o.bytes.length
  let base := o.pa % 65536
  let stride := (base + n + 65535) / 65536 * 65536
  let pages := objectPages (parseHeader o.bytes) base n
  let copies := (0 :: pages.map (·.1)).eraseDups
  if n < 64 || o.pa % 64 != 0 || va % 65536 != base || !copies.all (fun c => physRange (o.pa + c * stride) n) then none
  else
    let s := copies.foldl (fun acc c => performWrite acc 0 (o.pa + c * stride) o.bytes false) s
    pages.foldl (fun acc p => acc.bind (fun s => mapPage ctx (o.pa + p.1 * stride) (va + p.1 * stride) s p.2.1 p.2.2)) (some s)

/-- CODE_OBJECT_LOAD (03 R66; 17 R332; 24 R330): the header is checked, the sections are mapped, the measurement register
is extended, and the bank table waits on each core of the context. A load that fails a check changes nothing. -/
def execCodeObjectLoad (s : State) : Out :=
  let o := s.ev.object
  let h := parseHeader o.bytes
  let ws := bankWords h o.bytes
  match ctxOf? s s.ev.ctx with
  | none => .next (reply s (.load false))
  | some c =>
    match (if headerOk c h then layObject s c.id o (s.ev.va.toNat % 2 ^ 55) else none) with
    | none => .next (reply s (.load false))
    | some s1 =>
      if !tableOk s1 c.id (c.cores.headD 0) ws then .next (reply s (.load false))
      else
        let s2 := modCtx s1 c.id (fun c => { c with orev := BitVec.ofNat 4 h.orev, loaded := true })
        let s3 := if ws.isEmpty then s2 else c.cores.foldl (fun acc k =>
          let x := coreOf acc k
          setCore acc { x with tables := x.tables ++ [⟨c.id, ws, c.grids⟩] }) s2
        .next (reply { s3 with measure := Config.measureExtend s3.measure (shake256 o.bytes 64) } (.load true))

/-- One word of a bank table applied; a refused word is skipped, and a context error names its bank. -/
def applyWord (ctx core : Nat) (s : State) (w : W64) : State :=
  let r := configureBank s ctx core w
  if r.1 = 0 then r.2 else errorFor s ctx .bank (BitVec.ofNat 8 r.1) (BitVec.ofNat 64 (w.extractLsb' 0 5).toNat)

/-- BANK_TABLE_APPLY (17 R332): the first table waiting on a core for the context it serves, once no team of the context
is admitted there. -/
def execBankTableApply (s : State) : Out :=
  let c := coreOf s s.ev.core
  match findIdx? (fun (t : PendingTable) => c.ctx == some t.ctx) c.tables 0 with
  | none => .next s
  | some (i, t) =>
    if (admittedTeams s c.id).any (fun u => u.ctx == t.ctx) then .next s
    else .next (t.words.foldl (applyWord t.ctx c.id) (setCore s { c with tables := dropAt i c.tables }))

end Sys2Proof.Machine
end

