-- ==== Sys2Proof/Machine/HostBoot.lean ====
section
/-! DEFINITION. Host and peer accesses, the management port, safety limits, boot and attestation
(24 R324 to R331; 13 R242; 18 R288). -/

namespace Sys2Proof.Machine

open Host

/-! ### Accesses from outside (24 R324; 13 R242) -/

/-- A future word's full state and value. -/
def futureBytes (s : State) (pa : Nat) : List Byte := (if wordFull s pa then 1 else 0) :: homeBytes s (pa / 8 * 8) 8

/-- BOOTSTAT as it is read through the management port and BAR0 (24 R331). -/
def bootStat (s : State) : W64 :=
  let state : Nat := match s.booted with | .rom => 0 | .verifying => 1 | .waiting => 2 | .running => 3 | .tripped => 4
  BitVec.ofNat 64 (s.svn.toNat * 2 ^ 32 + s.fail.toNat * 256 + state)

/-- HOST_MEMORY_ACCESS (24 R321, R324, R331): a read or write of device memory performed at the point of coherence; a read
of BOOTSTAT, whose fields a write leaves as they are; or a queue's doorbell written through BAR0. -/
def execHostMemoryAccess (s : State) : Out :=
  match s.ev.host with
  | .bootStat => .next (reply s (.data (bytes64 (bootStat s))))
  | .barRead off => if off = 0 then .next (reply s (.data (bytes64 (bootStat s)))) else .fault (.mailbox off)
  | .barWrite off v =>
    if off = 0 then .next s
    else if 0x10000 ≤ off && off < 0x10800 && off % 8 == 0 then .next (writeDoorbell s ((off - 0x10000) / 8) v.toNat)
    else .fault (.mailbox off)
  | .read pa n => if physRange pa n then .next (reply s (.data (homeBytes s pa n))) else .fault (.reservedAddress pa)
  | .future pa => if physOk pa then .next (reply s (.data (futureBytes s pa))) else .fault (.reservedAddress pa)
  | .pcieWrite pa data => if physRange pa data.length then .next (performWrite s 0 pa data false) else .fault (.reservedAddress pa)
  | .cxlWrite pa data => if physRange pa data.length then .next (performWrite s 0 pa data false) else .fault (.reservedAddress pa)

/-- Whether every line of a range has a class in its record, and the encoding of the translation used (17 R260). -/
def linesOf (s : State) (pa n cls : Nat) (cmp : Bool) : Bool :=
  (List.range (if n = 0 then 0 else (pa + n - 1) / 64 - pa / 64 + 1)).all (fun i =>
    let r := recordOf s ((pa / 64 + i) * 64)
    r.cls.toNat == cls && (r.enc == 1) == cmp)

/-- The answer to an access whose class disagrees with the line record: nothing is changed, and the requester raises
trap 0x07. -/
def refusePeer (s : State) : State := reply s (.data [])

/-- An access of another device of a class at a range, when it holds memory; `ev.mapped` says whether its translation is
of a compressed page. -/
def peerAt (s : State) (pa n cls : Nat) (f : State → State) : Out :=
  if !physRange pa n then .fault (.reservedAddress pa)
  else .next (if linesOf s pa n cls s.ev.mapped then f s else refusePeer s)

/-- PEER_PAGE_ACCESS (13 R242; 06 R104): an access of another device performed at this device's home slice. A get of an
EMPTY future word links itself into the word's deferred-read list. -/
def execPeerPageAccess (s : State) : Out :=
  match s.ev.peer with
  | .read pa n => peerAt s pa n 0 (fun s => reply s (.data (homeBytes s pa n)))
  | .write pa data => peerAt s pa data.length 0 (fun s => performWrite s 0 pa data false)
  | .atomic pa op c d => peerAt s pa 4 0 (fun s =>
      let old := homeBytes s pa 4
      reply (performWrite s 0 pa (bytes32 (atomic32 op.toNat (word32 old) c d).1) false) (.data old))
  | .scalarAtomic pa op b d => peerAt s pa 8 0 (fun s =>
      let old := homeBytes s pa 8
      reply (performWrite s 0 pa (bytes64 (atomic64 op.toNat (word64 old) b d)) false) (.data old))
  | .put pa v => peerAt s pa 8 3 (fun s => putWord s 0 nobody pa v)
  | .get pa => peerAt s pa 8 3 (fun s =>
      if wordFull s pa then reply s (.data (futureBytes s pa)) else { s with waiters := s.waiters ++ [(pa, 0)] })
  | .try_ pa => peerAt s pa 8 3 (fun s => reply s (.data (futureBytes s pa)))
  | .clear pa => peerAt s pa 8 3 (fun s => setFull (performWrite s 0 pa (bytes64 0) false) pa false)

/-! ### Resets (24 R326; 18 R288) -/

/-- Status 3 for a host grid that has not completed. -/
def abortGrid (s : State) (x : Grid) : State :=
  match x.origin with
  | .host q op done =>
    if x.done then s
    else complete { s with grids := s.grids.map (fun y => if y.id == x.id then { y with done := true } else y) }
      x.ctx q nobody (BitVec.ofNat 64 done) x.launched 3 op.toNat
  | _ => s

/-- Status 3 for the packets of a queue not yet launched; the queue then reads as reset. -/
def abortQueue (s : State) (q : Queue) : State :=
  let s := (List.range (q.written - q.consumed)).foldl (fun acc i =>
    let p := packetOf acc q (q.consumed + i)
    complete acc q.ctx q.id nobody p.done 0 3 p.op) s
  modQueue s q.id (fun q => { q with written := 0, consumed := 0, stopped := false })

/-- DEVICE_RESET (24 R326): outstanding DONE words receive status 3, every context is destroyed, and the boot ROM is
about to run. Memory, its line records, the fuses, the firmware store and what the host has been told stay. -/
def execDeviceReset (s : State) : Out :=
  let s1 := s.queues.foldl abortQueue (s.grids.foldl abortGrid s)
  .next { State.reset with
    mem := s1.mem, records := s1.records, poison := s1.poison, unreach := s1.unreach, links := s1.links
    device := s1.device, frees := s1.frees, agenda := s1.agenda, svn := s1.svn, fuse := s1.fuse, store := s1.store
    ints := s1.ints, replies := s1.replies }

/-- A group of a context that is reset halts where it stands (18 R288). -/
def haltFor (s : State) (gid : Nat) : State :=
  match groupOf? s gid with
  | none => s
  | some g => if g.gone || g.run == .failing then s else withFocus s gid haltGroup

/-- A grid cut short by a reset: it has no teams but those distributed (24 R323). -/
def Grid.cut (x : Grid) : Grid :=
  { x with nteams := x.launched, placed := x.launched, ahead := [], failed := x.failed || x.launched < x.nteams, aborted := true }

/-- The teams of a grid not yet distributed are dropped; those of a spawned grid end in error. A grid whose last team had
ended before stays as it is. -/
def dropTeams (s : State) (x : Grid) : State :=
  if x.done || x.nteams ≤ x.ended then s else
  let s := { s with grids := s.grids.map (fun y => if y.id == x.id then y.cut else y) }
  let n := x.nteams - x.launched
  if n = 0 then s else
  let core := x.home.getD ((ctxOf s x.ctx).cores.headD 0)
  match x.origin with
  | .host .. => s
  | .spawn f _ => (List.range n).foldl (fun acc _ => reportEnd acc x.ctx core f) s
  | .consumer f _ k bank slot _ => reportEnd (freeConsumed s x.ctx x.id k bank slot) x.ctx core f
  | .tasks recs => endRecords s x.ctx core recs

/-- The records in a core's bins of a context end. -/
def dropBins (s : State) (ctx core : Nat) : State :=
  let c := coreOf s core
  let mine := c.bins.filter (fun b => b.ctx == ctx && !b.records.isEmpty)
  let s := setCore s { c with bins := c.bins.map (fun b => if b.ctx == ctx && !b.records.isEmpty then Bin.none else b) }
  mine.foldl (fun acc b => endRecords acc ctx core b.records) s

/-- CONTEXT_RESET (24 R326): the context's teams halt, their engine operations are cancelled, its tasks end, and packets
not yet launched complete with status 3. -/
def execContextReset (s : State) : Out :=
  match ctxOf? s s.ev.ctx with
  | none => .next s
  | some c =>
    let pooled := (poolRecords s c.id).map (·.2) ++ c.excess
    let s0 := modCtx s c.id (fun c => { c with halted := true, pool := [], excess := [] })
    let s1 := { s0 with asks := s0.asks.filter (fun q => q.ctx != c.id) }
    let s2 := ((allGroups s1).filter (fun g => g.ctx == c.id)).foldl (fun acc g => haltFor acc g.gid) s1
    let s3 := (s2.grids.filter (fun x => x.ctx == c.id)).foldl dropTeams s2
    let s4 := (s3.cores.map (·.1)).foldl (fun acc k => dropBins acc c.id k) s3
    let s5 := endRecords s4 c.id (c.cores.headD 0) pooled
    .next ((s5.queues.filter (fun q => q.ctx == c.id)).foldl abortQueue s5)

/-- TELEMETRY (24 R326): a reply, and no other change. -/
def execTelemetry (s : State) : Out :=
  .next (reply s (.data (Config.telemetry s.frees
    [s.clock.toNat, s.steps, s.hot.length, s.errors.length, s.log.length])))

/-! ### Safety limits (24 R327) -/

/-- POWER_LIMIT: the core clocks step down. Only timing changes. -/
def execPowerLimit (s : State) : Out := .next { s with steps := s.steps + 1 }

/-- JUNCTION_THROTTLE: the clocks of the hot die step down. Only timing changes. -/
def execJunctionThrottle (s : State) : Out :=
  .next (if s.hot.contains s.ev.die then s else { s with hot := s.hot ++ [s.ev.die] })

/-- THERMAL_TRIP: every core stops, every context receives a context error, the management port raises an alert. -/
def execThermalTrip (s : State) : Out :=
  let s1 := s.ctxs.foldl (fun acc c => errorFor acc c.id .thermal 0 0) s
  .next (reply { s1 with booted := .tripped } .alert)

/-! ### Boot (24 R328 to R331) -/

/-- What an image's signature covers. -/
def Image.signed (i : Image) : List Byte := i.header ++ i.body

/-- The magic in an image's header. The manual names the header's fields and gives them no place: magic and version take
four bytes each, the length eight, the security version four, in that order (DESIGN CHOICE). -/
def Image.magic (i : Image) : W32 := BitVec.ofNat 32 (field i.header 0 4)
/-- The version of the header's layout. -/
def Image.version (i : Image) : W32 := BitVec.ofNat 32 (field i.header 4 4)
/-- The length: of header and body together (DESIGN CHOICE). -/
def Image.length (i : Image) : Nat := field i.header 8 8
/-- The 32-bit security version. -/
def Image.svn (i : Image) : W32 := BitVec.ofNat 32 (field i.header 16 4)

/-- Whether an image has the form of 24 R329. -/
def Image.formed (i : Image) : Bool :=
  20 ≤ i.header.length && i.magic == Config.imageMagic && i.version == Config.imageVersion &&
  i.length == i.signed.length && i.key.length == 64 && i.sig.length == 29792

/-- The failure code of an image, 0 for one that is accepted: transfer, format, key digest, signature, version. -/
def imageFailure (s : State) (i : Image) : BitVec 8 :=
  if !i.complete then 5
  else if !i.formed then 4
  else if shake256 i.key 32 != s.fuse then 1
  else if !Config.slhDsaVerify i.key i.signed i.sig then 2
  else if i.svn < s.svn then 3
  else 0

/-- An accepted image measured and started on the control cores (24 R328, R330). -/
def startImage (s : State) (i : Image) : State :=
  { s with booted := .running, measure := Config.measureExtend s.measure (shake256 i.signed 64) }

/-- The image that is being verified has passed or failed: the stored one, or the one offered, which is stored first or
discarded. -/
def endVerify (s : State) : State :=
  match s.offer, s.store with
  | some (src, i), _ =>
    let s := { s with offer := none }
    if imageFailure s i = 0 then reply (startImage { s with store := some i } i) (.image src true)
    else reply { s with booted := .waiting, fail := imageFailure s i } (.image src false)
  | none, some i =>
    if imageFailure s i = 0 then startImage s i else { s with booted := .waiting, fail := imageFailure s i }
  | none, none => { s with booted := .waiting }

/-- BOOT_ROM_START (24 R328): the ROM's next step: it begins to verify the stored image, or waits when there is none; or it
ends the verification of an image. -/
def execBootRomStart (s : State) : Out :=
  .next (match s.booted with
    | .rom => { s with booted := if s.store.isNone then .waiting else .verifying }
    | .verifying => endVerify s
    | _ => s)

/-- An image offered to the ROM: refused unless the ROM waits for one. The first whose transfer completes is verified; one
whose transfer fails is discarded. -/
def offerImage (s : State) (src : ImageSource) (i : Image) : State :=
  if s.booted != .waiting then reply s (.image src false)
  else if !i.complete then reply { s with fail := imageFailure s i } (.image src false)
  else { s with booted := .verifying, offer := some (src, i) }

/-- FIRMWARE_LOAD (24 R326, R328): over the management port. -/
def execFirmwareLoad (s : State) : Out := .next (offerImage s .management s.ev.image)

/-- IMAGE_OFFER (24 R328): from the host mailbox or NVMe/TCP. -/
def execImageOffer (s : State) : Out := .next (offerImage s s.ev.source s.ev.image)

/-- RAISE_SECURITY_FLOOR (24 R329): by running firmware; the floor never falls. -/
def execRaiseSecurityFloor (s : State) : Out :=
  .next (if s.booted = .running && s.svn < s.ev.svn then { s with svn := s.ev.svn } else s)

/-- ATTEST (24 R330): the register and the caller's 32-byte nonce, signed. -/
def execAttest (s : State) : Out :=
  .next (if s.ev.nonce.length = 32 then reply s (.attest s.measure s.ev.nonce (Config.mlDsaSign (s.measure ++ s.ev.nonce)))
    else s)

/-- POWER_LOSS (24 R328): everything but the fuses, the floor and the firmware store is lost; a store that was being
written then fails verification. -/
def execPowerLoss (s : State) : Out :=
  .next { State.reset with
    device := s.device, frees := s.frees, agenda := s.agenda, svn := s.svn, fuse := s.fuse
    store := if s.ev.mapped then s.store.map (fun i => { i with complete := false }) else s.store }

end Sys2Proof.Machine
end

