-- ==== Sys2Proof/Machine/Fetch.lean ====
section
/-! DEFINITION. Instruction fetch (03 R58, R63 to R65; 17 R261 to R265). -/

namespace Sys2Proof.Machine

/-! ### Bytes of code -/

/-- A page of code as a stream of the group in focus fetches it: its leaf, or the fault of an address in it (03 R63). -/
def fetchPage (s : State) (lane : Bool) (va : W64) : Except AccFault Leaf :=
  if !vaOk va then .error ⟨0x06, 0, va⟩ else
  match translate s s.g.ctx s.g.core va with
  | .error cause => .error ⟨0x04, cause, va⟩
  | .ok l => if (if lane then pteLX l.entry else pteSX l.entry) then .ok l else .error ⟨0x05, 0, va⟩

/-- The bytes of a code line. -/
abbrev codeLine : Nat := 128

/-- A byte of code at a physical address: a line that the core's instruction caches hold, or one that the group may have
fetched before an ICINV, is fetched old or new, wholly (03 R65). -/
def codeByte (s : State) (l : Leaf) (va : W64) (pa : Nat) : Byte :=
  let fresh := (coherentBytes s s.g.ctx s.g.core ⟨va, pa, l.entry⟩ 1).headD 0
  let olds := ((coreOf s s.g.core).icache ++ s.g.leftover.map (·.2)).filter (fun c => c.line == pa / codeLine)
  match choose s (freeKey 12 (pa / codeLine)) (olds.length + 1) with
  | 0 => fresh
  | i + 1 => ((olds[i]?).map (fun c => c.bytes.getD (pa % codeLine) 0)).getD fresh

/-- `n` bytes from an address of a page of code. -/
def pageBytes (s : State) (l : Leaf) (va : W64) (n : Nat) : List Byte :=
  let pa := ptePage l.entry + (va.toNat % 2 ^ 55 - l.va)
  (List.range n).map (fun i => codeByte s l va (pa + i))

/-- `n` bytes of a page that the group cannot execute, as far as it maps them: they say how long the instruction is whose
faults are taken together (18 R285). -/
def rawBytes (s : State) (va : W64) (n : Nat) : List Byte :=
  match translate s s.g.ctx s.g.core va with
  | .ok l => pageBytes s l va n
  | .error _ => []

/-- The order in which the faults of one instruction's bytes are taken (18 R285): 0x06, 0x04, 0x05. -/
def fetchRank (f : AccFault) : Nat := if f.code = 0x06 then 0 else if f.code = 0x04 then 1 else 2

/-- `n` bytes of code from an address, at most a page: the fault that comes first, at the lowest byte that has it. -/
def fetchBytes (s : State) (lane : Bool) (va : W64) (n : Nat) : Except AccFault (List Byte) :=
  let m := min n (65536 - va.toNat % 65536)
  let next := va + BitVec.ofNat 64 m
  if m = n then (fetchPage s lane va).map (fun l => pageBytes s l va n)
  else
    match fetchPage s lane va, fetchPage s lane next with
    | .ok l, .ok k => .ok (pageBytes s l va m ++ pageBytes s k next (n - m))
    | .error f, .error g => .error (if fetchRank g < fetchRank f then g else f)
    | .error f, .ok _ => .error f
    | .ok _, .error g => .error g

/-! ### The scalar stream -/

/-- A scalar word. -/
def fetchWord (s : State) (va : W64) : Except AccFault W32 := (fetchBytes s false va 4).map word32

/-- The words that a word brings with it: the literal words of an SLIT (03 R54). -/
def moreWords (w : W32) : Nat := scalarWords (decodeScalar w 0 0) - 1

/-- The fault of an instruction of `n` bytes whose first part has the fault `f`: a later part may have one that comes
first. -/
def wholeFetch (s : State) (lane : Bool) (va : W64) (n : Nat) (f : AccFault) : AccFault :=
  if f.code = 0x05 && n ≠ 0 then
    match fetchBytes s lane va n with
    | .error g => g
    | .ok _ => f
  else f

/-- The instruction at the scalar PC. -/
def fetchScalar (s : State) : Except AccFault Instr :=
  match fetchWord s s.g.spc with
  | .error f => .error (wholeFetch s false s.g.spc (4 * (moreWords (word32 (rawBytes s s.g.spc 4)) + 1)) f)
  | .ok w =>
    let n := moreWords w
    if n = 0 then .ok (decodeScalar w 0 0)
    else (fetchBytes s false s.g.spc (4 * (n + 1))).map (fun bs =>
      decodeScalar w (word32 ((bs.drop 4).take 4)) (word32 ((bs.drop 8).take 4)))

/-! ### The lane stream -/

/-- Filler bytes skipped at most, in one step, before an instruction. -/
abbrev fillerRun : Nat := 128

/-- The bytes of filler at a lane address, at most `n`: a run ends at another byte or at one that faults. -/
def fillerAt (s : State) (va : W64) : Nat → Nat
  | 0 => 0
  | n + 1 =>
    match fetchBytes s true va 1 with
    | .ok [b] => if b = 0xFF then 1 + fillerAt s (va + 1) n else 0
    | _ => 0

/-- The split in focus moved past filler: its LPC then holds the offset of the instruction (03 R58). -/
def skipFiller (s : State) : State :=
  let k := fillerAt s (laneVa s) fillerRun
  if k = 0 then s else
    { s with g := setSplit s.g s.ent { curSplit s with lpc := (curSplit s).lpc + BitVec.ofNat 32 k } }

/-- The instruction at the lane PC of the split in focus; none in the midst of a long run of filler. -/
def fetchLane (s : State) : Except AccFault (Option Instr) :=
  let va := laneVa s
  match fetchBytes s true va 1 with
  | .error f => .error (wholeFetch s true va (prefixLength ((rawBytes s va 1).headD 0)) f)
  | .ok p =>
    if p.headD 0 = 0xFF then .ok none
    else (fetchBytes s true va (prefixLength (p.headD 0))).map decodeLane

/-! ### Fetch faults (03 R63) -/

/-- A fetch fault of the scalar stream. -/
def scalarFetchFault (s : State) (f : AccFault) : Out := finishScalar s (.error (scalarFault s f))

/-- A fetch fault of the split in focus: every lane of it. -/
def laneFetchFault (s : State) (f : AccFault) : Out :=
  let req : TrapReq := { laneTrap s f.code with fmask := (curSplit s).mask, sub := f.sub, faddr := f.va }
  finishLane s (.error (if f.code = 0x04 then .suspend req else .trap req))

/-- A line of code brought into a core's instruction caches (03 R64). -/
def cacheCode (s : State) (core pa : Nat) : State :=
  let c := coreOf s core
  let l : CodeLine := ⟨pa / codeLine, readBytes s (pa / codeLine * codeLine) codeLine⟩
  setCore s { c with icache := l :: c.icache.filter (fun k => k.line != l.line) }

end Sys2Proof.Machine
end

