-- ==== Sys2Proof/Machine/Special.lean ====
section
/-! DEFINITION. The special registers (01 R22 to R25) and the instructions that reach them (06 R90). -/

namespace Sys2Proof.Machine

/-- The value of FMODE: ORDSTR in bit 31, the writable fields in [5:0] (01 R23). -/
def fmodeValue (s : State) : W64 :=
  (if ordStr s s.g.ctx then 0x80000000 else 0) ||| s.g.fmode.zeroExtend 64

/-- FLAGS as SRD reads it: each flag that the outstanding call turned on is included or left out (01 R24). -/
def flagsRead (s : State) : BitVec 8 :=
  match s.g.call with
  | none => s.g.flags
  | some c => s.g.flags &&& ~~~(c.raised &&& BitVec.ofNat 8 (freeOf s 13))

/-- The cluster shape of the group's team: rows and columns, one by one without a cluster (01 R22). -/
def clusterShape (s : State) : W64 :=
  match myGrid? s with
  | some x => if x.desc.clustered then BitVec.ofNat 64 (x.desc.crows * 16 + x.desc.ccols) else 0x11
  | none => 0x11

/-- A special register's value; `none` for a number that G9 does not have (01 R22). -/
def specialRead (s : State) (n : Nat) : Option W64 :=
  let c := ctxOf s s.g.ctx
  let team := teamOf? s s.g.team
  let nat (v : Nat) : Option W64 := some (BitVec.ofNat 64 v)
  if 18 ≤ n && n ≤ 25 then some ((c.crbase.getD (n - 18) 0).zeroExtend 64)
  else if 26 ≤ n && n ≤ 33 then some (c.evctl.getD (n - 26) 0)
  else match n with
  | 0 => nat (s.g.ctx % 64)
  | 1 => some (s.device.zeroExtend 64)
  | 2 => nat (dieOf s.g.core % 4)
  | 3 => nat (s.g.core % 64)
  | 4 => nat ((team.map (·.cidx)).getD 0)
  | 5 => some (clusterShape s)
  | 6 => nat ((team.map (·.index)).getD 0)
  | 7 => nat (((myGrid? s).map (·.nteams)).getD 0)
  | 8 => nat s.g.index
  | 9 => nat (((myGrid? s).map (·.desc.groups)).getD 0)
  | 10 => some (s.g.role.zeroExtend 64)
  | 11 => some (s.g.tilew.zeroExtend 64)
  | 12 => some (fmodeValue s)
  | 13 => some ((flagsRead s).zeroExtend 64)
  | 14 => nat c.det.toNat
  | 15 => some s.clock
  | 16 => some (s.g.seedlo.zeroExtend 64)
  | 17 => some (s.g.seedhi.zeroExtend 64)
  | 34 => some c.trapvec
  | 35 => some (s.g.lanebase &&& 0x7FFFFFFFFFFFFF)
  | 36 => some (c.orev.zeroExtend 64)
  | 37 => some (s.g.cseq.zeroExtend 64)
  | _ => none

/-- Whether a special register is privileged (01 R22). -/
def specialPrivileged (n : Nat) : Bool := 18 ≤ n && n ≤ 34

/-- The tile widths (01 R22). -/
def tileWidth (v : BitVec 6) : Bool := v == 2 || v == 4 || v == 8 || v == 16 || v == 32

/-- A special register written under its access rules: a write to a read-only register is ignored, reserved bits are
ignored (01 R22 to R25; 00 R4, R5). -/
def specialWrite (s : State) (n : Nat) (v : W64) : State :=
  let c := s.g.ctx
  if 18 ≤ n && n ≤ 25 then modCtx s c (fun x => { x with crbase := x.crbase.set (n - 18) (v.setWidth 3) })
  else if 26 ≤ n && n ≤ 33 then
    modCtx s c (fun x => { x with evctl := x.evctl.set (n - 26) (v &&& 0xFFFFFFFFFFFFFF03) })
  else match n with
  | 10 => { s with g := { s.g with role := v.setWidth 8 } }
  | 11 => if tileWidth (v.setWidth 6) then { s with g := { s.g with tilew := v.setWidth 6 } } else s
  | 12 => { s with g := { s.g with fmode := v.setWidth 6 } }
  | 13 => { s with g := { s.g with flags := v.setWidth 8, call := s.g.call.map (fun k => { k with raised := 0 }) } }
  | 16 => { s with g := { s.g with seedlo := v.setWidth 32 } }
  | 17 => { s with g := { s.g with seedhi := v.setWidth 32 } }
  | 34 => modCtx s c (fun x => { x with trapvec := v &&& 0x7FFFFFFFFFFFC0 })
  | 37 => { s with g := { s.g with cseq := v.setWidth 32 } }
  | _ => s

/-- SRD: the register's value zero-extended; a number of 38 or above raises trap 0x01 (06 R90). -/
def execSrd (sd num : BitVec 10) (s : State) : Out :=
  finishScalar s <|
    match specialRead s num.toNat with
    | some v => .ok (nextSpc (writeS s sd.toNat v))
    | none => .error (.trap (scalarTrap s 0x01))

/-- SWR: a privileged register written by code that is not privileged raises trap 0x05 (06 R90). -/
def execSwr (num sa : BitVec 10) (s : State) : Out :=
  finishScalar s <|
    if 38 ≤ num.toNat then .error (.trap (scalarTrap s 0x01))
    else if specialPrivileged num.toNat && !s.g.priv then .error (.trap (scalarTrap s 0x05))
    else .ok (nextSpc (specialWrite s num.toNat (readS s sa.toNat)))

end Sys2Proof.Machine
end

