-- ==== Sys2Proof/Machine/Dispatch.lean ====
section
/-! DEFINITION. The meaning of each instruction and step, one arm for each. -/

namespace Sys2Proof.Machine

open Host

def exec (i : Instr) (s : State) : Host.Outcome State Fault Refusal :=
  match i with
  | .sadd sd sa sb => Sys2Proof.Machine.execSadd sd sa sb s
  | .ssub sd sa sb => Sys2Proof.Machine.execSsub sd sa sb s
  | .smul sd sa sb => Sys2Proof.Machine.execSmul sd sa sb s
  | .smulh sd sa sb => Sys2Proof.Machine.execSmulh sd sa sb s
  | .sdiv sd sa sb => Sys2Proof.Machine.execSdiv sd sa sb s
  | .sdivu sd sa sb => Sys2Proof.Machine.execSdivu sd sa sb s
  | .srem sd sa sb => Sys2Proof.Machine.execSrem sd sa sb s
  | .sremu sd sa sb => Sys2Proof.Machine.execSremu sd sa sb s
  | .sand sd sa sb => Sys2Proof.Machine.execSand sd sa sb s
  | .sor sd sa sb => Sys2Proof.Machine.execSor sd sa sb s
  | .sxor sd sa sb => Sys2Proof.Machine.execSxor sd sa sb s
  | .sandn sd sa sb => Sys2Proof.Machine.execSandn sd sa sb s
  | .sshl sd sa sb => Sys2Proof.Machine.execSshl sd sa sb s
  | .sshr sd sa sb => Sys2Proof.Machine.execSshr sd sa sb s
  | .ssra sd sa sb => Sys2Proof.Machine.execSsra sd sa sb s
  | .sror sd sa sb => Sys2Proof.Machine.execSror sd sa sb s
  | .sslt sd sa sb => Sys2Proof.Machine.execSslt sd sa sb s
  | .ssltu sd sa sb => Sys2Proof.Machine.execSsltu sd sa sb s
  | .sseq sd sa sb => Sys2Proof.Machine.execSseq sd sa sb s
  | .ssne sd sa sb => Sys2Proof.Machine.execSsne sd sa sb s
  | .smin sd sa sb => Sys2Proof.Machine.execSmin sd sa sb s
  | .smax sd sa sb => Sys2Proof.Machine.execSmax sd sa sb s
  | .sminu sd sa sb => Sys2Proof.Machine.execSminu sd sa sb s
  | .smaxu sd sa sb => Sys2Proof.Machine.execSmaxu sd sa sb s
  | .sclz sd sa => Sys2Proof.Machine.execSclz sd sa s
  | .sctz sd sa => Sys2Proof.Machine.execSctz sd sa s
  | .spop sd sa => Sys2Proof.Machine.execSpop sd sa s
  | .sbrev sd sa => Sys2Proof.Machine.execSbrev sd sa s
  | .saddi sd sa imm => Sys2Proof.Machine.execSaddi sd sa imm s
  | .sandi sd sa imm => Sys2Proof.Machine.execSandi sd sa imm s
  | .sori sd sa imm => Sys2Proof.Machine.execSori sd sa imm s
  | .sxori sd sa imm => Sys2Proof.Machine.execSxori sd sa imm s
  | .sshli sd sa imm => Sys2Proof.Machine.execSshli sd sa imm s
  | .sshri sd sa imm => Sys2Proof.Machine.execSshri sd sa imm s
  | .ssrai sd sa imm => Sys2Proof.Machine.execSsrai sd sa imm s
  | .sslti sd sa imm => Sys2Proof.Machine.execSslti sd sa imm s
  | .sli sd imm => Sys2Proof.Machine.execSli sd imm s
  | .slit sd lit => Sys2Proof.Machine.execSlit sd lit s
  | .sld sd sa imm => Sys2Proof.Machine.execSld sd sa imm s
  | .slw sd sa imm => Sys2Proof.Machine.execSlw sd sa imm s
  | .slwu sd sa imm => Sys2Proof.Machine.execSlwu sd sa imm s
  | .sst sd sa imm => Sys2Proof.Machine.execSst sd sa imm s
  | .sstw sd sa imm => Sys2Proof.Machine.execSstw sd sa imm s
  | .saadd sd sa sb => Sys2Proof.Machine.execSaadd sd sa sb s
  | .samin sd sa sb => Sys2Proof.Machine.execSamin sd sa sb s
  | .samax sd sa sb => Sys2Proof.Machine.execSamax sd sa sb s
  | .saxchg sd sa sb => Sys2Proof.Machine.execSaxchg sd sa sb s
  | .saand sd sa sb => Sys2Proof.Machine.execSaand sd sa sb s
  | .saor sd sa sb => Sys2Proof.Machine.execSaor sd sa sb s
  | .saxor sd sa sb => Sys2Proof.Machine.execSaxor sd sa sb s
  | .sacas sd sa sb => Sys2Proof.Machine.execSacas sd sa sb s
  | .sbeq sa sb off => Sys2Proof.Machine.execSbeq sa sb off s
  | .sbne sa sb off => Sys2Proof.Machine.execSbne sa sb off s
  | .sblt sa sb off => Sys2Proof.Machine.execSblt sa sb off s
  | .sbge sa sb off => Sys2Proof.Machine.execSbge sa sb off s
  | .sbltu sa sb off => Sys2Proof.Machine.execSbltu sa sb off s
  | .sbgeu sa sb off => Sys2Proof.Machine.execSbgeu sa sb off s
  | .sjmp off => Sys2Proof.Machine.execSjmp off s
  | .scall off => Sys2Proof.Machine.execScall off s
  | .sjr sa => Sys2Proof.Machine.execSjr sa s
  | .sjalr sd sa => Sys2Proof.Machine.execSjalr sd sa s
  | .smov sd sa => Sys2Proof.Machine.execSmov sd sa s
  | .srd sd num => Sys2Proof.Machine.execSrd sd num s
  | .swr num sa => Sys2Proof.Machine.execSwr num sa s
  | .lcall off => Sys2Proof.Machine.execLcall off s
  | .lcallr sa => Sys2Proof.Machine.execLcallr sa s
  | .ljoin => Sys2Proof.Machine.execLjoin s
  | .ltest sd => Sys2Proof.Machine.execLtest sd s
  | .spawn sd sa sb => Sys2Proof.Machine.execSpawn sd sa sb s
  | .awaitg => Sys2Proof.Machine.execAwaitg s
  | .texit => Sys2Proof.Machine.execTexit s
  | .yield => Sys2Proof.Machine.execYield s
  | .bar => Sys2Proof.Machine.execBar s
  | .barl sd => Sys2Proof.Machine.execBarl sd s
  | .cbar => Sys2Proof.Machine.execCbar s
  | .cbarl sd => Sys2Proof.Machine.execCbarl sd s
  | .fput sa sb => Sys2Proof.Machine.execFput sa sb s
  | .fget sd sa => Sys2Proof.Machine.execFget sd sa s
  | .ftry sd sa sb => Sys2Proof.Machine.execFtry sd sa sb s
  | .fclr sa => Sys2Proof.Machine.execFclr sa s
  | .cpy h sa sb sc rel => Sys2Proof.Machine.execCpy h sa sb sc rel s
  | .cpyb h sa sb sc rel => Sys2Proof.Machine.execCpyb h sa sb sc rel s
  | .gath h sa sb sc rel => Sys2Proof.Machine.execGath h sa sb sc rel s
  | .scat h sa sb sc rel => Sys2Proof.Machine.execScat h sa sb sc rel s
  | .xkick h sa sb rel => Sys2Proof.Machine.execXkick h sa sb rel s
  | .coll h sa rel => Sys2Proof.Machine.execColl h sa rel s
  | .waitc cls n => Sys2Proof.Machine.execWaitc cls n s
  | .waith h => Sys2Proof.Machine.execWaith h s
  | .testh sd h => Sys2Proof.Machine.execTesth sd h s
  | .canch h => Sys2Proof.Machine.execCanch h s
  | .hmov hd ha => Sys2Proof.Machine.execHmov hd ha s
  | .vacq n => Sys2Proof.Machine.execVacq n s
  | .vrel n => Sys2Proof.Machine.execVrel n s
  | .tacq n => Sys2Proof.Machine.execTacq n s
  | .trel n => Sys2Proof.Machine.execTrel n s
  | .bankcfg sa => Sys2Proof.Machine.execBankcfg sa s
  | .qclaim sd sa => Sys2Proof.Machine.execQclaim sd sa s
  | .qpub sa sb => Sys2Proof.Machine.execQpub sa sb s
  | .qfree sa sb => Sys2Proof.Machine.execQfree sa sb s
  | .qpop sd sa => Sys2Proof.Machine.execQpop sd sa s
  | .trap n => Sys2Proof.Machine.execTrap n s
  | .sysc n => Sys2Proof.Machine.execSysc n s
  | .eret => Sys2Proof.Machine.execEret s
  | .bkpt n => Sys2Proof.Machine.execBkpt n s
  | .tlbinv sa sb => Sys2Proof.Machine.execTlbinv sa sb s
  | .icinv sa sb => Sys2Proof.Machine.execIcinv sa sb s
  | .halt => Sys2Proof.Machine.execHalt s
  | .scmovn sd sa sb => Sys2Proof.Machine.execScmovn sd sa sb s
  | .scmovz sd sa sb => Sys2Proof.Machine.execScmovz sd sa sb s
  | .vadd f => Sys2Proof.Machine.execVadd f s
  | .vsub f => Sys2Proof.Machine.execVsub f s
  | .vmul f => Sys2Proof.Machine.execVmul f s
  | .vmulh f => Sys2Proof.Machine.execVmulh f s
  | .vmulhu f => Sys2Proof.Machine.execVmulhu f s
  | .vmad f => Sys2Proof.Machine.execVmad f s
  | .vabsd f => Sys2Proof.Machine.execVabsd f s
  | .vand f => Sys2Proof.Machine.execVand f s
  | .vor f => Sys2Proof.Machine.execVor f s
  | .vxor f => Sys2Proof.Machine.execVxor f s
  | .vandn f => Sys2Proof.Machine.execVandn f s
  | .vshl f => Sys2Proof.Machine.execVshl f s
  | .vshr f => Sys2Proof.Machine.execVshr f s
  | .vsra f => Sys2Proof.Machine.execVsra f s
  | .vror f => Sys2Proof.Machine.execVror f s
  | .vmin f => Sys2Proof.Machine.execVmin f s
  | .vmax f => Sys2Proof.Machine.execVmax f s
  | .vminu f => Sys2Proof.Machine.execVminu f s
  | .vmaxu f => Sys2Proof.Machine.execVmaxu f s
  | .vclz f => Sys2Proof.Machine.execVclz f s
  | .vpop f => Sys2Proof.Machine.execVpop f s
  | .vbrev f => Sys2Proof.Machine.execVbrev f s
  | .vbfx f => Sys2Proof.Machine.execVbfx f s
  | .vbfi f => Sys2Proof.Machine.execVbfi f s
  | .vsel f => Sys2Proof.Machine.execVsel f s
  | .vcmp f => Sys2Proof.Machine.execVcmp f s
  | .vmov f => Sys2Proof.Machine.execVmov f s
  | .vmovi f => Sys2Proof.Machine.execVmovi f s
  | .vaddc f => Sys2Proof.Machine.execVaddc f s
  | .vdiv f => Sys2Proof.Machine.execVdiv f s
  | .vrem f => Sys2Proof.Machine.execVrem f s
  | .fadd f => Sys2Proof.Machine.execFadd f s
  | .fsub f => Sys2Proof.Machine.execFsub f s
  | .fmul f => Sys2Proof.Machine.execFmul f s
  | .ffma f => Sys2Proof.Machine.execFfma f s
  | .fmin f => Sys2Proof.Machine.execFmin f s
  | .fmax f => Sys2Proof.Machine.execFmax f s
  | .fcmp f => Sys2Proof.Machine.execFcmp f s
  | .frnd f => Sys2Proof.Machine.execFrnd f s
  | .frcp f => Sys2Proof.Machine.execFrcp f s
  | .frsq f => Sys2Proof.Machine.execFrsq f s
  | .fsqrt f => Sys2Proof.Machine.execFsqrt f s
  | .fexp2 f => Sys2Proof.Machine.execFexp2 f s
  | .flog2 f => Sys2Proof.Machine.execFlog2 f s
  | .fsin f => Sys2Proof.Machine.execFsin f s
  | .fcos f => Sys2Proof.Machine.execFcos f s
  | .fclass f => Sys2Proof.Machine.execFclass f s
  | .hadd2 f => Sys2Proof.Machine.execHadd2 f s
  | .hmul2 f => Sys2Proof.Machine.execHmul2 f s
  | .hfma2 f => Sys2Proof.Machine.execHfma2 f s
  | .qdot4 f => Sys2Proof.Machine.execQdot4 f s
  | .idot4 f => Sys2Proof.Machine.execIdot4 f s
  | .cvt f => Sys2Proof.Machine.execCvt f s
  | .qblk f => Sys2Proof.Machine.execQblk f s
  | .unblk f => Sys2Proof.Machine.execUnblk f s
  | .fdiv f => Sys2Proof.Machine.execFdiv f s
  | .vcopy f => Sys2Proof.Machine.execVcopy f s
  | .vrand f => Sys2Proof.Machine.execVrand f s
  | .vdec f => Sys2Proof.Machine.execVdec f s
  | .vshfl f => Sys2Proof.Machine.execVshfl f s
  | .vshup f => Sys2Proof.Machine.execVshup f s
  | .vshdn f => Sys2Proof.Machine.execVshdn f s
  | .vshx f => Sys2Proof.Machine.execVshx f s
  | .vbcast f => Sys2Proof.Machine.execVbcast f s
  | .vvote f => Sys2Proof.Machine.execVvote f s
  | .vmatch f => Sys2Proof.Machine.execVmatch f s
  | .vred f => Sys2Proof.Machine.execVred f s
  | .vscan f => Sys2Proof.Machine.execVscan f s
  | .vsample f => Sys2Proof.Machine.execVsample f s
  | .kand f => Sys2Proof.Machine.execKand f s
  | .kor f => Sys2Proof.Machine.execKor f s
  | .kxor f => Sys2Proof.Machine.execKxor f s
  | .knot f => Sys2Proof.Machine.execKnot f s
  | .kmov f => Sys2Proof.Machine.execKmov f s
  | .kpop f => Sys2Proof.Machine.execKpop f s
  | .kffs f => Sys2Proof.Machine.execKffs f s
  | .vext f => Sys2Proof.Machine.execVext f s
  | .vins f => Sys2Proof.Machine.execVins f s
  | .vld f => Sys2Proof.Machine.execVld f s
  | .vst f => Sys2Proof.Machine.execVst f s
  | .vlds f => Sys2Proof.Machine.execVlds f s
  | .vsts f => Sys2Proof.Machine.execVsts f s
  | .vatom f => Sys2Proof.Machine.execVatom f s
  | .vatomn f => Sys2Proof.Machine.execVatomn f s
  | .vatoms f => Sys2Proof.Machine.execVatoms f s
  | .vpref f => Sys2Proof.Machine.execVpref f s
  | .cadd f => Sys2Proof.Machine.execCadd f s
  | .crd f => Sys2Proof.Machine.execCrd f s
  | .cmrg f => Sys2Proof.Machine.execCmrg f s
  | .cset f => Sys2Proof.Machine.execCset f s
  | .lbr f => Sys2Proof.Machine.execLbr f s
  | .ljmp f => Sys2Proof.Machine.execLjmp f s
  | .lbrx f => Sys2Proof.Machine.execLbrx f s
  | .lcallx f => Sys2Proof.Machine.execLcallx f s
  | .lret f => Sys2Proof.Machine.execLret f s
  | .lreconv f => Sys2Proof.Machine.execLreconv f s
  | .lmeld f => Sys2Proof.Machine.execLmeld f s
  | .lmend f => Sys2Proof.Machine.execLmend f s
  | .lstop f => Sys2Proof.Machine.execLstop f s
  | .lspawn f => Sys2Proof.Machine.execLspawn f s
  | .lawait f => Sys2Proof.Machine.execLawait f s
  | .lexit f => Sys2Proof.Machine.execLexit f s
  | .ltrap f => Sys2Proof.Machine.execLtrap f s
  | .lnop f => Sys2Proof.Machine.execLnop f s
  | .mma f => Sys2Proof.Machine.execMma f s
  | .tzero f => Sys2Proof.Machine.execTzero f s
  | .trd f => Sys2Proof.Machine.execTrd f s
  | .twr f => Sys2Proof.Machine.execTwr f s
  | .tst f => Sys2Proof.Machine.execTst f s
  | .tld f => Sys2Proof.Machine.execTld f s
  | .tscl f => Sys2Proof.Machine.execTscl f s
  | .gbox f => Sys2Proof.Machine.execGbox f s
  | .gtri f => Sys2Proof.Machine.execGtri f s
  | .gdown f => Sys2Proof.Machine.execGdown f s
  | .gtile f => Sys2Proof.Machine.execGtile f s
  | .gqnt f => Sys2Proof.Machine.execGqnt f s
  | .gupd f => Sys2Proof.Machine.execGupd f s
  | .grefit f => Sys2Proof.Machine.execGrefit f s
  | .gdeskew f => Sys2Proof.Machine.execGdeskew f s
  | .ghit f => Sys2Proof.Machine.execGhit f s
  | .pairWord raw h0 h1 => Sys2Proof.Machine.execPairWord raw h0 h1 s
  | .illegalScalarWord w => Sys2Proof.Machine.execIllegalScalarWord w s
  | .illegalWord => Sys2Proof.Machine.execIllegalWord s
  | .loadLanding => Sys2Proof.Machine.execLoadLanding s
  | .mmaComplete => Sys2Proof.Machine.execMmaComplete s
  | .storeAck => Sys2Proof.Machine.execStoreAck s
  | .blazeMarker => Sys2Proof.Machine.execBlazeMarker s
  | .replicaPropagate => Sys2Proof.Machine.execReplicaPropagate s
  | .coreStampWrap => Sys2Proof.Machine.execCoreStampWrap s
  | .engineCompletion => Sys2Proof.Machine.execEngineCompletion s
  | .lz4c => Sys2Proof.Machine.execLz4c s
  | .lz4d => Sys2Proof.Machine.execLz4d s
  | .repack => Sys2Proof.Machine.execRepack s
  | .convert => Sys2Proof.Machine.execConvert s
  | .fill => Sys2Proof.Machine.execFill s
  | .flush => Sys2Proof.Machine.execFlush s
  | .digest => Sys2Proof.Machine.execDigest s
  | .transformRequestComplete => Sys2Proof.Machine.execTransformRequestComplete s
  | .allreduce => Sys2Proof.Machine.execAllreduce s
  | .reducescatter => Sys2Proof.Machine.execReducescatter s
  | .allgather => Sys2Proof.Machine.execAllgather s
  | .broadcast => Sys2Proof.Machine.execBroadcast s
  | .flitRetransmit => Sys2Proof.Machine.execFlitRetransmit s
  | .linkFailure => Sys2Proof.Machine.execLinkFailure s
  | .fabricTimeout => Sys2Proof.Machine.execFabricTimeout s
  | .pageWalk => Sys2Proof.Machine.execPageWalk s
  | .translationRestart => Sys2Proof.Machine.execTranslationRestart s
  | .trapTake => Sys2Proof.Machine.execTrapTake s
  | .groupEndInError => Sys2Proof.Machine.execGroupEndInError s
  | .eventThreshold => Sys2Proof.Machine.execEventThreshold s
  | .eventWindowClose => Sys2Proof.Machine.execEventWindowClose s
  | .taskEndReport => Sys2Proof.Machine.execTaskEndReport s
  | .taskGroupLaunch => Sys2Proof.Machine.execTaskGroupLaunch s
  | .binTimerExpire => Sys2Proof.Machine.execBinTimerExpire s
  | .binLaunchTimeout => Sys2Proof.Machine.execBinLaunchTimeout s
  | .poolPull => Sys2Proof.Machine.execPoolPull s
  | .teamAdmit => Sys2Proof.Machine.execTeamAdmit s
  | .teamResidency => Sys2Proof.Machine.execTeamResidency s
  | .teamPark => Sys2Proof.Machine.execTeamPark s
  | .teamUnpark => Sys2Proof.Machine.execTeamUnpark s
  | .parktExpire => Sys2Proof.Machine.execParktExpire s
  | .priorityAge => Sys2Proof.Machine.execPriorityAge s
  | .timeSliceExpire => Sys2Proof.Machine.execTimeSliceExpire s
  | .doorbell => Sys2Proof.Machine.execDoorbell s
  | .launch => Sys2Proof.Machine.execLaunch s
  | .gridCompletion => Sys2Proof.Machine.execGridCompletion s
  | .contextCreate => Sys2Proof.Machine.execContextCreate s
  | .queuePriorityChange => Sys2Proof.Machine.execQueuePriorityChange s
  | .codeObjectLoad => Sys2Proof.Machine.execCodeObjectLoad s
  | .bankTableApply => Sys2Proof.Machine.execBankTableApply s
  | .shadowRegionClear => Sys2Proof.Machine.execShadowRegionClear s
  | .deviceReset => Sys2Proof.Machine.execDeviceReset s
  | .contextReset => Sys2Proof.Machine.execContextReset s
  | .telemetry => Sys2Proof.Machine.execTelemetry s
  | .firmwareLoad => Sys2Proof.Machine.execFirmwareLoad s
  | .attest => Sys2Proof.Machine.execAttest s
  | .bootRomStart => Sys2Proof.Machine.execBootRomStart s
  | .imageOffer => Sys2Proof.Machine.execImageOffer s
  | .raiseSecurityFloor => Sys2Proof.Machine.execRaiseSecurityFloor s
  | .powerLimit => Sys2Proof.Machine.execPowerLimit s
  | .junctionThrottle => Sys2Proof.Machine.execJunctionThrottle s
  | .thermalTrip => Sys2Proof.Machine.execThermalTrip s
  | .hostMemoryAccess => Sys2Proof.Machine.execHostMemoryAccess s
  | .peerPageAccess => Sys2Proof.Machine.execPeerPageAccess s
  | .poolGrow => Sys2Proof.Machine.execPoolGrow s
  | .powerLoss => Sys2Proof.Machine.execPowerLoss s

end Sys2Proof.Machine
end

