-- ==== Sys2Proof/Machine/Sched.lean ====
section
/-! DEFINITION. What moves next: the issue of a stream (18 R280; 08 R155, R156), the action at the head of the agenda, and
the model's own schedule when the agenda is empty. Every order that the manual leaves open is some agenda. -/

namespace Sys2Proof.Machine

/-! ### The issue of a stream -/

/-- Whether a group may issue at all: it is resident, and the cores have not stopped. -/
def mayIssue (s : State) (g : Group) : Bool := s.booted == .running && g.run == .resident

/-- Whether a suspended group's answer has arrived, or it is not suspended; only the suspended stream goes on then
(18 R286). -/
def streamOpen (g : Group) (w : Option Wait) : Bool :=
  !g.isSuspended || (w == some .suspended && (g.mapping || g.declined))

/-- The issue scheduler whose slot a group holds. -/
def schedOf (s : State) (g : Group) : Scheduler := (coreOf s g.core).scheds.getD (g.seat / 8) ⟨0, 0, 0, []⟩

/-- The issue of a group's stream counted in its scheduler (18 R280). -/
def countTurn (s : State) (lane : Bool) : State :=
  let c := coreOf s s.g.core
  let x := schedOf s s.g
  let n := x.turn + 1
  setCore { s with g := { s.g with lastRun := n, yielded := false, lastLane := lane } }
    { c with scheds := c.scheds.set (s.g.seat / 8) ⟨n, s.g.gid, s.clock.toNat, x.tlb⟩ }

/-- Whether a wait, if there is one, is over. -/
def waitOver (s : State) (g : Group) (w : Option Wait) : Bool := match w with | none => true | some w => waitMet s g w

/-- Whether a split stands within a VCOPY, which holds its issue until its last step (05 R83). -/
def Split.copies (x : Split) : Bool := x.wait == some .copying

/-- The split that a lane issue slot takes (08 R155): of those that can issue, one that has not issued in the previous 7
slots, or else the first by its lanes, its LPC and its entry. -/
def pickSplit (s : State) (g : Group) : Option Nat :=
  let can := (upto 8 (fun i =>
    let x := splitAt g i
    x.state == .ready && !x.copies && !s.busy.contains (g.gid, some i) && streamOpen g x.wait && waitOver s g x.wait))
  let starved (i : Nat) : Bool := (splitAt g i).last == 0 || (splitAt g i).last + 7 ≤ g.slot
  match can.filter starved with
  | i :: _ => some i
  | [] => (sortBy (fun i => splitRank (splitAt g i) * 8 + i) can).head?

/-- The stream from which a group issues when its turn comes: its scalar stream, or a split by its entry; none when the group
is not ready. The two alternate when both can issue (18 R280). A stream that some latency holds (`State.busy`) cannot. -/
def readyStream (s : State) (g : Group) : Option (Option Nat) :=
  if !mayIssue s g then none else
  let scalar := !s.busy.contains (g.gid, none) && streamOpen g g.wait && (waitOver s g g.wait || trapDue g)
  match (if g.call.isSome then pickSplit s g else none) with
  | some i => some (if scalar && g.lastLane then none else some i)
  | none => if scalar then some none else none

/-- The place of a group in its scheduler's choice (18 R280): a group that has not issued in seven clocks, the lowest slot
first, then by priority, and round-robin among equals, of which one that has yielded comes last (06 R102). -/
def groupRank (s : State) (g : Group) : Nat :=
  let c := schedOf s g
  let prio := ((teamOf? s g.team).map (·.prio.toNat)).getD 0
  if g.lastRun = 0 || g.lastRun + 7 ≤ c.turn then g.seat
  else 2 ^ 79 + (7 - prio) * 2 ^ 70 + (if g.yielded then 2 ^ 65 else 0) + (g.gid + 2 ^ 60 - c.robin - 1) % 2 ^ 60

/-- The ready groups of an issue scheduler. -/
def readyGroups (s : State) (core sched : Nat) : List Group :=
  (allGroups s).filter (fun g => g.core == core && g.seat / 8 == sched && (readyStream s g).isSome)

/-- Whether a group's scheduler issues next from this stream of it (18 R280). -/
def issuesNext (s : State) (g : Group) (stream : Option Nat) : Bool :=
  readyStream s g == some stream &&
  !(readyGroups s g.core (g.seat / 8)).any (fun h => groupRank s h < groupRank s g)

/-- A group's scalar stream about to issue: the group in focus, its wait lifted. -/
def beginScalar (s : State) (gid : Nat) : Option State :=
  let s := focus s gid
  if s.g.gid = gid && mayIssue s s.g && issuesNext s s.g none then
    let s := countTurn s false
    some { s with g := { s.g with wait := none } }
  else none

/-- Whether a split in the midst of a VCOPY may go on: its steps take no slot, and the other splits and groups issue meanwhile
(05 R83). -/
def copyGoesOn (s : State) (g : Group) (entry : Nat) : Bool :=
  let x := splitAt g entry
  mayIssue s g && g.call.isSome && x.state == .ready && x.copies && streamOpen g x.wait

/-- A split about to issue, which must be the one that this clock's lane issue slot takes: its group and entry in focus, the
slot counted (08 R155; 18 R280); or a split that goes on with its VCOPY. -/
def beginLane (s : State) (gid entry : Nat) : Option State :=
  let s := { focus s gid with ent := entry }
  let x := curSplit s
  if s.g.gid = gid && mayIssue s s.g && s.g.call.isSome && issuesNext s s.g (some entry) then
    let s := countTurn s true
    some (skipFiller { s with g := { setSplit s.g entry { x with wait := none, last := s.g.slot + 1 } with
      slot := s.g.slot + 1 } })
  else if s.g.gid = gid && copyGoesOn s s.g entry then some { s with g := setSplit s.g entry { x with wait := none } }
  else none

/-- The lane issue slots as they were in `g0`, before a slot in which the split of an entry issued nothing (08 R155). -/
def keepSlot (g0 : Group) (entry : Nat) (s : State) : State :=
  { s with g := { setSplit s.g entry { splitAt s.g entry with last := (splitAt g0 entry).last } with slot := g0.slot } }

/-- A slot in which a split issued nothing, for it waits, is no lane issue slot (08 R155). `g0` is the group before it. -/
def endLane (g0 : Group) (entry : Nat) (s : State) : State :=
  let x := splitAt s.g entry
  if x.wait.isSome && !x.copies && s.g.call.isSome && s.g.depth == g0.depth then keepSlot g0 entry s else s

/-- A step of the group in focus finished: firmware's answer is used up, and a wait that goes on keeps its beginning
(18 R281, R286). `g0` is the group before the step. -/
def endIssue (g0 : Group) (s : State) : State :=
  { s with g := { s.g with
      mapping := false, declined := false
      parkable := s.g.parkable && s.g.wait.isSome
      since := if g0.wait.isSome && s.g.wait == g0.wait && g0.depth == s.g.depth then g0.since else s.g.since } }

/-- What follows a step: its outcome with `f` on its next state. -/
def onNext (f : State → State) : Out → Out
  | .next s => .next (f s)
  | .fault r => .fault r
  | .refused r => .refused r

/-! ### What an agenda may name -/

/-- Whether an instruction is a step without an encoding. -/
def isEvent (i : Instr) : Bool :=
  match i with
  | .illegalWord => false
  | .illegalScalarWord _ => false
  | _ => (encode i).isNone

/-- Whether a step is one that a core makes: none is made once the cores have stopped (24 R327). -/
def coreStep (s : State) (i : Instr) (a : EvArgs) : Bool :=
  match i with
  | .trapTake => true
  | .teamResidency => true
  | .teamUnpark => true
  | .teamPark => true
  | .mmaComplete => true
  | .loadLanding => true
  | .engineCompletion => s.ops.any (fun o => o.id == a.n && onCopyEngine o)
  | _ => false

/-- Whether the step named may take place as named: a trap is taken only where event classes call for it, and a core that has
stopped does nothing. -/
def eventAllowed (s : State) (i : Instr) (a : EvArgs) : Bool :=
  (s.booted == .running || !coreStep s i a) &&
  match i with
  | .trapTake => (groupOf? s a.gid).any (fun g => trapDue g && a.trap == dueTrap g)
  | _ => isEvent i

/-- A step's state before its meaning: its operands, and the classes that a trap answers. -/
def beginEvent (s : State) (i : Instr) (a : EvArgs) : State :=
  let s := { s with ev := a }
  match i with
  | .trapTake => modGroup s a.gid (fun g => { g with due := 0 })
  | _ => s

/-! ### The model's own schedule -/

/-- The first value there is. -/
def firstSome {α : Type} : List (Unit → Option α) → Option α
  | [] => none
  | f :: fs => match f () with
    | some a => some a
    | none => firstSome fs

/-- A stream as an action. -/
def streamAction (gid : Nat) (stream : Option Nat) : Action :=
  match stream with
  | none => .scalar gid
  | some i => .lane gid i

/-- A stream that issues next: of the scheduler that has issued nothing for longest. -/
def pickIssue (s : State) : Option Action :=
  let rank (g : Group) : Nat := (schedOf s g).last * 2 ^ 80 + groupRank s g
  ((sortBy rank ((allGroups s).filter (fun g => (readyStream s g).isSome))).head?).bind (fun g =>
    (readyStream s g).map (streamAction g.gid))

/-- A split that goes on with its VCOPY. -/
def pickCopy (s : State) : Option Action :=
  firstSome ((allGroups s).map (fun g => fun _ => ((upto 8 (copyGoesOn s g)).head?).map (fun i => .lane g.gid i)))

/-- A step without operands but those given. -/
def act (i : Instr) (a : EvArgs) : Option Action := some (.event i a)

/-- The step that performs a transform request. -/
def requestStep (x : XRequest) : Instr :=
  match (parseRequest x.block).op with
  | 1 => .lz4c | 2 => .lz4d | 3 => .repack | 4 => .convert | 5 => .fill | 6 => .flush | 7 => .digest
  | _ => .transformRequestComplete

/-- A step for an engine operation. -/
def pickOp (s : State) (o : EngineOp) : Option Action :=
  if opWaits o then none else
  match o.kind with
  | .xkick .. =>
    if o.done = 0 then some (.engine o.id)
    else match s.xreqs.find? (fun x => x.op == o.id && !x.posted && !x.faulted) with
      | some x =>
        if x.block.isEmpty && !x.performed then some (.engine o.id)
        else act (if x.performed then .transformRequestComplete else requestStep x) { n := o.id, req := x.index.toNat }
      | none => if oldestOp s o && !(s.xreqs.any (fun x => x.op == o.id && !x.posted)) then act .engineCompletion { n := o.id } else none
  | .coll _ =>
    if o.finished then (if oldestOp s o then act .engineCompletion { n := o.id } else none)
    else if o.cancelled then some (.engine o.id)
    else none
  | _ =>
    if !unitTurn s o o.done && !o.finished then none
    else if oldestOp s o && (o.finished || opSize o ≤ o.done + 1) then act .engineCompletion { n := o.id }
    else if o.finished then none
    else some (.engine o.id)

/-- A step of engines, stores, results or ends. -/
def pickMemory (s : State) : Option Action :=
  firstSome [
    fun _ => firstSome (s.ops.map (fun o => fun _ => pickOp s o)),
    fun _ => if s.stores.isEmpty then none else act .storeAck {},
    fun _ => if s.props.isEmpty then none else act .replicaPropagate {},
    fun _ => ((allGroups s).find? (fun g => g.landings.any (fun d => !d.landed))).bind (fun g => act .loadLanding { gid := g.gid }),
    fun _ => (s.cores.find? (fun c => c.2.mma.isSome)).bind (fun c => act .mmaComplete { core := c.1 }),
    fun _ => ((allGroups s).find? (fun g => g.run == .failing && g.counters.isEmpty)).bind (fun g =>
      act .groupEndInError { gid := g.gid }),
    fun _ => (s.ends.zipIdx.find? (fun p => endReady s p.1)).bind (fun p => act .taskEndReport { n := p.2 })]

/-- Whether records could be launched on a core, once parked teams there are spilled. -/
def couldLaunch (s : State) (ctx core : Nat) (recs : List TaskRecord) : Bool :=
  (launchSpilling { s with ev := { s.ev with team := 0, teams := parkedOn s [core] } } ctx core recs).2

/-- A step of bins and the pool on a core. -/
def pickTasks (s : State) (core : Nat) : Option Action :=
  let c := coreOf s core
  let bins := c.bins.zipIdx.filter (fun p => !p.1.records.isEmpty)
  firstSome [
    fun _ => (bins.find? (fun p => !p.1.waiting && p.1.records.length == 32)).bind (fun p =>
      act .taskGroupLaunch { core := core, bin := p.2, teams := parkedOn s [core] }),
    fun _ => (bins.find? (fun p => !p.1.waiting && binExpired s core p.1)).bind (fun p =>
      act .binTimerExpire { core := core, bin := p.2, teams := parkedOn s [core] }),
    fun _ => (bins.find? (fun p => p.1.waiting && couldLaunch s p.1.ctx core p.1.records)).bind (fun p =>
      act .taskGroupLaunch { core := core, bin := p.2, teams := parkedOn s [core] }),
    fun _ => (bins.find? (fun p => p.1.waiting && binExpired s core p.1 &&
        (poolRoom s p.1.ctx p.1.records.length || !s.asks.contains ⟨p.1.ctx, true⟩))).bind (fun p =>
      act .binLaunchTimeout { core := core, bin := p.2 }),
    fun _ => match c.ctx with
      | some ctx =>
        let out := pullRecords (poolRecords s ctx)
        if out.isEmpty || c.bins.any (·.waiting) || !couldLaunch s ctx core (out.map (·.2)) then none
        else act .poolPull { core := core, teams := parkedOn s [core] }
      | none => none,
    fun _ => if c.tables.any (fun t => c.ctx == some t.ctx) && !(admittedTeams s core).any (fun u => c.ctx == some u.ctx) then
        act .bankTableApply { core := core } else none]

/-- A core that may admit a grid's next teams, once the parked teams that are to be spilled there are. -/
def admitOn (s : State) (x : Grid) : Option Action :=
  let spills (k : Nat) : List Nat := parkedOn s ((startCores x k).getD [])
  ((ctxOf s x.ctx).cores.find? (fun k =>
    mayAdmit (spillUntil (fun t => mayAdmit t x k) ((startCores x k).getD []) (spills k) s) x k)).bind (fun k =>
      act .teamAdmit { grid := x.id, core := k, teams := spills k })

/-- A step of launches, admission, residency or parking. -/
def pickTeams (s : State) : Option Action :=
  let waiting (t : Team) : Bool := t.ready && (t.state == .admitted || t.state == .parked)
  firstSome [
    fun _ => (s.grids.find? (fun x => !x.done && x.nteams ≤ x.ended && (match x.origin with | .host .. => true | _ => false))).bind
      (fun x => act .gridCompletion { grid := x.id }),
    fun _ => ((sortBy (queueRank s) (s.queues.filter Queue.pending)).head?).bind (fun q => act .launch { queue := q.id }),
    fun _ => firstSome ((sortBy (fun (x : Grid) => (7 - x.prio.toNat) * 2 ^ 32 + x.number.toNat)
        (s.grids.filter (fun x => x.launched < x.nteams))).map (fun x => fun _ => admitOn s x)),
    fun _ => firstSome (s.cores.map (fun c => fun _ => pickTasks s c.1)),
    fun _ => (s.teams.find? (fun t => waiting t && firstReady s t && teamFits s t)).bind (fun t =>
      act (if t.state == .admitted then .teamResidency else .teamUnpark) { team := t.id }),
    fun _ => ((sortBy (fun (t : Team) => t.prio.toNat * 2 ^ 64 + blockedSince s t)
        (s.teams.filter (fun t => teamParkable s t && s.teams.any (fun u => u.core == t.core && waiting u)))).head?).bind
      (fun t => act .teamPark { team := t.id }),
    fun _ => ((allGroups s).find? (fun g => g.run == .resident && !g.parkable && s.parkt < s.clock.toNat - g.since &&
        (match g.wait with | some (.counter _ _) => true | some (.handle _) => true | _ => false))).bind (fun g =>
      act .parktExpire { gid := g.gid })]

/-- What moves next when the agenda is empty: the boot ROM, a stream that can issue, a step of the machine, or a clock
without any. Copies and the machine's own steps come first on three clocks in four, so that a stream that spins starves
none. -/
def pickNext (s : State) : Action :=
  if s.booted == .rom || s.booted == .verifying then .event .bootRomStart {}
  else
    let turn := s.clock.toNat % 4
    let first := if turn = 0 then pickCopy s else if turn = 1 then pickTeams s else if turn = 3 then pickMemory s else none
    ((((first.or (pickIssue s)).or (pickCopy s)).or (pickMemory s)).or (pickTeams s)).getD (.tick 1)

/-- The action at the head of the agenda, or the model's own choice, by which no stream is held by a latency; and the state
with it taken. -/
def takeAction (s : State) : Action × State :=
  match s.agenda with
  | a :: rest => (a, { s with agenda := rest })
  | [] => (pickNext { s with busy := [] }, { s with busy := [] })

/-- Clocks in which no scheduler without a ready group issues (18 R280). -/
def idleClocks (s : State) (n : Nat) : State :=
  { s with cores := s.cores.map (fun c => (c.1, { c.2 with scheds := c.2.scheds.zipIdx.map (fun x =>
      if (readyGroups s c.1 x.2).isEmpty then { x.1 with turn := x.1.turn + n } else x.1) })) }

/-- An element struck by an uncorrectable error, which the device finds when the element is next read (02 R50). -/
def decay (s : State) (p : BadPlace) : State :=
  match p with
  | .register gid k => modGroup s gid (fun g => { g with poison := k :: g.poison.filter (· != k) })
  | .landing gid n k => modGroup s gid (fun g => { g with landings := g.landings.zipIdx.map (fun d =>
      if d.2 = n && k < 16384 && !d.1.landed && d.1.covers (k / 32) && d.1.lanes.getLsbD (k % 32) then { d.1 with bad := k :: d.1.bad.filter (· != k) }
      else d.1) })
  | .bstore core off => setCore s { coreOf s core with poison := off :: (coreOf s core).poison.filter (· != off) }
  | .memory w => if physOk (4 * w) then { s with poison := w :: s.poison.filter (· != w) } else s

/-- One more clock, and one more point at which free values are drawn. -/
def advanceClock (s : State) : State := { s with clock := s.clock + 1, frees := s.frees + 1 }

/-- The next unit of an engine operation in its turn (22 R300). -/
def engineStep (s : State) (id : Nat) : State :=
  match s.ops.find? (fun o => o.id == id) with
  | none => s
  | some o =>
    if opWaits o || !unitTurn s o o.done || (onCopyEngine o && s.booted != .running) then s
    else noteServed o (withFocus s o.gid (fun s => opUnit s o))

/-- A unit of an engine operation before its turn among the units of that operation (13 R244). -/
def earlyStep (s : State) (id n : Nat) (write : Bool) (parts : List Participant) : State :=
  match s.ops.find? (fun o => o.id == id) with
  | none => s
  | some o =>
    if opWaits o || !unitTurn s o n || (onCopyEngine o && s.booted != .running) then s
    else noteServed o (withFocus s o.gid (fun s => earlyOp s o n write parts))

/-- A unit of a request's source read, or of its output written, before its end (13 R244). -/
def pieceStep (s : State) (id index k : Nat) (write : Bool) : State :=
  match s.ops.find? (fun o => o.id == id) with
  | none => s
  | some o => withFocus s o.gid (fun s => requestPiece s o index k write)

/-- A line brought into the L1 of a group's core before any instruction reads it (13 R238; 17 R257). -/
def dataFetch (s : State) (gid : Nat) (va : W64) : State :=
  withFocus s gid (fun s =>
    match (if s.g.gid = gid then checkAccess s s.g.ctx s.g.core [0] .read 1 va else .error ⟨0, 0, va⟩) with
    | .ok a => prefetchLine s a
    | .error _ => s)

/-- What running firmware sets: a value out of its range is not set. -/
def applySetting (s : State) (x : Setting) : State :=
  if s.booted != .running then s else
  match x with
  | .l1min core n => if coreExists core && 1 ≤ n && n ≤ 24 then setCore s { coreOf s core with l1min := n } else s
  | .parkt n => { s with parkt := n }
  | .age n => if 4096 ≤ n && n ≤ 2 ^ 24 then { s with age := n } else s
  | .btimer ctx n => if 256 ≤ n && n ≤ 65536 then modCtx s ctx (fun c => { c with btimer := n }) else s
  | .comm c devices =>
    if c < 16 && devices.length ≤ 256 && devices.eraseDups.length == devices.length then
      { s with comms := (c, devices) :: s.comms.filter (fun x => x.1 != c) }
    else s
  | .serve core ctx => claimCore s ctx core

/-! ### A machine that is about to run one instruction -/

/-- The page-table entries of `oneContext`: three tables, and one page of code and data at virtual address 0. -/
def onePage : List (Nat × W64) := [(0x10000, 0x20001), (0x20000, 0x30001), (0x30000, 0x4008F)]

/-- A context with one page. -/
def oneContext : Context :=
  { Context.none 0 with ptRoot := 0x10000, cores := [0], frameVa := 0x8000, framePa := 0x48000, frames := 16, records := 64, poolPa := 0x4A000
                        trapVa := 0x9000, trapPa := 0x49000 }

/-- The descriptor of a grid of one team of one group. -/
def oneDescriptor : Descriptor := ⟨0, 0, 0, 0, 1, 0, 0, 3, false, 0, 32, 0, []⟩

/-- A grid of one team. -/
def oneGrid : Grid :=
  { id := 1, ctx := 0, number := 1, origin := .host 0 1 0, root := 1, home := none, desc := oneDescriptor, entryVa := 0
    args := 0, seedlo := 0, seedhi := 0, prio := 0, nteams := 1, placed := 1, ahead := [], ended := 0, failed := false, descErr := false
    aborted := false, pg := 0, pt := 0, pfrom := 0, pto := none, done := false }

/-- Its team, resident on core 0. -/
def oneTeam : Team :=
  { id := 2, ctx := 0, grid := 1, index := 0, core := 0, cluster := [0], cidx := 0, banks := [], spill := []
    state := .resident, prio := 0, ready := false, readyAt := 0, aged := 0, sliced := false, groups := [3], arrivals := []
    phase := 0 }

/-- Its group, in its starting state. -/
def oneGroup : Group :=
  { Group.none with gid := 3, ctx := 0, core := 0, team := 2, run := .resident, stamp := 1 }

/-- The core that serves the context. -/
def oneCore : Core := { Core.init 0 with ctx := some 0, stamp := 1 }

/-- A machine that runs bytes as its next instruction: they lie at physical address 0x40000, the first byte of the one
page of the one context, whose one group stands at virtual address 0. `lane` says which stream runs them. -/
def placeCode (s : State) (lane : Bool) (bs : List Byte) : State :=
  let s0 := { s with
    booted := .running, ctxs := [oneContext], grids := [oneGrid], teams := [oneTeam], cores := [(0, oneCore)]
    groups := [], g := oneGroup, ent := 0, next := 3
    mem := memWrite (onePage.foldl (fun m p => memWrite m p.1 (bytes64 p.2)) s.mem) 0x40000 bs
    records := s.records.filter (fun r => !(0x1000 ≤ r.1 && r.1 < 0x1400))
    poison := s.poison.filter (fun w => !(0x4000 ≤ w && w < 0x14000)) }
  if lane then { startCall s0 0 with agenda := [.lane 3 0] } else { s0 with agenda := [.scalar 3] }

end Sys2Proof.Machine
end

