-- ==== Sys2Proof/Machine/Issue.lean ====
section
/-! DEFINITION. What an action does: a stream fetches and executes, a step takes place with its operands, an engine
performs a unit. -/

namespace Sys2Proof.Machine

open Host

/-- The scalar registers that a scalar instruction reads, by field (0 to 3 for a to d). The memory, atomic, future-word and
SPAWN instructions, whose record may name memory, and the divisions, whose DZ is of the same event, note their own. -/
def scalarSources (i : Instr) : List (Nat × Nat) :=
  match i with
  | .sadd _ sa sb => [(0, sa.toNat), (1, sb.toNat)]
  | .ssub _ sa sb => [(0, sa.toNat), (1, sb.toNat)]
  | .smul _ sa sb => [(0, sa.toNat), (1, sb.toNat)]
  | .smulh _ sa sb => [(0, sa.toNat), (1, sb.toNat)]
  | .sand _ sa sb => [(0, sa.toNat), (1, sb.toNat)]
  | .sor _ sa sb => [(0, sa.toNat), (1, sb.toNat)]
  | .sxor _ sa sb => [(0, sa.toNat), (1, sb.toNat)]
  | .sandn _ sa sb => [(0, sa.toNat), (1, sb.toNat)]
  | .sshl _ sa sb => [(0, sa.toNat), (1, sb.toNat)]
  | .sshr _ sa sb => [(0, sa.toNat), (1, sb.toNat)]
  | .ssra _ sa sb => [(0, sa.toNat), (1, sb.toNat)]
  | .sror _ sa sb => [(0, sa.toNat), (1, sb.toNat)]
  | .sslt _ sa sb => [(0, sa.toNat), (1, sb.toNat)]
  | .ssltu _ sa sb => [(0, sa.toNat), (1, sb.toNat)]
  | .sseq _ sa sb => [(0, sa.toNat), (1, sb.toNat)]
  | .ssne _ sa sb => [(0, sa.toNat), (1, sb.toNat)]
  | .smin _ sa sb => [(0, sa.toNat), (1, sb.toNat)]
  | .smax _ sa sb => [(0, sa.toNat), (1, sb.toNat)]
  | .sminu _ sa sb => [(0, sa.toNat), (1, sb.toNat)]
  | .smaxu _ sa sb => [(0, sa.toNat), (1, sb.toNat)]
  | .scmovn _ sa sb => [(0, sa.toNat), (1, sb.toNat)]
  | .scmovz _ sa sb => [(0, sa.toNat), (1, sb.toNat)]
  | .sclz _ sa => [(0, sa.toNat)]
  | .sctz _ sa => [(0, sa.toNat)]
  | .spop _ sa => [(0, sa.toNat)]
  | .sbrev _ sa => [(0, sa.toNat)]
  | .smov _ sa => [(0, sa.toNat)]
  | .sjalr _ sa => [(0, sa.toNat)]
  | .saddi _ sa _ => [(0, sa.toNat)]
  | .sandi _ sa _ => [(0, sa.toNat)]
  | .sori _ sa _ => [(0, sa.toNat)]
  | .sxori _ sa _ => [(0, sa.toNat)]
  | .sshli _ sa _ => [(0, sa.toNat)]
  | .sshri _ sa _ => [(0, sa.toNat)]
  | .ssrai _ sa _ => [(0, sa.toNat)]
  | .sslti _ sa _ => [(0, sa.toNat)]
  | .sbeq sa sb _ => [(0, sa.toNat), (1, sb.toNat)]
  | .sbne sa sb _ => [(0, sa.toNat), (1, sb.toNat)]
  | .sblt sa sb _ => [(0, sa.toNat), (1, sb.toNat)]
  | .sbge sa sb _ => [(0, sa.toNat), (1, sb.toNat)]
  | .sbltu sa sb _ => [(0, sa.toNat), (1, sb.toNat)]
  | .sbgeu sa sb _ => [(0, sa.toNat), (1, sb.toNat)]
  | .sjr sa => [(0, sa.toNat)]
  | .lcallr sa => [(0, sa.toNat)]
  | .bankcfg sa => [(0, sa.toNat)]
  | .swr _ sa => [(0, sa.toNat)]
  | .qclaim _ sa => [(0, sa.toNat)]
  | .qpop _ sa => [(0, sa.toNat)]
  | .cpy _ sa sb sc _ => [(0, sa.toNat), (1, sb.toNat), (2, sc.toNat)]
  | .cpyb _ sa sb sc _ => [(0, sa.toNat), (1, sb.toNat), (2, sc.toNat)]
  | .gath _ sa sb sc _ => [(0, sa.toNat), (1, sb.toNat), (2, sc.toNat), (2, sc.toNat + 1), (2, sc.toNat + 2)]
  | .scat _ sa sb sc _ => [(0, sa.toNat), (1, sb.toNat), (2, sc.toNat), (2, sc.toNat + 1), (2, sc.toNat + 2)]
  | .xkick _ sa sb _ => [(0, sa.toNat), (1, sb.toNat)]
  | .coll _ sa _ => [(0, sa.toNat)]
  | .qpub sa sb => [(0, sa.toNat), (1, sb.toNat)]
  | .qfree sa sb => [(0, sa.toNat), (1, sb.toNat)]
  | .tlbinv sa sb => [(0, sa.toNat), (1, sb.toNat)]
  | .icinv sa sb => [(0, sa.toNat), (1, sb.toNat)]
  | _ => []

/-- A scalar instruction that has retired after reading a register with an uncorrectable error: UE and one log record
(02 R50). -/
def noteSources (i : Instr) (s : State) (o : Out) : Out :=
  let n := noteRegs s (scalarSources i)
  if n.2 = 0 then o else
  onNext (fun t =>
    if t.g.wait.isNone && t.g.depth == s.g.depth && t.g.run == .resident then
      retireFlags { t with log := t.log ++ n.1.log.drop s.log.length } n.2 s.g.spc
    else t) o

/-- The instruction at the scalar PC executed, or its fetch fault taken. -/
def runScalar (s : State) : Out :=
  match fetchScalar s with
  | .ok i => noteSources i s (exec i s)
  | .error f => scalarFetchFault s f

/-- The instruction at the lane PC of the split in focus executed, or its fetch fault taken; a slot that a long run of filler
takes up is no lane issue slot. `g0` is the group before it. -/
def runLane (g0 : Group) (entry : Nat) (s : State) : Out :=
  match fetchLane s with
  | .ok (some i) => exec i s
  | .ok none => .next (keepSlot g0 entry s)
  | .error f => laneFetchFault s f

/-- A stream of the group in focus issues: a trap that is due comes first, in the state `s0` before the issue was counted. -/
def issue (s0 : State) (run : State → Out) (s : State) : Out :=
  if trapDue s.g then .next (takeDue s0) else onNext (endIssue s0.g) (run s)

/-- What an action does. An action that names nothing able to move changes nothing. -/
def perform (a : Action) (s : State) : Out :=
  match a with
  | .scalar gid =>
    match beginScalar s gid with
    | some t => issue (focus s gid) runScalar t
    | none => .next s
  | .lane gid entry =>
    match beginLane s gid entry with
    | some t => onNext (endLane (focus s gid).g entry) (issue (focus s gid) (runLane (focus s gid).g entry) t)
    | none => .next s
  | .event i args => if eventAllowed s i args then exec i (beginEvent s i args) else .next s
  | .engine op => .next (engineStep s op)
  | .unit op n write => .next (earlyStep s op n write [])
  | .result op n parts => .next (earlyStep s op n true parts)
  | .piece op req n write => .next (pieceStep s op req n write)
  | .ifetch core pa => .next (if coreExists core then cacheCode s core pa else s)
  | .dfetch gid va => .next (dataFetch s gid va)
  | .firmware x => .next (applySetting s x)
  | .tick n => .next { idleClocks s n with clock := s.clock + BitVec.ofNat 64 n }
  | .latency busy => .next { s with busy := busy }
  | .decay p => .next (decay s p)

end Sys2Proof.Machine
end

