-- ==== Sys2Proof/Machine/Step.lean ====
section
/-! DEFINITION. One step of the device, and the state whose next step runs a given instruction. -/

namespace Sys2Proof.Machine

open Host

/-- One step of the device. -/
def step (s : State) : Host.Outcome State Fault Refusal :=
  let p := takeAction (advanceClock s)
  onNext noteReady (perform p.1 p.2)

/-- The state with an instruction of `nbits` bits `w` where the next step fetches. A row of 32 bits is a scalar word, any
other a lane instruction. -/
def State.withFetchWord (s : State) (nbits w : Nat) : State := placeCode s (nbits != 32) (leBytes 13 w)

end Sys2Proof.Machine
end

