-- ==== Sys2Proof/Safety.lean ====
section
/-! DEFINITION. What a safe run is: one that never reaches the machine's only faults, an access from outside to an address
that holds nothing or to a word of firmware's mailbox, and never an instruction without a meaning. After it, the vocabulary
in which claims about single instructions are stated: when a split issues with nothing outstanding, when an instruction
passes the checks of 03 R61, and the state after it. -/

namespace Sys2Proof.Machine

open Host

/-- A step that answers a next state. -/
def Goes (s : State) : Prop := ∃ t, step s = .next t

/-- Whether an access from outside names memory that exists (17 R259), or a word of BAR0 that the manual describes (24
R321). -/
def HostAccess.inMemory : HostAccess → Bool
  | .read pa n => physRange pa n
  | .future pa => physOk pa
  | .bootStat => true
  | .barRead off => off == 0
  | .barWrite off _ => off == 0 || (0x10000 ≤ off && off < 0x10800 && off % 8 == 0)
  | .pcieWrite pa data => physRange pa data.length
  | .cxlWrite pa data => physRange pa data.length

/-- The same for an access from another device. -/
def PeerAccess.inMemory : PeerAccess → Bool
  | .read pa n => physRange pa n
  | .write pa data => physRange pa data.length
  | .atomic pa _ _ _ => physRange pa 4
  | .scalarAtomic pa _ _ _ => physRange pa 8
  | .try_ pa => physRange pa 8
  | .put pa _ => physRange pa 8
  | .get pa => physRange pa 8
  | .clear pa => physRange pa 8

/-- Whether an instruction's operands in a state keep it clear of the machine's fault. -/
def clearOfFault (i : Instr) (s : State) : Bool :=
  match i with
  | .hostMemoryAccess => s.ev.host.inMemory
  | .peerPageAccess => s.ev.peer.inMemory
  | _ => true

/-! ### When an instruction issues with nothing outstanding -/

/-- No event class of the group's context counts: every WINDOW is 0, as at reset (01 R25). -/
def NoEvents (s : State) : Prop := ∀ cls, evWindow (evctlOf s cls) = 0

/-- The split in focus stands in the split table, no result of its group is in flight, no element has an uncorrectable
error or a value from before a VINS of another split, no MMA occupies the core's array, and no event class counts. -/
structure QuietSplit (s : State) : Prop where
  entry    : s.ent < s.g.splits.length
  landings : s.g.landings = []
  poison   : s.g.poison = []
  stale    : ∀ c, s.g.call = some c → c.stale = []
  array    : (coreOf s s.g.core).mma = none
  events   : NoEvents s

/-- An instruction of the split in focus passes the checks of 03 R61 that come before memory faults: every L name lies
in a melded region and is mapped in every active lane, every register named is held, and under TAGCHK every operand
read carries a tag that the instruction takes. -/
structure CanIssue (s : State) (act : W32) (reads writes : List Opnd) : Prop where
  melded   : ∀ c ∈ (reads ++ writes).flatMap Opnd.codes, isL c = true → Sys2Proof.Machine.melded s = true
  mapped   : unmappedLanes s act ((reads ++ writes).flatMap Opnd.codes) = []
  held     : ∀ c ∈ (reads ++ writes).flatMap Opnd.codes, codeHeld s.g c = true
  formats  : tagCheck (callFmode s.g) = true → ∀ o ∈ reads, o.formatOk s.g = true

/-! ### What an instruction leaves -/

/-- A state after a lane instruction of `len` bytes has retired with flags: the lane PC of the split in focus has moved
on and the flags are ORed in (01 R24). -/
def retired (s : State) (len : Nat) (fl : BitVec 8) : State :=
  let t := advanceLpc s len
  { t with g := orFlags t.g true fl }

/-- A value with its flags computed in each lane of a mask: the values by lane, and all the flags. -/
def inLanes (act : W32) (v : Nat → W32 × BitVec 8) : List (Nat × W32) × BitVec 8 :=
  ((lanesOf act).map (fun l => (l, (v l).1)), (lanesOf act).foldl (fun fl l => fl ||| (v l).2) 0)

/-- The state after a lane instruction of one destination: in each active lane `d` takes the value, its tag on each path
is the one given, and the flags of every lane are raised. Nothing else changes but the lane PC. -/
def laneResult (f : LaneWord) (s : State) (tag : Nat → BitVec 4) (v : Nat → W32 × BitVec 8) : State :=
  let r := inLanes (activeLanes s f.pred) v
  retired { s with g := writeOpnd s.g f.d.toNat r.1 tag } f.form.length r.2

/-- Operand b of an integer instruction in a lane: imm31 where b names `%zero` (05 R78). -/
def operandB (f : LaneWord) (s : State) (l : Nat) : W32 :=
  if f.b = 0x244 then f.imm.signExtend 32 else readOpnd s f.b.toNat l

/-- The register that a scalar instruction writes, for the instructions that write one register and can neither fault nor
raise a flag (06 R86 to R89). -/
def scalarDest : Instr → Option Nat
  | .sadd sd _ _ => some sd.toNat
  | .ssub sd _ _ => some sd.toNat
  | .smul sd _ _ => some sd.toNat
  | .smulh sd _ _ => some sd.toNat
  | .sand sd _ _ => some sd.toNat
  | .sor sd _ _ => some sd.toNat
  | .sxor sd _ _ => some sd.toNat
  | .sandn sd _ _ => some sd.toNat
  | .sshl sd _ _ => some sd.toNat
  | .sshr sd _ _ => some sd.toNat
  | .ssra sd _ _ => some sd.toNat
  | .sror sd _ _ => some sd.toNat
  | .sslt sd _ _ => some sd.toNat
  | .ssltu sd _ _ => some sd.toNat
  | .sseq sd _ _ => some sd.toNat
  | .ssne sd _ _ => some sd.toNat
  | .smin sd _ _ => some sd.toNat
  | .smax sd _ _ => some sd.toNat
  | .sminu sd _ _ => some sd.toNat
  | .smaxu sd _ _ => some sd.toNat
  | .sclz sd _ => some sd.toNat
  | .sctz sd _ => some sd.toNat
  | .spop sd _ => some sd.toNat
  | .sbrev sd _ => some sd.toNat
  | .sli sd _ => some sd.toNat
  | .slit sd _ => some sd.toNat
  | .saddi sd _ _ => some sd.toNat
  | .sandi sd _ _ => some sd.toNat
  | .sori sd _ _ => some sd.toNat
  | .sxori sd _ _ => some sd.toNat
  | .sshli sd _ _ => some sd.toNat
  | .sshri sd _ _ => some sd.toNat
  | .ssrai sd _ _ => some sd.toNat
  | .sslti sd _ _ => some sd.toNat
  | .scmovn sd _ _ => some sd.toNat
  | .scmovz sd _ _ => some sd.toNat
  | .smov xd _ => some xd.toNat
  | _ => none

/-- Two states of a group that differ in scalar registers, in the marks of their uncorrectable errors and in the scalar PC
alone: vector registers, tags, masks, tiles, handles, counters, flags, special registers, mode, splits and trap state are
the same. -/
def onlyScalars (g h : Group) : Prop := h = { g with sregs := h.sregs, spc := h.spc, poison := h.poison }

/-- What a scalar instruction of one destination does to the group in focus: register `d` takes `v` (S0 discards it), every
other scalar register keeps its value, the PC moves on by 4, and of the group nothing else changes. -/
structure ScalarEffect (s t : State) (d : Nat) (v : W64) : Prop where
  regs  : ∀ r, readS t r = if r = d ∧ d ≠ 0 then v else readS s r
  pc    : t.g.spc = s.g.spc + 4
  group : onlyScalars s.g t.g

/-- Memory reads the same in both states at every address. -/
def SameMemory (s t : State) : Prop := ∀ pa, readByte t pa = readByte s pa

/-- Memory reads the same in both states but for the bytes written at `pa`, which are those given. -/
def MemoryTakes (s t : State) (pa : Nat) (data : List Byte) : Prop :=
  ∀ x, readByte t x = if pa ≤ x ∧ x < pa + data.length then data.getD (x - pa) 0 else readByte s x

/-- A global access of the group in focus that passes every check of 06 R91, to an aligned place in this device's memory and
of whose page every copy holds the same, while no store of any group is on its way to its home slice or to a copy, no word
of memory or register of the group has an uncorrectable error, the page is not checked for conflicts and the core's L1 holds
nothing of the line. -/
structure PlainAccess (s : State) (classes : List Nat) (need : Need) (size : Nat) (va : W64) (a : Access) : Prop where
  checks    : checkAccess s s.g.ctx s.g.core classes need size va = .ok a
  aligned   : a.pa % size = 0
  home      : a.peer = false
  inMemory  : isCxl a.pa = false
  replicas  : oneCopy s s.g.ctx a = true
  unchecked : isChecked s a = false
  stores    : s.stores = []
  props     : s.props = []
  clean     : s.poison = []
  registers : s.g.poison = []
  uncached  : lineOf (coreOf s s.g.core) a.pa = none

/-- An engine command issued (06 R106): one operation of the class stands at the end of the list with nothing done, the
class counter has risen by 1, the handle other than H0 is PENDING, the PC has moved on by 4; no scalar register, other
counter or other handle has changed. -/
structure IssuesOp (s t : State) (cls h : Nat) (kind : EngineKind) : Prop where
  op       : ∃ o, t.ops = s.ops ++ [o] ∧ o.gid = s.g.gid ∧ o.cls = cls ∧ o.handle = h ∧ o.kind = kind ∧ o.done = 0 ∧
               o.err = 0 ∧ o.cancelled = false ∧ o.iaddr = s.g.spc
  counters : ∀ c, counterOf t.g c = if c = cls then counterOf s.g c + 1 else counterOf s.g c
  handles  : ∀ k, readH t.g k = if k = h ∧ h ≠ 0 then .pending else readH s.g k
  pc       : t.g.spc = s.g.spc + 4
  regs     : ∀ r, readS t r = readS s r

end Sys2Proof.Machine
end

