-- ==== Sys2Proof/Certificates/Slice0/Obligations.lean ====
section
/-! DEFINITION. The statements for the provers, family by family: what each instruction does and leaves alone, when it
completes, encodings, traps, the invariant of a step, and the steps of the device. -/

open Sys2Proof Sys2Proof.Machine Host


/-! ### Scalar arithmetic, constants, moves, special registers (06 R86 to R90) -/

/-- R86, the arithmetic and logic of majors 0x01 and 0x03: the result goes to S[sd] on 64 bits, the PC moves on by 4,
and nothing else changes (`writeS` discards a write to S0). -/
def Obligations.ScalarArithmeticAndLogicResults : Prop :=
  ∀ (sd sa sb : BitVec 8) (s : State),
    let a := readS s sa.toNat
    let b := readS s sb.toNat
    let gives (i : Instr) (v : W64) : Prop := exec i s = .next (nextSpc (writeS s sd.toNat v))
    gives (.sadd sd sa sb) (a + b) ∧ gives (.ssub sd sa sb) (a - b) ∧
    gives (.smul sd sa sb) (BitVec.ofInt 64 (a.toInt * b.toInt)) ∧
    gives (.smulh sd sa sb) (BitVec.ofInt 64 (a.toInt * b.toInt / 2 ^ 64)) ∧
    gives (.sand sd sa sb) (a &&& b) ∧ gives (.sor sd sa sb) (a ||| b) ∧
    gives (.sxor sd sa sb) (a ^^^ b) ∧ gives (.sandn sd sa sb) (a &&& ~~~b)

/-- R86, majors 0x04 to 0x06: shifts by b mod 64, comparisons giving 1 or 0, minima and maxima. R86, major 0x07: leading
zeros, trailing zeros (64 for a zero input), ones count, bit reversal. -/
def Obligations.ScalarShiftCompareCountResults : Prop :=
  (∀ (sd sa sb : BitVec 8) (s : State),
    let a := readS s sa.toNat
    let b := readS s sb.toNat
    let gives (i : Instr) (v : W64) : Prop := exec i s = .next (nextSpc (writeS s sd.toNat v))
    gives (.sshl sd sa sb) (a <<< (b.toNat % 64)) ∧ gives (.sshr sd sa sb) (a >>> (b.toNat % 64)) ∧
    gives (.ssra sd sa sb) (BitVec.ofInt 64 (a.toInt / 2 ^ (b.toNat % 64))) ∧
    gives (.sror sd sa sb) (a.rotateRight (b.toNat % 64)) ∧
    gives (.sslt sd sa sb) (if a.toInt < b.toInt then 1 else 0) ∧
    gives (.ssltu sd sa sb) (if a.toNat < b.toNat then 1 else 0) ∧
    gives (.sseq sd sa sb) (if a = b then 1 else 0) ∧ gives (.ssne sd sa sb) (if a = b then 0 else 1) ∧
    gives (.smin sd sa sb) (if a.toInt ≤ b.toInt then a else b) ∧
    gives (.smax sd sa sb) (if a.toInt ≤ b.toInt then b else a) ∧
    gives (.sminu sd sa sb) (if a.toNat ≤ b.toNat then a else b) ∧
    gives (.smaxu sd sa sb) (if a.toNat ≤ b.toNat then b else a)) ∧
  (∀ (sd sa : BitVec 8) (s : State),
    let a := readS s sa.toNat
    let bits := List.range 64
    let gives (i : Instr) (v : W64) : Prop := exec i s = .next (nextSpc (writeS s sd.toNat v))
    gives (.sclz sd sa) (BitVec.ofNat 64 (bits.takeWhile (fun i => !a.getLsbD (63 - i))).length) ∧
    gives (.sctz sd sa) (BitVec.ofNat 64 (bits.takeWhile (fun i => !a.getLsbD i)).length) ∧
    gives (.spop sd sa) (BitVec.ofNat 64 (bits.countP (fun i => a.getLsbD i))) ∧
    ∃ v : W64, (∀ i, i < 64 → v.getLsbD i = a.getLsbD (63 - i)) ∧ gives (.sbrev sd sa) v)

/-- R86, major 0x02, with R33: the quotient is truncated towards zero and the remainder has the dividend's sign; the
most negative value ÷ −1 wraps. R33 and R51 for a zero divisor: a quotient of all ones, the dividend as remainder,
and DZ; here with no event class counting and no register with an uncorrectable error among those read. -/
def Obligations.ScalarDivisionResults : Prop :=
  (∀ (sd sa sb : BitVec 8) (s : State), readS s sb.toNat ≠ 0 →
    (∀ r ∈ [sa, sb], s.g.poison.contains (scalarBad r.toNat) = false) →
    let a := readS s sa.toNat
    let b := readS s sb.toNat
    let gives (i : Instr) (v : W64) : Prop := exec i s = .next (nextSpc (writeS s sd.toNat v))
    gives (.sdiv sd sa sb) (BitVec.ofInt 64 (a.toInt.tdiv b.toInt)) ∧
    gives (.sdivu sd sa sb) (BitVec.ofNat 64 (a.toNat / b.toNat)) ∧
    gives (.srem sd sa sb) (BitVec.ofInt 64 (a.toInt.tmod b.toInt)) ∧
    gives (.sremu sd sa sb) (BitVec.ofNat 64 (a.toNat % b.toNat))) ∧
  (∀ (sd sa sb : BitVec 8) (s : State), readS s sb.toNat = 0 → NoEvents s →
    (∀ r ∈ [sa, sb], s.g.poison.contains (scalarBad r.toNat) = false) →
    let a := readS s sa.toNat
    let gives (i : Instr) (v : W64) : Prop :=
      let t := nextSpc (writeS s sd.toNat v)
      exec i s = .next { t with g := orFlags t.g false flagDZ }
    gives (.sdiv sd sa sb) (BitVec.allOnes 64) ∧ gives (.sdivu sd sa sb) (BitVec.allOnes 64) ∧
    gives (.srem sd sa sb) a ∧ gives (.sremu sd sa sb) a)

/-- R87: the register–immediate operations. SORI extends its immediate with zeros, the others with its sign. R88 and
R89: constants and moves. SLIT's PC steps past its literal words; SMOV reaches all of S0 to S1023; a conditional
move whose condition fails only moves the PC on. The encodings of R87 and R88: their majors, the bits that must be
zero, the kinds of SLIT, and R87's example. -/
def Obligations.ScalarImmediatesConstantsAndMoves : Prop :=
  (∀ (sd sa : BitVec 8) (imm : BitVec 10) (sh : BitVec 6) (s : State),
    let a := readS s sa.toNat
    let gives (i : Instr) (v : W64) : Prop := exec i s = .next (nextSpc (writeS s sd.toNat v))
    gives (.saddi sd sa imm) (a + imm.signExtend 64) ∧ gives (.sandi sd sa imm) (a &&& imm.signExtend 64) ∧
    gives (.sori sd sa imm) (a ||| imm.zeroExtend 64) ∧ gives (.sxori sd sa imm) (a ^^^ imm.signExtend 64) ∧
    gives (.sshli sd sa sh) (a <<< sh.toNat) ∧ gives (.sshri sd sa sh) (a >>> sh.toNat) ∧
    gives (.ssrai sd sa sh) (BitVec.ofInt 64 (a.toInt / 2 ^ sh.toNat)) ∧
    gives (.sslti sd sa imm) (if a.toInt < imm.toInt then 1 else 0)) ∧
  (∀ (sd sa sb : BitVec 8) (xd xa : BitVec 10) (imm : BitVec 18) (w0 w1 : W32) (s : State),
    let a := readS s sa.toNat
    let gets (v : W64) : State := writeS s sd.toNat v
    exec (.sli sd imm) s = .next (nextSpc (gets (imm.signExtend 64))) ∧
    exec (.slit sd (.signed w0)) s = .next (setSpc (gets (w0.signExtend 64)) (s.g.spc + 8)) ∧
    exec (.slit sd (.unsigned w0)) s = .next (setSpc (gets (w0.zeroExtend 64)) (s.g.spc + 8)) ∧
    exec (.slit sd (.full w0 w1)) s = .next (setSpc (gets (w1 ++ w0)) (s.g.spc + 12)) ∧
    exec (.smov xd xa) s = .next (nextSpc (writeS s xd.toNat (readS s xa.toNat))) ∧
    (readS s sb.toNat ≠ 0 → exec (.scmovn sd sa sb) s = .next (nextSpc (gets a)) ∧
      exec (.scmovz sd sa sb) s = .next (nextSpc s)) ∧
    (readS s sb.toNat = 0 → exec (.scmovz sd sa sb) s = .next (nextSpc (gets a)) ∧
      exec (.scmovn sd sa sb) s = .next (nextSpc s))) ∧
  (∀ w w1 w2 : W32,
    let major := w.extractLsb' 26 6
    let sd := w.extractLsb' 18 8
    let sa := w.extractLsb' 10 8
    let imm := w.extractLsb' 0 10
    let i := decodeScalar w w1 w2
    let bad : Prop := i = .illegalScalarWord w
    let shifts (op : BitVec 8 → BitVec 8 → BitVec 6 → Instr) : Prop :=
      if w.extractLsb' 6 4 = 0 then i = op sd sa (w.extractLsb' 0 6) else bad
    (major = 0x08 → i = .saddi sd sa imm) ∧ (major = 0x09 → i = .sandi sd sa imm) ∧ (major = 0x0A → i = .sori sd sa imm) ∧
    (major = 0x0B → i = .sxori sd sa imm) ∧ (major = 0x0C → shifts .sshli) ∧ (major = 0x0D → shifts .sshri) ∧
    (major = 0x0E → shifts .ssrai) ∧ (major = 0x0F → i = .sslti sd sa imm) ∧
    (major = 0x10 → i = .sli sd (w.extractLsb' 0 18)) ∧
    (major = 0x11 → if w.extractLsb' 0 16 ≠ 0 then bad else
      if w.extractLsb' 16 2 = 0 then i = .slit sd (.signed w1) else if w.extractLsb' 16 2 = 1 then i = .slit sd (.unsigned w1)
      else if w.extractLsb' 16 2 = 2 then i = .slit sd (.full w1 w2) else bad) ∧
    decodeScalar 0x20B8BBFF 0 0 = .saddi 46 46 (-1))

/-- The frame of every scalar instruction that only writes one register (R86 to R89): every other scalar register, every
vector register, mask, tile, handle, flag and special register, the mode, memory and every other group are
unchanged. R12: S0 reads as zero and discards writes; R17: K0 reads as all ones and discards writes. A register
written holds what was written, and no other register changes. -/
def Obligations.ScalarRegisterFrameAndReadBack : Prop :=
  (∀ (i : Instr) (d : Nat) (s t : State), scalarDest i = some d → exec i s = .next t →
    t = { s with g := t.g } ∧ onlyScalars s.g t.g ∧ SameMemory s t ∧ ∀ r, r ≠ d → readS t r = readS s r) ∧
  (∀ (s : State) (g : Group) (r q k j : Nat) (v : W64) (m : W32),
    readS (writeS s r v) q = (if q = r then (if r = 0 then 0 else v) else readS s q) ∧
    readK (writeK g k m) j = (if j = k then (if k = 0 then BitVec.allOnes 32 else m) else readK g j) ∧
    writeS s 0 v = s ∧ writeK g 0 m = g)

/-- R90, SRD: each of the 38 special registers zero-extended to S[sd], in the fields of R22 to R25 (FLAGS under an
outstanding call leaves out at most what that call has set); a number of 38 or above raises trap 0x01. R90, SWR: a
writable register takes its fields and no other register changes, a read-only one ignores the write, and the PC moves
on; TILEW takes 2, 4, 8, 16 and 32 alone. A privileged register (18 to 34) written by code that is not privileged
raises trap 0x05 and is left unchanged; written in privilege CRBASE takes [2:0], EVCTL [1:0] and [63:8], TRAPVEC its
address; a number of 38 or above raises trap 0x01. -/
def Obligations.SpecialRegistersReadAndWrite : Prop :=
  (∀ (sd num : BitVec 10) (s : State),
    let n := num.toNat
    let c := ctxOf s s.g.ctx
    let gets (v : W64) : Prop := exec (.srd sd num) s = .next (nextSpc (writeS s sd.toNat v))
    let number (v : Nat) : Prop := gets (BitVec.ofNat 64 v)
    (n = 0 → number (s.g.ctx % 64)) ∧ (n = 1 → gets (s.device.zeroExtend 64)) ∧
    (n = 2 → number (s.g.core / 64 % 4)) ∧ (n = 3 → number (s.g.core % 64)) ∧
    (∀ t x, teamOf? s s.g.team = some t → gridOf? s t.grid = some x →
      (n = 4 → number t.cidx) ∧ (n = 6 → number t.index) ∧ (n = 7 → number x.nteams) ∧ (n = 9 → number x.desc.groups) ∧
      (n = 5 → if x.desc.clustered then number (16 * x.desc.crows + x.desc.ccols) else gets 0x11)) ∧
    (n = 8 → number s.g.index) ∧ (n = 10 → gets (s.g.role.zeroExtend 64)) ∧
    (n = 11 → gets (s.g.tilew.zeroExtend 64)) ∧
    (n = 12 → gets (BitVec.ofNat 64 ((if c.orev = 1 then 2 ^ 31 else 0) + s.g.fmode.toNat))) ∧
    (n = 13 → (s.g.call = none → gets (s.g.flags.zeroExtend 64)) ∧ ∀ k, s.g.call = some k →
      ∃ left : BitVec 8, left &&& ~~~k.raised = 0 ∧ gets ((s.g.flags &&& ~~~left).zeroExtend 64)) ∧
    (n = 14 → gets (if c.det then 1 else 0)) ∧
    (n = 15 → gets s.clock) ∧ (n = 16 → gets (s.g.seedlo.zeroExtend 64)) ∧ (n = 17 → gets (s.g.seedhi.zeroExtend 64)) ∧
    (18 ≤ n → n ≤ 25 → gets ((c.crbase.getD (n - 18) 0).zeroExtend 64)) ∧
    (26 ≤ n → n ≤ 33 → gets (c.evctl.getD (n - 26) 0)) ∧ (n = 34 → gets c.trapvec) ∧
    (n = 35 → number (s.g.lanebase.toNat % 2 ^ 55)) ∧
    (n = 36 → gets (c.orev.zeroExtend 64)) ∧ (n = 37 → gets (s.g.cseq.zeroExtend 64)) ∧
    (38 ≤ n → exec (.srd sd num) s = .next (takeScalarTrap s (scalarTrap s 0x01) s.g.spc))) ∧
  (∀ (num sa : BitVec 10) (s : State),
    let v := readS s sa.toNat
    let n := num.toNat
    let w := v.toNat % 64
    let sets (g : Group) : Prop := exec (.swr num sa) s = .next (nextSpc { s with g := g })
    let puts (f : Context → Context) : Prop := exec (.swr num sa) s = .next (nextSpc (modCtx s s.g.ctx f))
    (n = 10 → sets { s.g with role := v.setWidth 8 }) ∧
    (n = 11 → if w = 2 ∨ w = 4 ∨ w = 8 ∨ w = 16 ∨ w = 32 then sets { s.g with tilew := BitVec.ofNat 6 w } else sets s.g) ∧
    (n = 12 → sets { s.g with fmode := v.setWidth 6 }) ∧
    (n = 13 → ∃ t, exec (.swr num sa) s = .next t ∧ t.g.flags = v.setWidth 8 ∧ t.g.spc = s.g.spc + 4 ∧
      t = { s with g := t.g } ∧ t.g = { s.g with flags := t.g.flags, spc := t.g.spc, call := t.g.call } ∧
      t.g.call = s.g.call.map (fun k => { k with raised := 0 })) ∧
    (n = 16 → sets { s.g with seedlo := v.setWidth 32 }) ∧ (n = 17 → sets { s.g with seedhi := v.setWidth 32 }) ∧
    (n = 37 → sets { s.g with cseq := v.setWidth 32 }) ∧
    (n < 10 ∨ n = 14 ∨ n = 15 ∨ n = 35 ∨ n = 36 → exec (.swr num sa) s = .next (nextSpc s)) ∧
    (18 ≤ n → n ≤ 34 → s.g.priv = false →
      exec (.swr num sa) s = .next (takeScalarTrap s (scalarTrap s 0x05) s.g.spc)) ∧
    (s.g.priv = true →
      (18 ≤ n → n ≤ 25 → puts (fun x => { x with crbase := x.crbase.set (n - 18) (v.setWidth 3) })) ∧
      (26 ≤ n → n ≤ 33 → puts (fun x => { x with evctl := x.evctl.set (n - 26) (v &&& 0xFFFFFFFFFFFFFF03) })) ∧
      (n = 34 → puts (fun x => { x with trapvec := v &&& 0x7FFFFFFFFFFFC0 }))) ∧
    (38 ≤ n → exec (.swr num sa) s = .next (takeScalarTrap s (scalarTrap s 0x01) s.g.spc)))

/-! ### Scalar memory and future words (06 R91 to R93, R104) -/

/-- R92, the loads, at EA = S[sa] + sext64(imm10) × size, here where the word lies in this device's memory with nothing
outstanding: the bytes at the physical address, little-endian, 8 of them, or 4 extended; memory reads as before. R92
and R21, the stores: a store retires without waiting, its bytes on their way and counted once in the
unacknowledged-store counter; no scalar register changes and no byte of memory has changed yet. -/
def Obligations.ScalarLoadAndStoreResults : Prop :=
  (∀ (sd sa : BitVec 8) (imm : BitVec 10) (s : State) (a : Access),
    let off := imm.signExtend 64
    let loads (i : Instr) (v : W64) : Prop :=
      ∃ t, exec i s = .next t ∧ ScalarEffect s t sd.toNat v ∧ SameMemory s t ∧ t = { s with g := t.g, cores := t.cores }
    (PlainAccess s [0] .read 8 (readS s sa.toNat + off * 8) a →
      loads (.sld sd sa imm) (BitVec.ofNat 64 (leNat (readBytes s a.pa 8)))) ∧
    (PlainAccess s [0] .read 4 (readS s sa.toNat + off * 4) a →
      loads (.slw sd sa imm) ((BitVec.ofNat 32 (leNat (readBytes s a.pa 4))).signExtend 64) ∧
      loads (.slwu sd sa imm) ((BitVec.ofNat 32 (leNat (readBytes s a.pa 4))).zeroExtend 64))) ∧
  (∀ (sd sa : BitVec 8) (imm : BitVec 10) (s : State) (a : Access),
    let off := imm.signExtend 64
    let stores (i : Instr) (data : List Byte) : Prop :=
      exec i s = .next { s with
        stores := [newStore s false [.write a.pa data false 0] s.g.spc 0]
        g := { s.g with unacked := s.g.unacked + 1, spc := s.g.spc + 4 } }
    ordStr s s.g.ctx = false → s.g.unacked < 255 →
    (PlainAccess s [0] .write 8 (readS s sa.toNat + off * 8) a →
      stores (.sst sd sa imm) (leBytes 8 (readS s sd.toNat).toNat)) ∧
    (PlainAccess s [0] .write 4 (readS s sa.toNat + off * 4) a →
      stores (.sstw sd sa imm) (leBytes 4 ((readS s sd.toNat).toNat % 2 ^ 32))))

/-- R93: each scalar atomic leaves the new value in the eight bytes at S[sa] and in no other byte, and the old value in
S[sd]; SACAS compares with S[sd], and with zero in its no-return form. -/
def Obligations.ScalarAtomicResults : Prop :=
  ∀ (sd sa sb : BitVec 8) (s : State) (a : Access), PlainAccess s [0] .write 8 (readS s sa.toNat) a →
    let old : W64 := BitVec.ofNat 64 (leNat (readBytes s a.pa 8))
    let b := readS s sb.toNat
    let does (i : Instr) (new : W64) : Prop :=
      ∃ t, exec i s = .next t ∧ ScalarEffect s t sd.toNat old ∧ MemoryTakes s t a.pa (leBytes 8 new.toNat)
    does (.saadd sd sa sb) (old + b) ∧ does (.samin sd sa sb) (if old.toInt ≤ b.toInt then old else b) ∧
    does (.samax sd sa sb) (if old.toInt ≤ b.toInt then b else old) ∧ does (.saxchg sd sa sb) b ∧
    does (.saand sd sa sb) (old &&& b) ∧ does (.saor sd sa sb) (old ||| b) ∧ does (.saxor sd sa sb) (old ^^^ b) ∧
    does (.sacas sd sa sb) (if old = readS s sd.toNat then b else old)

/-- R104, FPUT and FCLR on a word of this device with no call outstanding: FPUT leaves S[sb] and FULL in the word and
wakes its deferred-read list, FCLR leaves 0 and EMPTY and keeps the waiters; no other byte of memory changes. R104,
FGET and FTRY on a word of this device: a FULL word's value and an acquire; an EMPTY word links the group of an FGET
and suspends it, and gives an FTRY the value of S[sb]. Memory and the word's state stay as they were. -/
def Obligations.FutureWordResults : Prop :=
  (∀ (sa sb : BitVec 8) (s : State) (a : Access), PlainAccess s [3] .write 8 (readS s sa.toNat) a → s.g.call = none →
    (∃ t, exec (.fput sa sb) s = .next t ∧ t.g.spc = s.g.spc + 4 ∧ wordFull t a.pa = true ∧
      MemoryTakes s t a.pa (leBytes 8 (readS s sb.toNat).toNat) ∧ (∀ r, readS t r = readS s r) ∧
      t.waiters = s.waiters.filter (fun w => w.1 != a.pa) ∧
      ∀ w ∈ s.waiters, w.1 = a.pa → w.2 ≠ 0 → ∀ g, groupOf? t w.2 = some g → g.deliver = some (readS s sb.toNat)) ∧
    (∃ t, exec (.fclr sa) s = .next t ∧ t.g.spc = s.g.spc + 4 ∧ wordFull t a.pa = false ∧
      MemoryTakes s t a.pa (leBytes 8 0) ∧ (∀ r, readS t r = readS s r) ∧ t.waiters = s.waiters)) ∧
  (∀ (sd sa sb : BitVec 8) (s : State) (a : Access), PlainAccess s [3] .read 8 (readS s sa.toNat) a → s.g.deliver = none →
    let v : W64 := BitVec.ofNat 64 (leNat (readBytes s a.pa 8))
    (wordFull s a.pa = true →
      exec (.fget sd sa) s = .next (nextSpc (writeS (acquireWord s a) sd.toNat v)) ∧
      exec (.ftry sd sa sb) s = .next (nextSpc (writeS (acquireWord s a) sd.toNat v))) ∧
    (wordFull s a.pa = false →
      exec (.ftry sd sa sb) s = .next (nextSpc (writeS s sd.toNat (readS s sb.toNat))) ∧
      ∃ t, exec (.fget sd sa) s = .next t ∧ t.g.wait = some .future ∧ (a.pa, s.g.gid) ∈ t.waiters ∧
        t.g.spc = s.g.spc ∧ SameMemory s t))

/-- R91, R93 and R104, with R285 and R286: a scalar load, store or atomic and a future-word instruction whose access
fails a check traps at its own PC with the address in FADDR and nothing else changed; a translation fault (0x04)
suspends the group and posts its record, unless firmware has declined to map the page. A check fails with 0x06 for an
address that is not a multiple of the size or whose bits [63:55] are not all equal, 0x05 for a write to a page without
W, 0x07 for a page of another class. -/
def Obligations.ScalarAccessFaultsTrap : Prop :=
  (∀ (sd sa sb : BitVec 8) (imm : BitVec 10) (s : State) (e : AccFault),
    let base := readS s sa.toNat
    let off := imm.signExtend 64
    let stops (i : Instr) (classes : List Nat) (need : Need) (size : Nat) (va : W64) : Prop :=
      let r : TrapReq := { scalarTrap s e.code with sub := e.sub, faddr := e.va }
      checkAccess s s.g.ctx s.g.core classes need size va = .error e →
        exec i s = .next (if e.code = 0x04 ∧ s.g.declined = false then suspendGroup s r else takeScalarTrap s r s.g.spc)
    stops (.sld sd sa imm) [0] .read 8 (base + off * 8) ∧ stops (.slw sd sa imm) [0] .read 4 (base + off * 4) ∧
    stops (.slwu sd sa imm) [0] .read 4 (base + off * 4) ∧ stops (.sst sd sa imm) [0] .write 8 (base + off * 8) ∧
    stops (.sstw sd sa imm) [0] .write 4 (base + off * 4) ∧
    (∀ i ∈ [Instr.saadd sd sa sb, .samin sd sa sb, .samax sd sa sb, .saxchg sd sa sb, .saand sd sa sb, .saor sd sa sb,
      .saxor sd sa sb, .sacas sd sa sb], stops i [0] .write 8 base) ∧
    stops (.fput sa sb) [3] .write 8 base ∧ stops (.fclr sa) [3] .write 8 base ∧
    (s.g.deliver = none → stops (.fget sd sa) [3] .read 8 base) ∧ stops (.ftry sd sa sb) [3] .read 8 base) ∧
  (∀ (s : State) (classes : List Nat) (need : Need) (va : W64) (size : Nat),
    let check := checkAccess s s.g.ctx s.g.core classes need size va
    (va.toNat % size ≠ 0 ∨ vaOk va = false → check = .error ⟨0x06, 0, va⟩) ∧
    (va.toNat % size = 0 → vaOk va = true → ∀ l, translate s s.g.ctx s.g.core va = .ok l →
      physOk (ptePage l.entry + (va.toNat % 2 ^ 55 - l.va)) = true →
      (need = .write → pteW l.entry = false → check = .error ⟨0x05, 0, va⟩) ∧
      (need = .read ∨ pteW l.entry = true → classes.contains (pteClass l.entry) = false →
        check = .error ⟨0x07, 0, va⟩)))

/-! ### Scalar control, blocks and tiles, engine commands, FIFOs, spawning, traps (06 R94 to R116) -/

/-- R94: the comparison holds and the PC becomes PC + 4 × sext(offset), or it becomes PC + 4; nothing else changes. The
majors of the SB format, and the rule's example. -/
def Obligations.BranchesFollowTheirComparison : Prop :=
  (∀ (sa sb : BitVec 8) (off : BitVec 10) (s : State),
    let a := readS s sa.toNat
    let b := readS s sb.toNat
    let goes (i : Instr) (taken : Bool) : Prop :=
      exec i s = .next (setSpc s (if taken then s.g.spc + 4 * off.signExtend 64 else s.g.spc + 4))
    goes (.sbeq sa sb off) (decide (a = b)) ∧ goes (.sbne sa sb off) (decide (a ≠ b)) ∧
    goes (.sblt sa sb off) (decide (a.toInt < b.toInt)) ∧ goes (.sbge sa sb off) (decide (b.toInt ≤ a.toInt)) ∧
    goes (.sbltu sa sb off) (decide (a.toNat < b.toNat)) ∧ goes (.sbgeu sa sb off) (decide (b.toNat ≤ a.toNat))) ∧
  (∀ w w1 w2 : W32,
    let reads (major : BitVec 6) (i : BitVec 8 → BitVec 8 → BitVec 10 → Instr) : Prop :=
      w.extractLsb' 26 6 = major →
        decodeScalar w w1 w2 = i (w.extractLsb' 18 8) (w.extractLsb' 10 8) (w.extractLsb' 0 10)
    reads 0x19 .sbeq ∧ reads 0x1A .sbne ∧ reads 0x1B .sblt ∧ reads 0x1C .sbge ∧ reads 0x1D .sbltu ∧ reads 0x1E .sbgeu) ∧
  decodeScalar 0x64780005 0 0 = .sbeq 30 0 5

/-- R95 with R54: the unconditional transfers. SCALL links in S255; SJALR reads its target before it writes its link;
a target that is not a multiple of 4 raises trap 0x06 on the jump, and no link is written. R102: YIELD only marks the
group for its scheduler. That FADDR is then the target is the model's choice (log 29). -/
def Obligations.JumpsAndLinks : Prop :=
  ∀ (sd sa : BitVec 8) (off : BitVec 26) (s : State),
    let target := readS s sa.toNat
    exec (.sjmp off) s = .next (setSpc s (s.g.spc + 4 * off.signExtend 64)) ∧
    exec (.scall off) s = .next (setSpc (writeS s 255 (s.g.spc + 4)) (s.g.spc + 4 * off.signExtend 64)) ∧
    (target.toNat % 4 = 0 → exec (.sjr sa) s = .next (setSpc s target) ∧
      exec (.sjalr sd sa) s = .next (setSpc (writeS s sd.toNat (s.g.spc + 4)) target)) ∧
    (target.toNat % 4 ≠ 0 → ∀ i ∈ [Instr.sjr sa, Instr.sjalr sd sa],
      exec i s = .next (takeScalarTrap s { scalarTrap s 0x06 with faddr := target } s.g.spc)) ∧
    exec .yield s = .next (nextSpc { s with g := { s.g with yielded := true } })

/-- R96: LCALL and LCALLR after their join. The call takes the scalar registers as its snapshot, TILEW and FMODE, and
has one READY split with all 32 lanes (at trap depth 0) at the target; every other entry is EMPTY and the PC moves on.
LCALLR raises trap 0x06 unless bits [63:26] of S[sa] are zero. R97 and R13: LJOIN and LTEST. With no call, LJOIN only
moves the PC on and LTEST gives 1; with a split that has not reached LSTOP, LJOIN waits and LTEST gives 0; once every
split has, LJOIN publishes each register the call wrote, zero-extended (of values that unordered splits wrote, one),
leaves the other registers as they were and empties the split table, and LTEST gives 1. -/
def Obligations.LaneCallsStartAndJoin : Prop :=
  (∀ (sa : BitVec 8) (off : BitVec 26) (s j : State),
    let target := readS s sa.toNat
    let starts (i : Instr) (lpc : W32) : Prop := joinCall s = .ok j → j.g.saves = [] →
      ∃ t c, exec i s = .next t ∧ t.g.call = some c ∧ t.g.spc = j.g.spc + 4 ∧ c.snap = j.g.sregs ∧ c.written = [] ∧
        c.tilew = j.g.tilew ∧ c.fmode = j.g.fmode ∧ t.g.splits.length = 8 ∧ t.g.overflow = [] ∧
        (∀ e, (splitAt t.g e).state = if e = 0 then .ready else .empty) ∧ (splitAt t.g 0).lpc = lpc ∧
        (splitAt t.g 0).mask = BitVec.allOnes 32 ∧ t = { j with g := t.g }
    starts (.lcall off) (off.zeroExtend 32) ∧
    (target.toNat < 2 ^ 26 → starts (.lcallr sa) (target.setWidth 32)) ∧
    (2 ^ 26 ≤ target.toNat → exec (.lcallr sa) s = .next (takeScalarTrap s (scalarTrap s 0x06) s.g.spc))) ∧
  (∀ (sd : BitVec 8) (s : State),
    let test (v : W64) : Prop := exec (.ltest sd) s = .next (nextSpc (writeS s sd.toNat v))
    (s.g.call = none → exec .ljoin s = .next (nextSpc s) ∧ test 1) ∧
    ∀ c, s.g.call = some c →
      (callStopped s.g = false → exec .ljoin s = .next (blockScalar s .join) ∧ test 0) ∧
      (callStopped s.g = true → QuietSplit s → s.stores = [] →
        test 1 ∧ ∃ t, exec .ljoin s = .next t ∧ t.g.call = none ∧ t.g.spc = s.g.spc + 4 ∧ callLanes t.g = 0 ∧
          SameMemory s t ∧ ∀ r, r ≠ 0 →
            ((∀ p ∈ c.written, p.key ≠ r) → readS t r = readS s r) ∧
            ((∃ p ∈ c.written, p.key = r) → ∃ p ∈ c.written, p.key = r ∧ readS t r = p.value.zeroExtend 64)))

/-- R103: a team barrier. A group that is not the last to arrive releases and waits for its phase; the last one's
arrival completes the phase: it departs with PC + 4 and its next barrier belongs to the next phase, and outside
deterministic mode BARL gives it 1. R103 for clusters: the same with the cluster's phase. -/
def Obligations.BarriersCountTheirMembers : Prop :=
  ∀ (sd : BitVec 8) (s : State) (t : Team), s.g.call = none → s.stores = [] → s.props = [] →
    teamOf? s s.g.team = some t → s.g.gid ∈ t.groups → (ctxOf s s.g.ctx).det = false →
    (s.g.arrived = false → s.g.phase = t.phase →
      (t.arrivals.length + 1 < teamSize s t → ∀ i ∈ [Instr.bar, Instr.barl sd],
        ∃ u, exec i s = .next u ∧ u.g.wait = some (.barrier s.g.phase) ∧ u.g.arrived = true ∧ u.g.spc = s.g.spc ∧
          SameMemory s u ∧ ∀ r, readS u r = readS s r) ∧
      (teamSize s t ≤ t.arrivals.length + 1 →
        (∃ u, exec .bar s = .next u ∧ u.g.spc = s.g.spc + 4 ∧ u.g.phase = s.g.phase + 1 ∧ u.g.arrived = false ∧
          SameMemory s u ∧ ∀ r, readS u r = readS s r) ∧
        ∃ u, exec (.barl sd) s = .next u ∧ u.g.spc = s.g.spc + 4 ∧ u.g.phase = s.g.phase + 1 ∧ SameMemory s u ∧
          ∀ r, readS u r = if r = sd.toNat ∧ r ≠ 0 then 1 else readS s r)) ∧
    (s.g.carrived = false → s.g.cphase = (clusterPhase s t).phase →
      let size := teamSize s t * clusterSize s t
      ((clusterPhase s t).arrivals.length + 1 < size → ∀ i ∈ [Instr.cbar, Instr.cbarl sd],
        ∃ u, exec i s = .next u ∧ u.g.wait = some (.cbarrier s.g.cphase) ∧ u.g.carrived = true ∧ u.g.spc = s.g.spc) ∧
      (size ≤ (clusterPhase s t).arrivals.length + 1 →
        (∃ u, exec .cbar s = .next u ∧ u.g.spc = s.g.spc + 4 ∧ u.g.cphase = s.g.cphase + 1 ∧
          ∀ r, readS u r = readS s r) ∧
        ∃ u, exec (.cbarl sd) s = .next u ∧ u.g.spc = s.g.spc + 4 ∧ u.g.cphase = s.g.cphase + 1 ∧
          ∀ r, readS u r = if r = sd.toNat ∧ r ≠ 0 then 1 else readS s r))

/-- R112 with R14 and R15: blocks and tiles, here with no call outstanding. VACQ and TACQ take all they ask for when it
is free and no older request waits, the new registers reading as zero with RAW; VREL and TREL keep the first n and
drop the rest; holding any, or asking beyond what the descriptor declares, is trap 0x01. -/
def Obligations.BlocksAndTilesAreTakenAndGivenBack : Prop :=
  ∀ (n : BitVec 2) (m : BitVec 3) (s : State), s.g.call = none →
    let c := coreOf s s.g.core
    (s.g.blocks = 0 → n.toNat ≤ declaredBlocks s →
      (grantable c.vreq s.g.gid n.toNat (freeBlocks s s.g.core) = true →
        ∃ t, exec (.vacq n) s = .next t ∧ t.g.blocks = n.toNat ∧ t.g.spc = s.g.spc + 4 ∧ SameMemory s t ∧
          ∀ r l, l < 32 → readV t.g r l = (if 128 ≤ r then 0 else readV s.g r l) ∧
            tagV t.g r = if 128 ≤ r then 0 else tagV s.g r) ∧
      (grantable c.vreq s.g.gid n.toNat (freeBlocks s s.g.core) = false →
        ∃ t, exec (.vacq n) s = .next t ∧ t.g.wait = some (.vblocks n.toNat) ∧ t.g.spc = s.g.spc ∧ t.g.blocks = 0)) ∧
    (s.g.blocks ≠ 0 ∨ declaredBlocks s < n.toNat →
      exec (.vacq n) s = .next (takeScalarTrap s (scalarTrap s 0x01) s.g.spc)) ∧
    (∃ t, exec (.vrel n) s = .next t ∧ t.g.blocks = min n.toNat s.g.blocks ∧ t.g.spc = s.g.spc + 4 ∧ SameMemory s t ∧
      ∀ r l, l < 32 → r < 128 * (n.toNat + 1) → readV t.g r l = readV s.g r l ∧ tagV t.g r = tagV s.g r) ∧
    (s.g.tiles = 0 → grantable c.treq s.g.gid m.toNat (freeTiles s s.g.core) = true →
      ∃ t, exec (.tacq m) s = .next t ∧ t.g.tiles = m.toNat ∧ t.g.spc = s.g.spc + 4 ∧ SameMemory s t ∧
        ∀ k row col, row < 32 → col < 128 → readT t.g k row col = 0 ∧ tagT t.g k = 0) ∧
    (s.g.tiles = 0 → grantable c.treq s.g.gid m.toNat (freeTiles s s.g.core) = false →
      ∃ t, exec (.tacq m) s = .next t ∧ t.g.wait = some (.tiles m.toNat) ∧ t.g.spc = s.g.spc) ∧
    (s.g.tiles ≠ 0 → exec (.tacq m) s = .next (takeScalarTrap s (scalarTrap s 0x01) s.g.spc)) ∧
    (∃ t, exec (.trel m) s = .next t ∧ t.g.tiles = min m.toNat s.g.tiles ∧ t.g.spc = s.g.spc + 4 ∧ SameMemory s t ∧
      ∀ k row col, row < 32 → col < 128 → k < m.toNat → readT t.g k row col = readT s.g k row col ∧ tagT t.g k = tagT s.g k)

/-- R105 to R108: each engine command whose operands pass the checks, whose handle is not PENDING and whose class
counter is below 63 issues one operation of its class; a PENDING handle or a full counter makes it wait. Without
`.rel` no store is waited for and memory is as before; with it no store of the group is on its way afterwards. Operands
that fail the checks raise trap 0x06. -/
def Obligations.EngineCommandsIssue : Prop :=
  ∀ (h : BitVec 4) (sa sb sc : BitVec 6) (rel : Bool) (s : State),
    let a := readS s sa.toNat
    let b := readS s sb.toNat
    let c := readS s sc.toNat
    let e := readS s (sc.toNat + 1)
    let n := readS s (sc.toNat + 2)
    let issues (i : Instr) (cls : Nat) (kind : EngineKind) : Prop :=
      (readH s.g h.toNat ≠ .pending → counterOf s.g cls < 63 →
        ∃ t, exec i s = .next t ∧ IssuesOp s t cls h.toNat kind ∧
          (rel = false → SameMemory s t ∧ t.stores = s.stores) ∧ (rel = true → ∀ st ∈ t.stores, st.gid ≠ s.g.gid)) ∧
      (readH s.g h.toNat = .pending → exec i s = .next (blockScalar s (.busy h.toNat))) ∧
      (readH s.g h.toNat ≠ .pending → 63 ≤ counterOf s.g cls → exec i s = .next (blockScalar s (.room cls)))
    let traps (i : Instr) : Prop := exec i s = .next (takeScalarTrap s (scalarTrap s 0x06) s.g.spc)
    (c.toNat < 2 ^ 32 → (placeOf s a c.toNat).isSome → (placeOf s b c.toNat).isSome →
      issues (.cpy h sa sb sc rel) 0 (.cpy a b c.toNat)) ∧
    (c.toNat < 2 ^ 32 → a.toNat % 256 = 0 → c.toNat % 256 = 0 → a.toNat + c.toNat ≤ 0x800000 → vaOk b = true →
      issues (.cpyb h sa sb sc rel) 0 (.cpyb a b c.toNat)) ∧
    (gatherChecks s a b c e.toNat n.toNat = true →
      issues (.gath h sa sb sc rel) 1 (.gath a b c e.toNat n.toNat) ∧
      issues (.scat h sa sb sc rel) 1 (.scat a b c e.toNat n.toNat)) ∧
    (a.toNat < 64 → 0 < b.toNat → b.toNat < 65536 → issues (.xkick h sa sb rel) 2 (.xkick a.toNat 0 b.toNat)) ∧
    (a.toNat % 64 = 0 → vaOk a = true → issues (.coll h sa rel) 3 (.coll a)) ∧
    (2 ^ 32 ≤ c.toNat ∨ placeOf s a c.toNat = none ∨ placeOf s b c.toNat = none → traps (.cpy h sa sb sc rel)) ∧
    (2 ^ 32 ≤ c.toNat ∨ a.toNat % 256 ≠ 0 ∨ c.toNat % 256 ≠ 0 ∨ 0x800000 < a.toNat + c.toNat ∨ vaOk b = false →
      traps (.cpyb h sa sb sc rel)) ∧
    (gatherChecks s a b c e.toNat n.toNat = false → traps (.gath h sa sb sc rel) ∧ traps (.scat h sa sb sc rel)) ∧
    (64 ≤ a.toNat ∨ b = 0 ∨ 65536 ≤ b.toNat → traps (.xkick h sa sb rel)) ∧
    (a.toNat % 64 ≠ 0 ∨ vaOk a = false → traps (.coll h sa rel))

/-- R110 and R111: WAITC waits while the class counter is above n, then acquires, and an error in the class latch leaves
the latch and raises trap 0x0F with its code and address; WAITH waits, acquires, or raises trap 0x0F and leaves the
handle; TESTH reports a handle's state and leaves it, a DONE one as an acquire; CANCH asks a PENDING operation to stop;
HMOV moves a state with its operation and frees the handle it came from, with H0 on either side as the rule says, and
waits while a destination other than its source is PENDING. That it does not wait when both are one PENDING handle is
the model's choice (log 98). -/
def Obligations.EngineWaitsAndHandles : Prop :=
  (∀ (cls : BitVec 2) (n : BitVec 6) (h : BitVec 4) (sd : BitVec 8) (s : State),
    let v := readH s.g h.toNat
    let quiet := { s with g := { s.g with parkable := false } }
    let freed : State := { quiet with g := writeH quiet.g h.toNat .free }
    let latch := latchOf s.g cls.toNat
    (n.toNat < counterOf s.g cls.toNat →
      exec (.waitc cls n) s = .next (blockScalar s (.counter cls.toNat n.toNat))) ∧
    (counterOf s.g cls.toNat ≤ n.toNat → latch.1 = 0 → exec (.waitc cls n) s = .next (nextSpc (acquire quiet))) ∧
    (counterOf s.g cls.toNat ≤ n.toNat → latch.1 ≠ 0 → ∃ u, exec (.waitc cls n) s =
        .next (takeScalarTrap u { scalarTrap s 0x0F with sub := latch.1, faddr := latch.2 } s.g.spc) ∧
      (∀ c, latchOf u.g c = if c = cls.toNat then (0, 0) else latchOf s.g c) ∧ SameMemory s u ∧
      u.g.stamp = (coreOf u s.g.core).stamp ∧ (∀ c, counterOf u.g c = counterOf s.g c) ∧ ∀ r, readS u r = readS s r) ∧
    (v = .pending → exec (.waith h) s = .next (blockScalar s (.handle h.toNat))) ∧
    (v = .free → exec (.waith h) s = .next (nextSpc quiet)) ∧
    (v = .done ∨ (∃ q a, v = .error 0x01 q a) → exec (.waith h) s = .next (nextSpc (acquire freed))) ∧
    (∀ code q a, code ≠ 0x01 → v = .error code q a → exec (.waith h) s =
      .next (takeScalarTrap s { scalarTrap s 0x0F with sub := code, faddr := a } s.g.spc)) ∧
    (let s1 := if v = .done then acquire s else s
     let word : W64 := match v with
       | .free => 0
       | .pending => 1
       | .done => 2
       | .error code _ _ => BitVec.ofNat 64 (code.toNat * 256 + 3)
     exec (.testh sd h) s = .next (nextSpc (writeS s1 sd.toNat word))) ∧
    (∃ t, exec (.canch h) s = .next t ∧ t.g = { s.g with spc := s.g.spc + 4 } ∧ SameMemory s t ∧
      (v ≠ .pending → t.ops = s.ops) ∧
      (v = .pending → ∀ o ∈ t.ops, o.gid = s.g.gid → o.handle = h.toNat → o.cancelled = true))) ∧
  (∀ (hd ha : BitVec 4) (s : State),
    let v := readH s.g ha.toNat
    let mine (o : EngineOp) : Prop := o.gid = s.g.gid ∧ o.handle = ha.toNat
    let moves (latches : Nat → BitVec 8 × W64) : Prop := ∃ t, exec (.hmov hd ha) s = .next t ∧ t.g.spc = s.g.spc + 4 ∧
      (∀ q, readH t.g q = if q = ha.toNat then .free else if q = hd.toNat ∧ q ≠ 0 then v else readH s.g q) ∧
      (∀ r, readS t r = readS s r) ∧ SameMemory s t ∧ (∀ c, latchOf t.g c = latches c) ∧
      (∀ c, counterOf t.g c = counterOf s.g c) ∧ t.ops.length = s.ops.length ∧
      ∀ (i : Nat) (o : EngineOp), s.ops[i]? = some o →
        (v = .pending ∧ mine o → t.ops[i]? = some { o with handle := hd.toNat }) ∧
        (¬(v = .pending ∧ mine o) → t.ops[i]? = some o)
    exec (.hmov ha ha) s = .next (nextSpc s) ∧
    (hd ≠ ha → readH s.g hd.toNat = .pending → exec (.hmov hd ha) s = .next (blockScalar s (.busy hd.toNat))) ∧
    (hd ≠ 0 → readH s.g hd.toNat ≠ .pending →
      exec (.hmov hd 0) s = .next (nextSpc { s with g := writeH s.g hd.toNat .free })) ∧
    (hd ≠ ha → ha ≠ 0 → readH s.g hd.toNat ≠ .pending →
      (hd ≠ 0 → moves (latchOf s.g)) ∧
      (hd = 0 → ((∀ code q a, v ≠ .error code q a ∨ code = 0x01) → moves (latchOf s.g)) ∧
        ∀ code q a, v = .error code q a → code ≠ 0x01 → moves (fun c =>
          if c = q.toNat ∧ (latchOf s.g c).1 = 0 then (code, a) else latchOf s.g c))))

/-- R113, R255, R256: BANKCFG writes its status into S[sa] and moves the PC on. A word that is invalid gives 3, also
for a bank that a team owns (the order of the statuses is the model's choice: log 81); otherwise a bank that a team
owns gives 1, a FIFO that is not empty 2, the last cache way 4, each with no other change, and 0 switches the bank:
the lines of a way leave the L1, the bytes are cleared unless the bank keeps its mode, no other bank changes, and a
FIFO has its slots free, as many as 32, SLOT and the ENTRY's FDEPTH allow. R114: QCLAIM takes the lowest free slot and
gives its window offset, or waits; QPOP takes the oldest queued slot, or is trap 0x06 on a bank with an ENTRY; QPUB of
a slot that is not TAKEN is trap 0x06, and of a TAKEN one queues it, or with an ENTRY launches a grid of one team on
the core and counts it in the frame's JOIN, an invalid descriptor freeing the slot with a context error; QFREE frees a
slot, a free one without effect; a bank not in FIFO mode, or a slot out of range, is trap 0x06. -/
def Obligations.BanksAndFifoSlots : Prop :=
  ∀ (sd sa sb : BitVec 8) (s : State),
    let w := readS s sa.toNat
    let bank := w.toNat
    let slot := (readS s sb.toNat).toNat
    let c := coreOf s s.g.core
    let window (i units : Nat) : W64 := BitVec.ofNat 64 (0x400000 + bank * 0x20000 + i * units * 64)
    let trap (i : Instr) : Prop := exec i s = .next (takeScalarTrap s (scalarTrap s 0x06) s.g.spc)
    let b := (w.extractLsb' 0 5).toNat
    let mode := (w.extractLsb' 5 2).toNat
    let units := (w.extractLsb' 7 8).toNat
    let entry : W64 := ((w.extractLsb' 15 49) ++ (0 : BitVec 6)).signExtend 64
    let found := descriptorFor s s.g.ctx s.g.core entry
    let launches (d : Descriptor) : Prop := d.kind = 0 ∧ d.clustered = false
    let wrong : Prop := 24 ≤ b ∨ mode = 3 ∨ (mode = 2 ∧ units = 0) ∨ (mode ≠ 2 ∧ (units ≠ 0 ∨ entry ≠ 0)) ∨
      (mode = 2 ∧ entry ≠ 0 ∧ ∀ d, found = some d → ¬launches d)
    let kept : Prop := match mode, bankOf c b with
      | 0, .cache => True | 1, .scratch _ => True | 2, .fifo .. => True | _, _ => False
    (entry = 0 ∨ (s.stores = [] ∧ s.props = [] ∧ lostDescriptor? s entry = none) → ∃ t status,
      exec (.bankcfg sa) s = .next (nextSpc (writeS t sa.toNat (BitVec.ofNat 64 status))) ∧
      t = { s with cores := t.cores } ∧ (status ≠ 0 → t = s) ∧ (wrong → status = 3) ∧
      (¬wrong →
        (∀ o, bankOf c b = .scratch o → status = if o = 0 then 0 else 1) ∧
        (∀ u e l q, bankOf c b = .fifo u e l q → (status = 0 ↔ (∀ x ∈ l, x.isFree = true) ∧
          (∀ p ∈ c.qwait, p.2 ≠ b) ∧ engineOnBank s s.g.ctx s.g.core b = false) ∧ (status ≠ 0 → status = 2)) ∧
        (bankOf c b = .cache → (status = 0 ↔ mode = 0 ∨ ∃ k, k < 24 ∧ k ≠ b ∧ bankOf c k = .cache) ∧
          (status ≠ 0 → status = 4)) ∧
        (status = 0 → let n := coreOf t s.g.core
          (∀ k, k ≠ s.g.core → coreOf t k = coreOf s k) ∧ (∀ k, k ≠ b → bankOf n k = bankOf c k) ∧
          n = { c with banks := n.banks, lines := n.lines, spad := n.spad } ∧
          (mode = 0 → bankOf n b = .cache) ∧ (mode = 1 → bankOf n b = .scratch 0) ∧
          (mode = 2 → ∀ depth, (if entry = 0 then depth = 32 else ∃ d, found = some d ∧ depth = d.fdepth) →
            bankOf n b = .fifo units entry (List.replicate (min (min 32 (2048 / units)) depth) (.free false)) []) ∧
          (∀ l, l ∈ n.lines ↔ l ∈ c.lines ∧ (bankOf c b = .cache → mode ≠ 0 → l.way ≠ b)) ∧
          ∀ p, p ∈ n.spad ↔ p ∈ c.spad ∧ (bankOf c b ≠ .cache → ¬kept → p.1 / 131072 ≠ b)))) ∧
    (24 ≤ bank ∨ (∀ u e l q, bankOf c bank ≠ .fifo u e l q) →
      trap (.qclaim sd sa) ∧ trap (.qpub sa sb) ∧ trap (.qfree sa sb) ∧ trap (.qpop sd sa)) ∧
    ∀ u e l q, bank < 24 → bankOf c bank = .fifo u e l q → c.ctx = some s.g.ctx →
      (∀ i, i < l.length → (∀ j, j < i → (l.getD j (.free false)).isFree = false) → (l.getD i .taken).isFree = true →
        bankTaken s s.g bank (.qclaim bank) = false → ∃ t, exec (.qclaim sd sa) s = .next t ∧ t.g.spc = s.g.spc + 4 ∧
          SameMemory s t ∧ readS t sd.toNat = (if sd = 0 then 0 else window i u) ∧
          bankOf (coreOf t s.g.core) bank = .fifo u e (l.set i .taken) (q.filter (fun j => j != i))) ∧
      ((∀ x ∈ l, x.isFree = false) ∨ bankTaken s s.g bank (.qclaim bank) = true →
        ∃ t, exec (.qclaim sd sa) s = .next t ∧ t.g.wait = some (.qclaim bank) ∧ t.g.spc = s.g.spc) ∧
      (e ≠ 0 → trap (.qpop sd sa)) ∧
      (e = 0 → (q = [] ∨ bankTaken s s.g bank (.qpop bank) = true →
          ∃ t, exec (.qpop sd sa) s = .next t ∧ t.g.wait = some (.qpop bank) ∧ t.g.spc = s.g.spc) ∧
        ∀ i r, q = i :: r → bankTaken s s.g bank (.qpop bank) = false → ∃ t, exec (.qpop sd sa) s = .next t ∧
          t.g.spc = s.g.spc + 4 ∧ SameMemory s t ∧ readS t sd.toNat = (if sd = 0 then 0 else window i u) ∧
          bankOf (coreOf t s.g.core) bank = .fifo u e (l.set i .taken) (q.filter (fun j => j != i))) ∧
      (l.length ≤ slot → trap (.qfree sa sb) ∧ trap (.qpub sa sb)) ∧
      (slot < l.length → l.getD slot (.free false) ≠ .taken → trap (.qpub sa sb)) ∧
      (slot < l.length → (l.getD slot (.free false)).isFree = true → exec (.qfree sa sb) s = .next (nextSpc s)) ∧
      (slot < l.length → (l.getD slot (.free false)).isFree = false →
        ∃ t, exec (.qfree sa sb) s = .next t ∧ t.g.spc = s.g.spc + 4 ∧ SameMemory s t ∧
          bankOf (coreOf t s.g.core) bank = .fifo u e (l.set slot (.free false)) (q.filter (fun j => j != slot))) ∧
      (slot < l.length → l.getD slot (.free false) = .taken → s.g.call = none → s.stores = [] → s.props = [] →
        let published (v : SlotState) (p : List Nat) (t : State) : Prop := exec (.qpub sa sb) s = .next t ∧
          t.g.spc = s.g.spc + 4 ∧ bankOf (coreOf t s.g.core) bank = .fifo u e (l.set slot v) p
        (e = 0 → ∃ t, published .queued (q ++ [slot]) t ∧ SameMemory s t) ∧
        (e ≠ 0 → (∀ d, descriptorFor s s.g.ctx s.g.core e = some d → ¬launches d) →
          ∃ t, published (.free false) (q.filter (fun j => j != slot)) t ∧ SameMemory s t ∧ t.grids = s.grids ∧
            t.errors = s.errors ++ [⟨s.g.ctx, .descriptor, 0, e⟩]) ∧
        ∀ d, e ≠ 0 → descriptorFor s s.g.ctx s.g.core e = some d → launches d → s.g.gframe ≠ 0 → s.g.poison = [] →
          ∃ t x, published (.consuming x.id) (q.filter (fun j => j != slot)) t ∧ t.grids = s.grids ++ [x] ∧
            x.nteams = 1 ∧ x.desc = d ∧ x.home = some s.g.core ∧ t.errors = s.errors ∧
            x.origin = .consumer s.g.gframe s.g.gid s.g.core bank slot (window slot u) ∧
            MemoryTakes s t (poolPa (ctxOf s s.g.ctx) s.g.gframe + 16)
              (leBytes 4 (frameJoin s s.g.ctx s.g.gframe + 1)))

/-- R99, SPAWN of n children. A descriptor address that is not a multiple of 64, or the argument base of a task SPAWN
that is not one of 4, is trap 0x06; an invalid descriptor trap 0x01; of no children it only releases. The group's
first SPAWN takes the lowest free frame of the pool, zero but for PARENT and JOIN, or waits for one. n is added to
JOIN and the PC moves on. A grid descriptor adds one grid of n teams whose groups find S[sb] in S1. A task descriptor
makes n records, numbered in ARG0, that report to the frame (R277; here with an argument base of 0): in deterministic
mode up to 32 form one task group on the core (R279), otherwise they join the bin of their descriptor, or take the
first empty one (R278). R100 and R101: AWAITG waits while the join count is not zero, and then only acquires; TEXIT
waits for the engine counters and then ends the group: it holds no block, tile or handle and its end stands in the
list of ends. That the lowest free frame is taken is the model's choice (log 34). -/
def Obligations.SpawnAwaitAndExit : Prop :=
  (∀ (sd sa sb : BitVec 8) (s : State) (d : Descriptor),
    let entry := readS s sa.toNat
    let base := readS s sb.toNat
    let n := (readS s sd.toNat).toNat % 2 ^ 32
    let c := ctxOf s s.g.ctx
    let bins := (coreOf s s.g.core).bins
    let traps (r : TrapReq) : Prop := exec (.spawn sd sa sb) s = .next (takeScalarTrap s r s.g.spc)
    let gridOf (x : Grid) (frame : Nat) : Prop := x.nteams = n ∧ x.desc = d ∧ x.args = base ∧
      x.origin = .spawn frame s.g.gid ∧ x.seedlo = s.g.seedlo ∧ x.seedhi = s.g.seedhi
    let joined (t : State) : Prop := t.g.spc = s.g.spc + 4 ∧ (∀ r, readS t r = readS s r) ∧
      MemoryTakes s t (poolPa c s.g.gframe + 16) (leBytes 4 (frameJoin s s.g.ctx s.g.gframe + n))
    let records (recs : List TaskRecord) : Prop := recs.length = n ∧ ∀ i r, recs[i]? = some r → r.entry = entry ∧
      r.arg0 = BitVec.ofNat 32 i ∧ r.arg1 = 0 ∧ r.frame = s.g.gframe ∧ r.key = (s.g.seedhi ++ s.g.seedlo : W64) ∧ r.cont = false ∧
      r.prio = ((teamOf? s s.g.team).map (·.prio)).getD 0
    let takes (b : Bin) : Prop := b.records ≠ [] ∧ b.key = entry ∧ b.ctx = s.g.ctx ∧ b.records.length < 32
    (entry.toNat % 64 ≠ 0 → traps { scalarTrap s 0x06 with faddr := entry }) ∧
    (entry.toNat % 64 = 0 → readDescriptor s entry = .ok none → traps (scalarTrap s 0x01)) ∧
    (entry.toNat % 64 = 0 → readDescriptor s entry = .ok (some d) → 2 ≤ d.kind → traps (scalarTrap s 0x01)) ∧
    (entry.toNat % 64 = 0 → readDescriptor s entry = .ok (some d) → d.kind = 1 → 0 < n → base.toNat % 4 ≠ 0 →
      traps { scalarTrap s 0x06 with faddr := base }) ∧
    (entry.toNat % 64 = 0 → readDescriptor s entry = .ok (some d) → s.g.call = none →
      s.stores = [] → s.props = [] → s.g.poison = [] → lostDescriptor? s entry = none →
      (d.kind < 2 → n = 0 → exec (.spawn sd sa sb) s = .next (nextSpc (release s))) ∧
      (d.kind = 0 → 0 < n → s.g.gframe ≠ 0 → ∃ t x, exec (.spawn sd sa sb) s = .next t ∧ t.grids = s.grids ++ [x] ∧
        gridOf x s.g.gframe ∧ joined t) ∧
      (d.kind = 0 → 0 < n → s.g.gframe = 0 →
        ((∀ k, k < c.frames → k ∈ c.used) → exec (.spawn sd sa sb) s = .next (blockScalar s .frames)) ∧
        ∀ k, k < c.frames → k ∉ c.used → (∀ j, j < k → j ∈ c.used) → ∃ t x, exec (.spawn sd sa sb) s = .next t ∧
          t.g.gframe = c.frameVa + k * 128 ∧ (ctxOf t s.g.ctx).used = k :: c.used ∧ t.grids = s.grids ++ [x] ∧
          gridOf x (c.frameVa + k * 128) ∧ t.g.spc = s.g.spc + 4 ∧ MemoryTakes s t (c.framePa + k * 128)
            (leBytes 8 (spawnerFrame s) ++ leBytes 8 0 ++ leBytes 4 n ++ List.replicate 108 0)) ∧
      (d.kind = 1 → 0 < n → s.g.gframe ≠ 0 → base = 0 →
        (c.det = true → n ≤ 32 → ∃ t x recs, exec (.spawn sd sa sb) s = .next t ∧ t.grids = s.grids ++ [x] ∧ joined t ∧
          records recs ∧ x.origin = .tasks recs ∧ x.home = some s.g.core ∧ x.nteams = 1 ∧ x.desc = d ∧
          x.entryVa = entry ∧ x.seedlo = s.g.seedlo ∧ x.seedhi = s.g.seedhi) ∧
        ∀ i b, c.det = false → bins[i]? = some b → (∀ j e, j < i → bins[j]? = some e → ¬takes e) →
          (takes b → b.records.length + n < 32 → ∃ t recs, exec (.spawn sd sa sb) s = .next t ∧ joined t ∧
            records recs ∧ (coreOf t s.g.core).bins = bins.set i { b with records := b.records ++ recs }) ∧
          (b.records = [] → n < 32 → (∀ e ∈ bins, ¬takes e) → (∀ j e, j < i → bins[j]? = some e → e.records ≠ []) →
            ∃ t recs, exec (.spawn sd sa sb) s = .next t ∧ joined t ∧ records recs ∧
              (coreOf t s.g.core).bins = bins.set i ⟨entry, recs, s.clock.toNat, false, s.g.ctx⟩)))) ∧
  (∀ s : State, s.g.call = none →
    (s.g.gframe ≠ 0 → frameJoin s s.g.ctx s.g.gframe ≠ 0 → exec .awaitg s = .next (blockScalar s .awaitg)) ∧
    (s.g.gframe = 0 ∨ frameJoin s s.g.ctx s.g.gframe = 0 →
      ∃ t, exec .awaitg s = .next t ∧ t.g.spc = s.g.spc + 4 ∧ SameMemory s t ∧ (∀ r, readS t r = readS s r) ∧
        t.g.stamp = (coreOf t s.g.core).stamp ∧
        ((coreOf s s.g.core).stamp ≠ 255 → t.g.stamp = (coreOf s s.g.core).stamp + 1)) ∧
    (s.g.counters ≠ [] → exec .texit s = .next (blockScalar s .engines)) ∧
    (s.g.counters = [] → ∃ t, exec .texit s = .next t ∧ t.g.run = .exited ∧ t.g.blocks = 0 ∧ t.g.tiles = 0 ∧
      (∀ h, readH t.g h = .free) ∧ (∀ st ∈ t.stores, st.gid ≠ s.g.gid) ∧ ⟨s.g.gid, false, 0, 0⟩ ∈ t.ends))

/-- R115, R72, R82: the instructions whose effect is a trap, with the code, the number and the resume point; 0x01 for
a word without a meaning. R287 and R289: what taking a trap leaves (below). R115 and R290: ERET raises trap 0x01 at
depth 0; at depth 1 or 2 it lowers the depth, resumes at the SPC of the record, and S1, LANEBASE, privilege and the
interrupted call are again what the trap saved; memory is not written. That FMASK of an illegal lane word is the split's
mask, and that an SPC which is no multiple of 4 is taken as it is, are the model's choices (logs 26 and 96). -/
def Obligations.TrapInstructionsAndEret : Prop :=
  (∀ (n : BitVec 8) (w : W32) (s : State),
    exec (.trap n) s = .next (takeScalarTrap s { scalarTrap s 0x0A with num := n } (s.g.spc + 4)) ∧
    exec (.sysc n) s = .next (takeScalarTrap s { scalarTrap s 0x0B with num := n } (s.g.spc + 4)) ∧
    exec (.bkpt n) s = .next (takeScalarTrap s { scalarTrap s 0x0C with num := n } s.g.spc) ∧
    exec (.illegalScalarWord w) s = .next (takeScalarTrap s (scalarTrap s 0x01) s.g.spc) ∧
    exec .illegalWord s = .next (takeLaneTrap s { laneTrap s 0x01 with fmask := (curSplit s).mask }
      (curSplit s).lpc (curSplit s).mask)) ∧
  (∀ s : State,
    (s.g.depth = 0 → exec .eret s = .next (takeScalarTrap s (scalarTrap s 0x01) s.g.spc)) ∧
    ∀ v rest, s.g.depth ≠ 0 → s.g.saves = v :: rest → s.g.call = none → s.stores = [] → s.props = [] →
      let pa := framePa s s.g.depth
      ∃ t, exec .eret s = .next t ∧ t.g.depth = s.g.depth - 1 ∧ t.g.saves = rest ∧ t.g.spc = read64 s (pa + 24) ∧
        t.g.call = v.call ∧ t.g.lanebase = v.lanebase ∧ t.g.priv = v.priv ∧ t.g.meld = v.meld ∧
        (v.lane = false → t.g.splits = v.splits) ∧
        (v.lane = true → v.entry < v.splits.length → (splitAt t.g v.entry).lpc = read32 s (pa + 8)) ∧
        (∀ q, readS t q = if q = 1 then read64 s (pa + 40) else readS s q) ∧ SameMemory s t)

/-- R287 and R289, taking a trap with a valid handler at a depth below 2: the depth rises by one, the PC and LANEBASE
come from the handler's descriptor, privilege follows its PRIV, no call is outstanding, S1 is the frame's address,
and the record at the frame holds code, number, depth, FMASK, LPC, FADDR, SPC and SAVEDS1; every other scalar
register and byte of memory stays. R288: with no handler, or at depth 2, the group halts and a context error is
posted. -/
def Obligations.TakingATrapEntersTheHandler : Prop :=
  ∀ (s : State) (r : TrapReq) (lpc tl : W32) (spc : W64),
    let t := takeTrap s r lpc spc tl
    let pa := framePa s (s.g.depth + 1)
    (∀ d, (ctxOf s s.g.ctx).trapvec ≠ 0 → handlerOf s = some d → s.g.depth < 2 → s.stores = [] → s.g.landings = [] →
      t.g.depth = s.g.depth + 1 ∧ t.g.spc = d.scalar ∧ t.g.lanebase = d.lanebase ∧ t.g.priv = d.priv ∧ t.g.call = none ∧
      (∀ q, readS t q = if q = 1 then frameVa s (s.g.depth + 1) else readS s q) ∧
      (∃ rec : List Byte, rec.length = 64 ∧ MemoryTakes s t pa rec) ∧
      readByte t pa = r.code ∧ readByte t (pa + 1) = r.num ∧ readByte t (pa + 2) = r.events ∧
      (readByte t (pa + 3)).toNat = r.lane.toNat + 2 * (s.g.depth + 1) ∧
      read32 t (pa + 4) = r.fmask ∧ read32 t (pa + 8) = lpc ∧ readByte t (pa + 13) = r.sub ∧
      read64 t (pa + 16) = r.faddr ∧ read64 t (pa + 24) = spc ∧ read32 t (pa + 32) = tl ∧
      read64 t (pa + 40) = readS s 1 ∧ read64 t (pa + 48) = r.iaddr) ∧
    ((ctxOf s s.g.ctx).trapvec = 0 ∨ handlerOf s = none ∨ 2 ≤ s.g.depth →
      t.g.run = .failing ∧ t.errors.length = s.errors.length + 1 ∧ t.g.call = none ∧ t.g.depth = s.g.depth)

/-- R116: TLBINV raises trap 0x05 outside privilege; in privilege no TLB of the device (schedulers, cores, dies: R264)
keeps a translation of the context whose range the given one touches, and each other translation stays. ICINV: no
instruction cache of the device keeps a line whose bytes the context maps within 128-byte blocks that the range
touches (R65), nor what the group itself fetched of one before (both at once on every core: log 86); every other line
stays, but for a range of over 65,536 lines, after which the model keeps none (its choice, as well). A length of zero
only moves the PC on. HALT ends the group in error and posts the code HALT. -/
def Obligations.SystemControl : Prop :=
  ∀ (sa sb : BitVec 8) (s : State),
    let start := (readS s sa.toNat).toNat
    let n := (readS s sb.toNat).toNat
    let base := start % 2 ^ 55
    let keeps (l : Leaf) : Prop := ¬(0 < n ∧ l.ctx = s.g.ctx ∧ base < l.va + l.size ∧ l.va < base + n)
    let tlbOf (u : State) (c i : Nat) : List Leaf := ((coreOf u c).scheds.getD i ⟨0, 0, 0, []⟩).tlb
    let named (k : Nat) : Prop := ∃ i l, start / 128 ≤ i ∧ 128 * i < start + n ∧
      walk s (ctxOf s s.g.ctx) (BitVec.ofNat 64 (128 * i)) = .ok l ∧
      (ptePage l.entry + (128 * i % 2 ^ 55 - l.va)) / 128 = k
    (s.g.priv = false → exec (.tlbinv sa sb) s = .next (takeScalarTrap s (scalarTrap s 0x05) s.g.spc)) ∧
    (s.g.priv = true → s.stores = [] → ∃ t, exec (.tlbinv sa sb) s = .next t ∧ t.g = { s.g with spc := s.g.spc + 4 } ∧
      SameMemory s t ∧ (n = 0 → t = nextSpc s) ∧
      (∀ c l, l ∈ (coreOf t c).tlb ↔ l ∈ (coreOf s c).tlb ∧ keeps l) ∧
      (∀ c i l, l ∈ tlbOf t c i ↔ l ∈ tlbOf s c i ∧ keeps l) ∧
      ∀ p, p ∈ t.dtlb ↔ p ∈ s.dtlb ∧ keeps p.2) ∧
    (n = 0 → exec (.icinv sa sb) s = .next (nextSpc s)) ∧
    (0 < n → ∃ t, exec (.icinv sa sb) s = .next t ∧ t.g = { s.g with spc := s.g.spc + 4, leftover := t.g.leftover } ∧
      SameMemory s t ∧
      (∀ c l, l ∈ (coreOf t c).icache → l ∈ (coreOf s c).icache ∧ ¬named l.line) ∧
      (∀ p, p ∈ t.g.leftover → p ∈ s.g.leftover ∧ ¬named p.2.line) ∧
      ((start + n - 1) / 128 - start / 128 ≤ 65536 →
        (∀ c l, l ∈ (coreOf s c).icache → ¬named l.line → l ∈ (coreOf t c).icache) ∧
        ∀ p, p ∈ s.g.leftover → ¬named p.2.line → p ∈ t.g.leftover)) ∧
    ∃ t, exec .halt s = .next t ∧ t.g.run = .failing ∧ t.g.call = none ∧
      t.errors = s.errors ++ [⟨s.g.ctx, .halt, 0, s.g.spc⟩]

/-! ### Lane arithmetic (07 R118 to R134) -/

/-- R118, R119, R16, for every lane instruction of one destination: what `laneResult` leaves. The destination V register
holds the value in each active lane of the mask and keeps the other lanes, takes the tag, and no other V register,
mask, tile, handle or flagless state changes; a destination in S768 to S1023 takes the value of the highest active
lane, or nothing without one, as the call sees it, beside what splits not in order with this one wrote there. -/
def Obligations.LaneResultsReachActiveLanesOnly : Prop :=
  ∀ (f : LaneWord) (s : State) (tag : Nat → BitVec 4) (v : Nat → W32 × BitVec 8),
    let t := laneResult f s tag v
    let act := activeLanes s f.pred
    let d := f.d.toNat
    (d < 512 → (∀ r l, r < 512 → l < 32 →
        readV t.g r l = if r = d ∧ act.getLsbD l = true then (v l).1 else readV s.g r l) ∧
      (∀ r, tagV t.g r = if r = d then (if tag 0 = tag 1 then tag 0 else 0) else tagV s.g r)) ∧
    (1024 ≤ d → ∀ c, s.g.call = some c → (∀ r l, readV t.g r l = readV s.g r l) ∧
      ∀ r, r ≠ 0 → laneValues t.g r = match (lanesOf act).getLast? with
        | some l => if r = d - 1024 then (v l).1.zeroExtend 64 ::
            (c.written.filter (fun p => p.key == r && p.lanes &&& splitOf s.g l == 0)).map (fun p => p.value.zeroExtend 64)
          else laneValues s.g r
        | none => laneValues s.g r) ∧
    t.g.kregs = s.g.kregs ∧ t.g.tregs = s.g.tregs ∧ t.g.ttags = s.g.ttags ∧ t.g.handles = s.g.handles ∧
    t.g.counters = s.g.counters ∧ t.g.spc = s.g.spc ∧ t.g.depth = s.g.depth ∧ t.g.saves = s.g.saves ∧
    t.g.fmode = s.g.fmode ∧ t = { s with g := t.g } ∧ SameMemory s t ∧
    t.g.flags = s.g.flags ||| (inLanes act v).2 ∧
    (s.ent < s.g.splits.length → curSplit t = { curSplit s with lpc := (curSplit s).lpc + BitVec.ofNat 32 f.form.length })

/-- R122 and R124, the arithmetic: sums, differences and products on exact values, wrapped, or clamped with OF; high
halves; multiply-add; absolute differences; carries; quotients and remainders with DZ for a zero divisor. -/
def Obligations.LaneIntegerArithmeticResults : Prop :=
  ∀ (f : LaneWord) (s : State), QuietSplit s →
    let a := readOpnd s f.a.toNat
    let b := operandB f s
    let c := readOpnd s f.c.toNat
    let num (w : W32) : Int := if f.mod = 2 then w.toNat else w.toInt
    let clamp (v : Int) : W32 × BitVec 8 :=
      let lo : Int := if f.mod = 2 then 0 else -2 ^ 31
      let hi : Int := if f.mod = 2 then 2 ^ 32 - 1 else 2 ^ 31 - 1
      if f.mod = 1 ∨ f.mod = 2 then
        (BitVec.ofInt 32 (max lo (min v hi)), if lo ≤ v ∧ v ≤ hi then 0 else flagOF)
      else (BitVec.ofInt 32 v, 0)
    let addr := Accept.only [1, 2, 10]
    let int := Accept.only [1, 2]
    let sumTag (p : Nat) : BitVec 4 := if pathTag s.g p f.a.toNat = 10 ∨ pathTag s.g p f.b.toNat = 10 then 10 else 1
    let gives (i : Instr) (reads : List Opnd) (tag : Nat → BitVec 4) (v : Nat → W32 × BitVec 8) : Prop :=
      CanIssue s (activeLanes s f.pred) reads [dst f.d 1] → exec i s = .next (laneResult f s tag v)
    let two (acc : Accept) : List Opnd := [src 0 f.a acc, src 1 f.b acc]
    gives (.vadd f) (two addr) sumTag (fun l => clamp (num (a l) + num (b l))) ∧
    gives (.vsub f) (two addr) sumTag (fun l => clamp (num (a l) - num (b l))) ∧
    gives (.vmul f) (two int) (fun _ => 1) (fun l => clamp (num (a l) * num (b l))) ∧
    gives (.vmulh f) (two int) (fun _ => 1) (fun l => (BitVec.ofInt 32 ((a l).toInt * (b l).toInt / 2 ^ 32), 0)) ∧
    gives (.vmulhu f) (two int) (fun _ => 2) (fun l => (BitVec.ofNat 32 ((a l).toNat * (b l).toNat / 2 ^ 32), 0)) ∧
    gives (.vmad f) [src 0 f.a int, src 1 f.b int, src 2 f.c int] (fun _ => 1)
      (fun l => clamp (num (a l) * num (b l) + num (c l))) ∧
    gives (.vabsd f) (two int) (fun _ => 1) (fun l => clamp ((num (a l) - num (b l)).natAbs : Int)) ∧
    gives (.vaddc f) (two addr) sumTag (fun l => (if (a l).toNat + (b l).toNat < 2 ^ 32 then 0 else 1, 0)) ∧
    gives (.vdiv f) (two int) (fun _ => 1)
      (fun l => if b l = 0 then (BitVec.allOnes 32, flagDZ) else (BitVec.ofInt 32 ((a l).toInt.tdiv (b l).toInt), 0)) ∧
    gives (.vrem f) (two int) (fun _ => 1)
      (fun l => if b l = 0 then (a l, flagDZ) else (BitVec.ofInt 32 ((a l).toInt.tmod (b l).toInt), 0))

/-- R122, the bitwise operations, shifts by b mod 32, minima and maxima. -/
def Obligations.LaneLogicShiftMinMaxResults : Prop :=
  ∀ (f : LaneWord) (s : State), QuietSplit s →
    let a := readOpnd s f.a.toNat
    let b := operandB f s
    let tagA (p : Nat) : BitVec 4 := pathTag s.g p f.a.toNat
    let gives (i : Instr) (acc : Accept) (tag : Nat → BitVec 4) (v : Nat → W32) : Prop :=
      CanIssue s (activeLanes s f.pred) [src 0 f.a acc, src 1 f.b acc] [dst f.d 1] →
        exec i s = .next (laneResult f s tag (fun l => (v l, 0)))
    let int := Accept.only [1, 2]
    gives (.vand f) .any tagA (fun l => a l &&& b l) ∧ gives (.vor f) .any tagA (fun l => a l ||| b l) ∧
    gives (.vxor f) .any tagA (fun l => a l ^^^ b l) ∧ gives (.vandn f) .any tagA (fun l => a l &&& ~~~b l) ∧
    gives (.vshl f) .any tagA (fun l => a l <<< ((b l).toNat % 32)) ∧
    gives (.vshr f) .any tagA (fun l => a l >>> ((b l).toNat % 32)) ∧
    gives (.vsra f) .any tagA (fun l => BitVec.ofInt 32 ((a l).toInt / 2 ^ ((b l).toNat % 32))) ∧
    gives (.vror f) .any tagA (fun l => (a l).rotateRight ((b l).toNat % 32)) ∧
    gives (.vmin f) int (fun _ => 1) (fun l => if (a l).toInt ≤ (b l).toInt then a l else b l) ∧
    gives (.vmax f) int (fun _ => 1) (fun l => if (a l).toInt ≤ (b l).toInt then b l else a l) ∧
    gives (.vminu f) int (fun _ => 2) (fun l => if (a l).toNat ≤ (b l).toNat then a l else b l) ∧
    gives (.vmaxu f) int (fun _ => 2) (fun l => if (a l).toNat ≤ (b l).toNat then b l else a l)

/-- R122 and R123: bit counts, reversal, bit fields, selection, comparison, moves. VCMP's conditions are those of R78: 0
eq, 1 ne, 2 to 5 signed lt, le, gt, ge, 6 to 9 the same unsigned. -/
def Obligations.LaneBitFieldSelectMoveResults : Prop :=
  ∀ (f : LaneWord) (s : State), QuietSplit s →
    let a := readOpnd s f.a.toNat
    let b := operandB f s
    let c := readOpnd s f.c.toNat
    let bits := List.range 32
    let p := (f.imm.extractLsb' 0 5).toNat
    let w := (f.imm.extractLsb' 5 5).toNat + 1
    let inField (i : Nat) : Bool := p ≤ i && i < p + w
    let tagA (q : Nat) : BitVec 4 := pathTag s.g q f.a.toNat
    let one : List Opnd := [src 0 f.a .any]
    let gives (i : Instr) (reads : List Opnd) (tag : Nat → BitVec 4) (v : Nat → W32) : Prop :=
      CanIssue s (activeLanes s f.pred) reads [dst f.d 1] → exec i s = .next (laneResult f s tag (fun l => (v l, 0)))
    let holds (x y : W32) : Bool :=
      match f.mod.toNat with
      | 0 => decide (x = y)
      | 1 => decide (x ≠ y)
      | 2 => decide (x.toInt < y.toInt)
      | 3 => decide (x.toInt ≤ y.toInt)
      | 4 => decide (y.toInt < x.toInt)
      | 5 => decide (y.toInt ≤ x.toInt)
      | 6 => decide (x.toNat < y.toNat)
      | 7 => decide (x.toNat ≤ y.toNat)
      | 8 => decide (y.toNat < x.toNat)
      | _ => decide (y.toNat ≤ x.toNat)
    gives (.vclz f) one (fun _ => 2)
      (fun l => BitVec.ofNat 32 (bits.takeWhile (fun i => !(a l).getLsbD (31 - i))).length) ∧
    gives (.vpop f) one (fun _ => 2) (fun l => BitVec.ofNat 32 (bits.countP (fun i => (a l).getLsbD i))) ∧
    (∃ v : Nat → W32, (∀ l i, i < 32 → (v l).getLsbD i = (a l).getLsbD (31 - i)) ∧ gives (.vbrev f) one tagA v) ∧
    (∃ v : Nat → W32, (∀ l i, i < 32 → (v l).getLsbD i =
        if i < w then (a l).getLsbD (p + i) else f.mod.getLsbD 0 && (a l).getLsbD (p + w - 1)) ∧
      gives (.vbfx f) one tagA v) ∧
    (∃ v : Nat → W32, (∀ l i, i < 32 → (v l).getLsbD i = if inField i then (c l).getLsbD (i - p) else (a l).getLsbD i) ∧
      gives (.vbfi f) [src 0 f.a .any, src 2 f.c .any] tagA v) ∧
    gives (.vsel f) [src 0 f.a .any, src 1 f.b .any, src 2 f.c .any] tagA (fun l => if c l = 0 then b l else a l) ∧
    gives (.vcmp f) [src 0 f.a .any, src 1 f.b .any] (fun _ => 2) (fun l => if holds (a l) (b l) then 1 else 0) ∧
    gives (.vmov f) one tagA a ∧
    gives (.vmovi f) [] (fun _ => 0) (fun _ => f.imm.signExtend 32)

/-- R125 to R130 and R134: the floating-point, packed, dot-product, conversion and random instructions complete in each
active lane with the value and flags of their operation under the call's FMODE, the rounding code and the modifier,
with the result's tag (the operations themselves are those of 02 R34 to R43 and R47). -/
def Obligations.LaneFloatResults : Prop :=
  ∀ (f : LaneWord) (s : State), QuietSplit s →
    let a := readOpnd s f.a.toNat
    let b := readOpnd s f.b.toNat
    let c := readOpnd s f.c.toNat
    let env := laneEnv s.g
    let ftz := env.fmode.getLsbD 2
    let rm := Rm.ofCode (f.mod.extractLsb' 0 3).toNat (env.fmode.extractLsb' 0 2)
    let rm1 := Rm.ofCode (f.mod.extractLsb' 1 3).toNat (env.fmode.extractLsb' 0 2)
    let opt := f.mod.getLsbD 0
    let half := if opt then fp16 else bf16
    let halfTag : BitVec 4 := if opt then 5 else 4
    let srcs (n : Nat) (acc : Accept) : List Opnd := ([src 0 f.a acc, src 1 f.b acc, src 2 f.c acc]).take n
    let gives (i : Instr) (reads : List Opnd) (tag : BitVec 4) (v : Nat → W32 × BitVec 8) : Prop :=
      CanIssue s (activeLanes s f.pred) reads [dst f.d 1] → exec i s = .next (laneResult f s (fun _ => tag) v)
    let f32 := Accept.only [3]
    gives (.fadd f) (srcs 2 f32) 3 (fun l => f32Add rm ftz (a l) (b l)) ∧
    gives (.fsub f) (srcs 2 f32) 3 (fun l => f32Sub rm ftz (a l) (b l)) ∧
    gives (.fmul f) (srcs 2 f32) 3 (fun l => f32Mul rm ftz (a l) (b l)) ∧
    gives (.ffma f) (srcs 3 f32) 3 (fun l => f32Fma rm ftz (a l) (b l) (c l)) ∧
    gives (.fdiv f) (srcs 2 f32) 3 (fun l => f32Div rm ftz (a l) (b l)) ∧
    gives (.fmin f) (srcs 2 f32) 3 (fun l => f32MinMax false ftz (a l) (b l)) ∧
    gives (.fmax f) (srcs 2 f32) 3 (fun l => f32MinMax true ftz (a l) (b l)) ∧
    gives (.fcmp f) (srcs 2 f32) 2
      (fun l => (if (f32Cmp f.mod.toNat ftz (a l) (b l)).1 then 1 else 0, (f32Cmp f.mod.toNat ftz (a l) (b l)).2)) ∧
    gives (.frnd f) (srcs 1 f32) 3 (fun l => f32Rnd rm ftz (a l)) ∧
    gives (.fsqrt f) (srcs 1 f32) 3 (fun l => f32Sqrt rm ftz (a l)) ∧
    gives (.frcp f) (srcs 1 f32) 3 (fun l => f32Rcp ftz (a l)) ∧
    gives (.frsq f) (srcs 1 f32) 3 (fun l => f32Rsq ftz (a l)) ∧
    gives (.fexp2 f) (srcs 1 f32) 3 (fun l => f32Exp2 ftz (a l)) ∧
    gives (.flog2 f) (srcs 1 f32) 3 (fun l => f32Log2 ftz (a l)) ∧
    gives (.fsin f) (srcs 1 f32) 3 (fun l => f32Trig true ftz (a l)) ∧
    gives (.fcos f) (srcs 1 f32) 3 (fun l => f32Trig false ftz (a l)) ∧
    gives (.fclass f) (srcs 1 f32) 2 (fun l => (f32Class (a l), 0)) ∧
    gives (.hadd2 f) (srcs 2 (.only [halfTag])) halfTag (fun l => packed2 (fun x y _ => fmtAdd half rm1 x y) (a l) (b l) (c l)) ∧
    gives (.hmul2 f) (srcs 2 (.only [halfTag])) halfTag (fun l => packed2 (fun x y _ => fmtMul half rm1 x y) (a l) (b l) (c l)) ∧
    gives (.hfma2 f) (srcs 3 (.only [halfTag])) halfTag (fun l => packed2 (fmtFma half rm1) (a l) (b l) (c l)) ∧
    gives (.qdot4 f) [src 0 f.a (.only [if opt then 7 else 6]), src 1 f.b (.only [if opt then 7 else 6]), src 2 f.c f32] 3
      (fun l => dotFloat (if opt then e5m2 else e4m3) rm1 (a l) (b l) (c l)) ∧
    gives (.idot4 f) (srcs 3 (.only [1, 2])) 1 (fun l => clampMod (if f.mod.getLsbD 1 then 1 else 0)
      (byteInt opt (byteOf (a l) 0) * byteInt opt (byteOf (b l) 0) + byteInt opt (byteOf (a l) 1) * byteInt opt (byteOf (b l) 1) +
       byteInt opt (byteOf (a l) 2) * byteInt opt (byteOf (b l) 2) + byteInt opt (byteOf (a l) 3) * byteInt opt (byteOf (b l) 3) +
       (c l).toInt)) ∧
    (let sc := (f.imm.extractLsb' 0 4).toNat
     let dc := (f.imm.extractLsb' 4 4).toNat
     gives (.cvt f) [src 0 f.a (.only [cvtTag sc])] (cvtTag dc) (fun l => match cvtFmt sc with
       | some t => cvtFloat sc dc rm (f.mod.getLsbD 3) ftz t (a l)
       | none => cvtInt sc dc rm (f.mod.getLsbD 3) ftz (a l))) ∧
    gives (.vrand f) (srcs 3 .any) 2 (fun l =>
      let w := philox env.seedlo env.seedhi (a l) (b l) (c l) 1
      (if f.imm.extractLsb' 0 2 = 0 then w.1 else if f.imm.extractLsb' 0 2 = 1 then w.2.1
       else if f.imm.extractLsb' 0 2 = 2 then w.2.2.1 else w.2.2.2, 0))

/-- R34, R125 and R126: a NaN operand gives the canonical NaN 0x7FC0_0000, and sets NV only when it is signalling; FMIN
and FMAX give the other operand of a lone NaN; R127: FCLASS sets exactly one bit of [9:0]. R125, the results at the
special inputs: FRCP, FRSQ, FSQRT, FEXP2, FLOG2, FSIN and FCOS at +0, −0, +∞ and −∞, with their flags, and at a
negative finite input for FRSQ, FSQRT and FLOG2. -/
def Obligations.FloatNansClassesAndSpecialInputs : Prop :=
  (∀ (rm : Rm) (ftz : Bool) (a b : W32),
    let isNan (w : W32) : Prop := 0x7F800000 < w.toNat % 2 ^ 31
    let canon : W32 × BitVec 8 := (0x7FC00000, if a.getLsbD 22 then 0 else flagNV)
    (isNan a → ¬isNan b →
      (∀ op ∈ [f32Add rm ftz, f32Sub rm ftz, f32Mul rm ftz, f32Div rm ftz], op a b = canon ∧ op b a = canon) ∧
      (∀ op ∈ [f32Sqrt rm ftz, f32Rnd rm ftz, f32Rcp ftz, f32Rsq ftz, f32Exp2 ftz, f32Log2 ftz, f32Trig true ftz,
        f32Trig false ftz], op a = canon) ∧
      ∀ m, (f32MinMax m false a b).1 = b ∧ (f32MinMax m false b a).1 = b) ∧
    ∃ k, k < 10 ∧ f32Class a = 1#32 <<< k) ∧
  (∀ (rm : Rm) (ftz : Bool),
    let nan : W32 × BitVec 8 := (0x7FC00000, flagNV)
    let row (w : W32) (rcp rsq sqrt exp2 log2 sin cos : W32 × BitVec 8) : Prop :=
      f32Rcp ftz w = rcp ∧ f32Rsq ftz w = rsq ∧ f32Sqrt rm ftz w = sqrt ∧ f32Exp2 ftz w = exp2 ∧ f32Log2 ftz w = log2 ∧
      f32Trig true ftz w = sin ∧ f32Trig false ftz w = cos
    let inf : W32 := 0x7F800000
    let minf : W32 := 0xFF800000
    let mzero : W32 := 0x80000000
    let one : W32 := 0x3F800000
    row 0 (inf, flagDZ) (inf, 0) (0, 0) (one, 0) (minf, flagDZ) (0, 0) (one, 0) ∧
    row mzero (minf, flagDZ) (minf, 0) (mzero, 0) (one, 0) (minf, flagDZ) (mzero, 0) (one, 0) ∧
    row inf (0, 0) (0, 0) (inf, 0) (inf, 0) (inf, 0) nan nan ∧
    row minf (mzero, 0) nan nan (0, 0) nan nan nan ∧
    ∀ w : W32, w.getLsbD 31 = true → 0x00800000 ≤ w.toNat % 2 ^ 31 → w.toNat % 2 ^ 31 < 0x7F800000 →
      f32Rsq ftz w = nan ∧ f32Sqrt rm ftz w = nan ∧ f32Log2 ftz w = nan)

/-- R131 and R132: QBLK writes its data word with tag FB4x8 and its scale with tag E3M5x4, UNBLK its eight values with
tag F32, in the active lanes of V registers; every other register keeps its value. -/
def Obligations.BlockQuantisationResults : Prop :=
  ∀ (f : LaneWord) (s : State), QuietSplit s → f.d.toNat + 8 ≤ 512 → f.b.toNat < 512 →
    let act := activeLanes s f.pred
    let d := f.d.toNat
    (f.b ≠ f.d → CanIssue s act [srcs 0 f.a 8 (.only [3])] [dst f.d 1, dst f.b 1] → ∃ t, exec (.qblk f) s = .next t ∧
      (∀ l r, l < 32 → r < 512 → readV t.g r l =
        let q := quantise ((List.range 8).map (fun i => readOpnd s (f.a.toNat + i) l))
        if act.getLsbD l = true ∧ r = d then q.1 else if act.getLsbD l = true ∧ r = f.b.toNat then q.2.1 else readV s.g r l) ∧
      tagV t.g d = 8 ∧ tagV t.g f.b.toNat = 9) ∧
    (CanIssue s act [src 0 f.a (.only [8]), src 1 f.b (.only [9])] [dst f.d 8] → ∃ t, exec (.unblk f) s = .next t ∧
      (∀ l r, l < 32 → r < 512 → readV t.g r l =
        if act.getLsbD l = true ∧ d ≤ r ∧ r < d + 8 then
          unblockElem (readOpnd s f.a.toNat l) (readOpnd s f.b.toNat l) (r - d)
        else readV s.g r l) ∧
      (∀ i, i < 8 → tagV t.g (d + i) = 3) ∧ t.g.flags = s.g.flags)

/-! ### Cross-lane and mask instructions (07 R136 to R141) -/

/-- R136, the exchanges: each active lane takes the value of a of its source lane within its tile, with the tag of a;
VINS writes into the lanes named, the highest writer of a lane winning, and lanes not named keep d. R137 and R138:
votes and matches over the active lanes of a tile, with tag U32. -/
def Obligations.LaneExchangeAndVoteResults : Prop :=
  (∀ (f : LaneWord) (s : State), QuietSplit s →
    let act := activeLanes s f.pred
    let w := callTilew s.g
    let b (l : Nat) : Nat := (readOpnd s f.b.toNat l).toNat
    let tagA (p : Nat) : BitVec 4 := pathTag s.g p f.a.toNat
    let two : List Opnd := [src 0 f.a .any, src 1 f.b .any]
    let takes (i : Instr) (reads : List Opnd) (lane : Nat → Nat) : Prop :=
      CanIssue s act reads [dst f.d 1] → exec i s = .next (laneResult f s tagA (fun l => (readAcross s f.a.toNat (lane l), 0)))
    takes (.vshfl f) two (fun l => l / w * w + b l % w) ∧
    takes (.vshup f) two (fun l => if b l % 32 ≤ l % w then l - b l % 32 else l) ∧
    takes (.vshdn f) two (fun l => if l % w + b l % 32 < w then l + b l % 32 else l) ∧
    takes (.vshx f) two (fun l => l / w * w + (l % w ^^^ b l % w)) ∧
    takes (.vbcast f) [src 0 f.a .any]
      (fun l => (((List.range w).map (fun j => l / w * w + j)).filter (fun j => act.getLsbD j)).headD l) ∧
    takes (.vext f) two (fun l => b l % 32) ∧
    (f.d.toNat < 512 → CanIssue s act two [dst f.d 1] → ∃ t, exec (.vins f) s = .next t ∧
      (∀ r l, r < 512 → l < 32 → readV t.g r l = if r = f.d.toNat then
          match ((lanesOf act).filter (fun i => b i % 32 == l)).getLast? with
          | some i => readOpnd s f.a.toNat i
          | none => readV s.g r l
        else readV s.g r l) ∧ tagV t.g f.d.toNat = tagA 0 ∧ t.g.flags = s.g.flags)) ∧
  (∀ (f : LaneWord) (s : State), QuietSplit s → CanIssue s (activeLanes s f.pred) [src 0 f.a .any] [dst f.d 1] →
    let act := activeLanes s f.pred
    let w := callTilew s.g
    let a := readOpnd s f.a.toNat
    let tile (l : Nat) : List Nat := ((List.range w).map (fun j => l / w * w + j)).filter (fun j => act.getLsbD j)
    let bit (p : Bool) : W32 := if p then 1 else 0
    let gives (i : Instr) (v : Nat → W32) : Prop := exec i s = .next (laneResult f s (fun _ => 2) (fun l => (v l, 0)))
    (f.mod = 0 → gives (.vvote f) (fun l => bit ((tile l).any (fun j => a j != 0)))) ∧
    (f.mod = 1 → gives (.vvote f) (fun l => bit ((tile l).all (fun j => a j != 0)))) ∧
    (f.mod = 2 → gives (.vvote f) (fun l => maskOf ((tile l).filter (fun j => a j != 0)))) ∧
    (f.mod = 3 → gives (.vvote f) (fun l => bit ((tile l).all (fun j => a j == a ((tile l).headD 0))))) ∧
    (0 < w → gives (.vmatch f) (fun l => maskOf ((tile l).filter (fun j => a j == a l)))))

/-- R48, R139, R140, tile by tile, in each active lane: VRED gives the root of the tile's tree; VSCAN the lane's
prefix, or under `.excl` the prefix of the place below, with the identity of the operation where no active lane is
below. VSAMPLE gives 1.0 to the lane chosen and +0.0 to the others: a weight that is NaN or below zero counts as +0
with NV, −0 as +0; p is the prefix of the weights under `.rn` without FTZ, total the last, u the draw of the lowest
active lane; the lane chosen is the least with p × 2^32 above u × total, none for a total of +0, for +∞ the least
whose p is +∞. The flags are those of every node, with the weights' NV. -/
def Obligations.LaneReductionResults : Prop :=
  ∀ (f : LaneWord) (s : State), QuietSplit s →
    let act := activeLanes s f.pred
    let w := callTilew s.g
    let code := (f.mod.extractLsb' 0 4).toNat
    let op := reduceOp f (laneEnv s.g)
    let tag (p : Nat) : BitVec 4 := reduceTag code (pathTag s.g p f.a.toNat)
    let inputs (b : Nat) := tileInputs s f.a.toNat act w b
    let perLane (v : Nat → Nat → W32) : List (Nat × W32) :=
      (activeTiles act w).flatMap (fun b => (tileActive act w b).map (fun l => (l, v b l)))
    let flags (fl : Nat → BitVec 8) : BitVec 8 := (activeTiles act w).foldl (fun x b => x ||| fl b) 0
    let gives (i : Instr) (v : Nat → Nat → W32) (fl : Nat → BitVec 8) (tag : Nat → BitVec 4) : Prop :=
      exec i s = .next (retired { s with g := writeOpnd s.g f.d.toNat (perLane v) tag } f.form.length (flags fl))
    let identity : W32 := match code with
      | 2 => 0x7FFFFFFF | 3 => 0x80000000 | 4 => 0xFFFFFFFF | 6 => 0x7F800000 | 7 => 0xFF800000 | 8 => 0xFFFFFFFF | _ => 0
    let weight (x : W32) : W32 × BitVec 8 := match fp32.decode x.toNat with
      | .nan => (0, flagNV)
      | .inf neg => if neg then (0, flagNV) else (x, 0)
      | .fin neg m _ => if m = 0 then (0, 0) else if neg then (0, flagNV) else (x, 0)
    let sums (b : Nat) := scanAll (f32Add .rn false) 5 1 ((inputs b).map (fun x => x.map (fun y => (weight y).1)))
    let p (b l : Nat) : W32 := ((sums b).1.getD (l - b) none).getD 0
    let total (b : Nat) : W32 := p b ((tileActive act w b).getLastD 0)
    let u (b : Nat) : Nat := (readOpnd s f.b.toNat ((tileActive act w b).headD 0)).toNat
    let wins (b l : Nat) : Prop := total b ≠ 0 ∧ if total b = 0x7F800000 then p b l = 0x7F800000 else
      match fp32.decode (p b l).toNat, fp32.decode (total b).toNat with
      | .fin n m e, .fin k q d => (XVal.fin k (u b * q) d).lt (.fin n m (e + 32)) = true
      | .inf neg, .fin _ _ _ => neg = false
      | _, _ => False
    (CanIssue s act [src 0 f.a (reduceAccept code)] [dst f.d 1] →
      gives (.vred f) (fun b _ => (treeRoot op 5 (inputs b)).1.getD 0) (fun b => (treeRoot op 5 (inputs b)).2) tag ∧
      (f.mod.getLsbD 4 = false → gives (.vscan f) (fun b l => ((scanAll op 5 1 (inputs b)).1.getD (l - b) none).getD 0)
        (fun b => (scanAll op 5 1 (inputs b)).2) tag) ∧
      (f.mod.getLsbD 4 = true → gives (.vscan f) (fun b l =>
          (if l = b then none else (scanAll op 5 1 (inputs b)).1.getD (l - b - 1) none).getD identity)
        (fun b => (scanAll op 5 1 (inputs b)).2) tag)) ∧
    (CanIssue s act [src 0 f.a (.only [3]), src 1 f.b .any] [dst f.d 1] →
      ∃ chosen : Nat → Option Nat,
        (∀ b ∈ activeTiles act w, ∀ l, chosen b = some l ↔
          l ∈ tileActive act w b ∧ wins b l ∧ ∀ j ∈ tileActive act w b, j < l → ¬wins b j) ∧
        gives (.vsample f) (fun b l => if chosen b = some l then 0x3F800000 else 0)
          (fun b => (sums b).2 ||| (tileActive act w b).foldl (fun x l => x ||| (weight (readOpnd s f.a.toNat l)).2) 0)
          (fun _ => 3))

/-- R48 for the integer sum: the root of a tree of at most 32 inputs is the sum of those present, and place i of the
prefix is the sum of the present inputs up to i. -/
def Obligations.TreesAndPrefixesAdd : Prop :=
  ∀ xs : List (Option W32), xs.length ≤ 32 →
    let add (a b : W32) : W32 × BitVec 8 := (a + b, 0)
    let total (l : List (Option W32)) : W32 := (l.filterMap id).sum
    ((treeRoot add 5 xs).1.getD 0 = total xs) ∧ (treeRoot add 5 xs).2 = 0 ∧
    ∀ i, i < xs.length → ((scanAll add 5 1 xs).1.getD i none).getD 0 = total (xs.take (i + 1))

/-- R141: the mask instructions act on all 32 bits, whatever the predicate; KMOV changes only the bits of the split's
lanes; KPOP and KFFS give their count to every lane of the split. A write to K0 is discarded. -/
def Obligations.MaskRegisterResults : Prop :=
  ∀ (f : LaneWord) (s : State), QuietSplit s →
    let a := readK s.g f.a.toNat
    let b := readK s.g f.b.toNat
    let act := activeLanes s 0
    let sets (i : Instr) (v : W32) : Prop :=
      exec i s = .next (retired { s with g := writeK s.g f.d.toNat v } f.form.length 0)
    let word (n : Nat) : Group := writeOpnd s.g f.d.toNat ((lanesOf act).map (fun l => (l, BitVec.ofNat 32 n))) (fun _ => 2)
    let counts (i : Instr) (n : Nat) : Prop := CanIssue s act [] [dst f.d 1] →
      exec i s = .next (retired { s with g := word n } f.form.length 0)
    sets (.kand f) (a &&& b) ∧ sets (.kor f) (a ||| b) ∧ sets (.kxor f) (a ^^^ b) ∧ sets (.knot f) (~~~a) ∧
    (CanIssue s act [src 0 f.a .any] [] → ∃ v : W32, sets (.kmov f) v ∧ ∀ l, l < 32 → v.getLsbD l =
      if act.getLsbD l then readOpnd s f.a.toNat l != 0 else (readK s.g f.d.toNat).getLsbD l) ∧
    counts (.kpop f) ((List.range 32).countP (fun i => a.getLsbD i)) ∧
    counts (.kffs f) ((List.range 32).takeWhile (fun i => !a.getLsbD i)).length

/-! ### Lane memory (08 R142 to R153; 07 R135) -/

/-- R142, R145, R147, R151, where each active lane's word lies in this device's memory with nothing outstanding: VLD
gives each active lane its word with the tag of the modifier, at once or in flight as its lookahead says, and memory
reads as before; under `.sm` it completes too, the lanes that miss free. VST retires with one store on its way, its
words in lane order. VPREF brings whole lines into the L1 and changes nothing else. -/
def Obligations.LaneLoadsStoresAndPrefetches : Prop :=
  ∀ (f : LaneWord) (s : State) (a : Nat → Access), QuietSplit s →
    let act := activeLanes s f.pred
    let ls := lanesOf act
    let len := f.form.length
    let address : List Opnd := [baseOpnd f.a, src 1 f.b acceptAddr]
    let plain (need : Need) : Prop := ∀ l ∈ ls, PlainAccess s [0] need 4 (laneEa s f l) (a l)
    (CanIssue s act address [dst f.d 1] → plain .read → ∃ t, exec (.vld f) s = .next t ∧ SameMemory s t ∧
      (f.mod.getLsbD 4 = false → s.props = [] → t = { s with cores := t.cores, g := t.g } ∧ t.g = (retired (landResult s f.la
        (keyWrites s.g f.d.toNat (ls.map (fun l => (l, word32 (readBytes s (a l).pa 4)))) (fun _ => typeTag f))) len 0).g)) ∧
    (CanIssue s act (address ++ [src 2 f.c .any]) [] → plain .write → ordStr s s.g.ctx = false → s.g.unacked < 255 →
      exec (.vst f) s = .next (if act = 0 then retired s len 0 else retired { s with
        stores := [newStore s true (ls.map (fun l => .write (a l).pa (bytes32 (readOpnd s f.c.toNat l)) false l)) (lanePc s) 0]
        g := { s.g with unacked := s.g.unacked + 1 } } len 0)) ∧
    (CanIssue s act address [] → ∃ t, exec (.vpref f) s = .next t ∧ SameMemory s t ∧
      (s.stores = [] → s.props = [] → t = { retired s len 0 with cores := t.cores } ∧
        ∀ l, ls.getLast? = some l → checkAccess s s.g.ctx s.g.core [0] .read 4 (laneEa s f l) = .ok (a l) →
        usesL1 s s.g.ctx (a l) = true → cacheWays (coreOf s s.g.core) ≠ [] → s.poison = [] → s.copies = [] → ∃ x, lineOf (coreOf t s.g.core) (a l).pa = some x ∧
          x.lo = some (readBytes s ((a l).pa / 64 * 64) 32) ∧ x.hi = some (readBytes s ((a l).pa / 64 * 64 + 32) 32)))

/-- R315 to R319: conflict detection. An access to a page without CHK, or outside deterministic mode, leaves every
entry alone. A checked one is met by its sector's entry: a recorded write that does not commute and is concurrent, or
was merged from several teams of the same grid, is the conflict 0; a write meets a reader slot likewise as 1, and OVER
as 2; else the entry records the access: a write takes the write's place and clears the readers, a read joins its
grid's slot, takes an empty one, or sets OVER. A returning atomic reads and then writes (a grid being no child of
itself). The 64 bytes of an entry read back as the entry. A conflict is trap 0x08 with its SUB and address and the
access is not performed, for SLD, SST, and a VLD or VST of one active lane (R117, R153); otherwise the access goes on
from the state with the entry recorded. That FMASK lists the lane is R289. -/
def Obligations.CheckedAccessesConflictOrRecord : Prop :=
  (∀ e : Shadow, e.bytes.length = 64 ∧ parseShadow e.bytes = e) ∧
  ∀ (s : State) (a : Access),
    let x := myStamp s
    let k := sectorOf s a
    let entryOf (u : State) (k : Nat) : List Byte := mapGet clearedEntry k (ctxOf u s.g.ctx).shadow
    let e := parseShadow (entryOf s k)
    let child (y z : AccessStamp) : Prop := ∃ d ∈ s.grids, d.ctx = s.g.ctx ∧ d.number = z.g ∧ d.pg = y.g ∧ d.pt = y.t ∧
      d.pg ≠ 0 ∧ d.pfrom ≤ y.f.toNat ∧ ∀ p, d.pto = some p → y.f.toNat ≤ p
    let concur (y : AccessStamp) : Prop := (x.g = y.g ∧ x.t ≠ y.t) ∨ (x.g = y.g ∧ x.t = y.t ∧ x.p ≠ y.p ∧ x.f = y.f) ∨
      child x y ∨ child y x
    let hit (r : ReaderSlot) : Prop := r.valid = true ∧ (concur r.st ∨ (r.xteam = true ∧ x.g = r.st.g ∧ x.t ≠ r.st.t) ∨
      (r.xgroup = true ∧ x.g = r.st.g ∧ x.t = r.st.t ∧ x.f = r.st.f ∧ x.p ≠ r.st.p))
    let meetsWrite (commutes : Prop) : Prop := e.wvalid = true ∧ ¬commutes ∧
      (concur e.w ∨ (e.wxteam = true ∧ x.g = e.w.g))
    let conflict (use : Use) (sub : BitVec 8) : Prop := conflictCheck s a use = .error ⟨0x08, sub, a.va⟩
    let records (use : Use) (e' : Shadow) : Prop := ∃ t, conflictCheck s a use = .ok t ∧ t = { s with ctxs := t.ctxs } ∧
      entryOf t k = e'.bytes ∧ ∀ j, j ≠ k → entryOf t j = entryOf s j
    let joins (r : ReaderSlot) : ReaderSlot := { r with
      xteam := r.xteam || decide (x.t ≠ r.st.t)
      xgroup := r.xgroup || decide (x.t = r.st.t ∧ x.f = r.st.f ∧ x.p ≠ r.st.p) }
    let mine (r : ReaderSlot) : Prop := r.valid = true ∧ r.st.g = x.g
    let first : ReaderSlot := ⟨true, false, false, x⟩
    let written (wop : BitVec 4) (merged : Bool) : Shadow := ⟨true, merged, wop, x, .zero, .zero, false⟩
    let reads (e' : Shadow) : Prop :=
      (mine e.a → e' = { e with a := joins e.a }) ∧
      (¬mine e.a → mine e.b → e' = { e with b := joins e.b }) ∧
      (¬mine e.a → ¬mine e.b → e.a.valid = false → e' = { e with a := first }) ∧
      (¬mine e.a → ¬mine e.b → e.a.valid = true → e.b.valid = false → e' = { e with b := first }) ∧
      (¬mine e.a → ¬mine e.b → e.a.valid = true → e.b.valid = true → e' = { e with full := true })
    (¬((ctxOf s s.g.ctx).det = true ∧ pteChk a.pte = true) → ∀ use, conflictCheck s a use = .ok s) ∧
    ((ctxOf s s.g.ctx).det = true → pteChk a.pte = true →
      (meetsWrite False → conflict .read 0 ∧ conflict .both 0) ∧
      (¬meetsWrite False → ∃ e', reads e' ∧ records .read e') ∧
      (∀ wop, let commutes : Prop := wop ≠ 0 ∧ e.wop = wop
        (meetsWrite commutes → conflict (.write wop) 0) ∧
        (¬meetsWrite commutes → hit e.a ∨ hit e.b → conflict (.write wop) 1) ∧
        (¬meetsWrite commutes → ¬hit e.a → ¬hit e.b → e.full = true → conflict (.write wop) 2) ∧
        (¬meetsWrite commutes → ¬hit e.a → ¬hit e.b → e.full = false → records (.write wop)
          (written wop (decide (commutes ∧ e.wvalid = true ∧ x.g = e.w.g ∧ x.t ≠ e.w.t))))) ∧
      (¬meetsWrite False → hit e.a ∨ hit e.b → conflict .both 1) ∧
      (¬meetsWrite False → ¬hit e.a → ¬hit e.b → ¬child x x → (e.full = true ∨ (e.a.valid = true ∧ e.b.valid = true ∧
        ¬mine e.a ∧ ¬mine e.b)) → conflict .both 2) ∧
      (¬meetsWrite False → ¬hit e.a → ¬hit e.b → ¬child x x → e.full = false →
        (e.a.valid = false ∨ e.b.valid = false ∨ mine e.a ∨ mine e.b) → records .both (written 0 false))) ∧
    ∀ (sd sa : BitVec 8) (imm : BitVec 10) (f : LaneWord) (l : Nat) (t : State) (c : AccFault),
      let ea : W64 := readS s sa.toNat + imm.signExtend 64 * 8
      let found (need : Need) (size : Nat) (va : W64) : Prop := checkAccess s s.g.ctx s.g.core [0] need size va = .ok a
      let trap (i : Instr) : Prop := exec i s = .next (takeScalarTrap s
        { scalarTrap s c.code with sub := c.sub, faddr := c.va } s.g.spc)
      let laneTraps (i : Instr) : Prop := exec i s = .next (takeLaneTrap s
        { laneTrap s c.code with fmask := maskOf [l], sub := c.sub, faddr := c.va } (curSplit s).lpc (curSplit s).mask)
      let plain : Prop := a.pa % 8 = 0 ∧ a.peer = false ∧ isCxl a.pa = false ∧ oneCopy t t.g.ctx a = true ∧ t.stores = [] ∧
        t.props = [] ∧ t.poison = [] ∧ t.g.poison = [] ∧ lineOf (coreOf t t.g.core) a.pa = none
      let address : List Opnd := [baseOpnd f.a, src 1 f.b acceptAddr]
      (found .read 8 ea → (conflictCheck s a .read = .error c → trap (.sld sd sa imm)) ∧
        (conflictCheck s a .read = .ok t → plain → ∃ u, exec (.sld sd sa imm) s = .next u ∧ SameMemory s u ∧
          u.ctxs = t.ctxs ∧ ScalarEffect t u sd.toNat (BitVec.ofNat 64 (leNat (readBytes s a.pa 8))))) ∧
      (found .write 8 ea → (conflictCheck s a (.write 0) = .error c → trap (.sst sd sa imm)) ∧
        (conflictCheck s a (.write 0) = .ok t → plain → ordStr t t.g.ctx = false → t.g.unacked < 255 →
          exec (.sst sd sa imm) s = .next { t with
            stores := [newStore t false [.write a.pa (leBytes 8 (readS s sd.toNat).toNat) false 0] s.g.spc 0]
            g := { t.g with unacked := t.g.unacked + 1, spc := s.g.spc + 4 } })) ∧
      (QuietSplit s → lanesOf (activeLanes s f.pred) = [l] → found .read 4 (laneEa s f l) →
        CanIssue s (activeLanes s f.pred) address [dst f.d 1] → conflictCheck s a .read = .error c → laneTraps (.vld f)) ∧
      (QuietSplit s → lanesOf (activeLanes s f.pred) = [l] → found .write 4 (laneEa s f l) →
        CanIssue s (activeLanes s f.pred) (address ++ [src 2 f.c .any]) [] → conflictCheck s a (.write 0) = .error c →
        laneTraps (.vst f))

/-- R149 and R150: VATOM performs its lanes' operations in ascending order, each an old value returned and a new word in
memory, and changes no other byte; VATOMN leaves them on their way as one store. The operations are ADD, MIN, MAX,
MINU, MAXU, AND, OR, XOR, XCHG, CAS with S[d] as the compare value, and FADD, codes 0 to 10. -/
def Obligations.LaneAtomicResults : Prop :=
  ∀ (f : LaneWord) (s : State) (a : Nat → Access), QuietSplit s → atomOp f ≤ 10 →
    let act := activeLanes s f.pred
    let ls := lanesOf act
    let len := f.form.length
    let c := readOpnd s f.c.toNat
    let d := readOpnd s f.d.toNat
    let new (old c d : W32) : W32 :=
      match atomOp f with
      | 0 => old + c
      | 1 => if old.toInt ≤ c.toInt then old else c
      | 2 => if old.toInt ≤ c.toInt then c else old
      | 3 => if old.toNat ≤ c.toNat then old else c
      | 4 => if old.toNat ≤ c.toNat then c else old
      | 5 => old &&& c
      | 6 => old ||| c
      | 7 => old ^^^ c
      | 8 => c
      | 9 => if old = d then c else old
      | _ => (f32Add .rn false old c).1
    let word (m : Nat → Byte) (l : Nat) : W32 := word32 ((List.range 4).map (fun i => m ((a l).pa + i)))
    let after (lanes : List Nat) : Nat → Byte := lanes.foldl (fun m l x =>
      if (a l).pa ≤ x ∧ x < (a l).pa + 4 then (bytes32 (new (word m l) (c l) (d l))).getD (x - (a l).pa) 0 else m x) (readByte s)
    let address : List Opnd := [baseOpnd f.a, src 1 f.b acceptAddr]
    (∀ l ∈ ls, PlainAccess s [0] .write 4 (laneEa s f l) (a l)) →
    (CanIssue s act (address ++ atomReads f) [dst f.d 1] →
      ∃ t fl, exec (.vatom f) s = .next t ∧ (∀ x, readByte t x = after ls x) ∧ (atomOp f ≠ 10 → fl = 0) ∧
        t.g = (retired (landResult s f.la (keyWrites s.g f.d.toNat
          (ls.map (fun l => (l, word (after (ls.filter (· < l))) l))) (atomTag s f))) len fl).g) ∧
    (CanIssue s act (address ++ [src 2 f.c (atomAccept (atomOp f))]) [] → ordStr s s.g.ctx = false → s.g.unacked < 255 →
      exec (.vatomn f) s = .next (if act = 0 then retired s len 0 else retired { s with
        stores := [newStore s true (ls.map (fun l => .atomic (a l).pa (atomOp f) (c l) false l)) (lanePc s) 0]
        g := { s.g with unacked := s.g.unacked + 1 } } len 0))

/-- R143, R145, R147 and R149 in scratchpad, where each active lane's offset names a place and scratchpad is not
checked: VLDS gives each lane the word there, VSTS leaves each lane's word there, in lane order, and VATOMS does
both. -/
def Obligations.ScratchpadResults : Prop :=
  ∀ (f : LaneWord) (s : State) (p : Nat → Nat × Nat × Nat), QuietSplit s → (ctxOf s s.g.ctx).spchk = false →
    let act := activeLanes s f.pred
    let ls := lanesOf act
    let word (s : State) (l : Nat) : W32 := bankWord s (p l).1 (p l).2.1 (p l).2.2
    let put (s : State) (l : Nat) (w : W32) : State := setBankWord s (p l).1 (p l).2.1 (p l).2.2 w
    let address : List Opnd := [src 0 f.a acceptAddr, src 1 f.b acceptAddr]
    let c := readOpnd s f.c.toNat
    let atom (old : W32) (l : Nat) : W32 := (atomic32 (atomOp f) old (c l) (readOpnd s f.d.toNat l)).1
    let lands (t : State) (vals : List (Nat × W32)) (tag : Nat → BitVec 4) (fl : BitVec 8) : State :=
      retired (landResult t f.la (keyWrites s.g f.d.toNat vals tag)) f.form.length fl
    (∀ l ∈ ls, spadPlace s f (spadOffset s f l) 4 4 = .ok (p l)) →
    (CanIssue s act address [dst f.d 1] →
      exec (.vlds f) s = .next (lands s (ls.map (fun l => (l, word s l))) (fun _ => typeTag f) 0)) ∧
    (CanIssue s act (address ++ [src 2 f.c .any]) [] →
      exec (.vsts f) s = .next (retired (ls.foldl (fun t l => put t l (c l)) s) f.form.length 0)) ∧
    (CanIssue s act (address ++ atomReads f) [dst f.d 1] → ∃ fl,
      let upTo (lanes : List Nat) : State := lanes.foldl (fun t l => put t l (atom (word t l) l)) s
      exec (.vatoms f) s = .next
        (lands (upTo ls) (ls.map (fun l => (l, word (upTo (ls.filter (· < l))) l))) (atomTag s f) fl))

/-- R152: VCOPY whose counts are all zero moves on; otherwise one step moves, in each active lane with bytes left, as
many as the line of its destination takes, here with no line both read and written: they are on their way as one
store of the bytes read, the lane's two addresses and its count have moved on, and the instruction repeats until
every count is zero. -/
def Obligations.CopyMovesALine : Prop :=
  ∀ (f : LaneWord) (s : State) (src' : Nat → List Access) (dst' : Nat → Access), QuietSplit s →
    let act := activeLanes s f.pred
    let ls := (lanesOf act).filter (fun l => readOpnd s f.c.toNat l != 0)
    let reads := [srcs 0 f.a 2 acceptAddr, srcs 1 f.b 2 acceptAddr, src 2 f.c .any]
    let a (g : Group) (l : Nat) : W64 := readV g (f.a.toNat + 1) l ++ readV g f.a.toNat l
    let b (g : Group) (l : Nat) : W64 := readV g (f.b.toNat + 1) l ++ readV g f.b.toNat l
    let n (l : Nat) : Nat := min (readV s.g f.c.toNat l).toNat (64 - (a s.g l).toNat % 64)
    let plain (x : Access) : Prop := x.peer = false ∧ oneCopy s s.g.ctx x = true ∧ isChecked s x = false ∧
      lineOf (coreOf s s.g.core) x.pa = none
    CanIssue s act reads [] → f.a.toNat < 511 → f.b.toNat < 511 → f.c.toNat < 512 →
    (ls = [] → exec (.vcopy f) s = .next (retired s f.form.length 0)) ∧
    ([f.a.toNat, f.a.toNat + 1, f.b.toNat, f.b.toNat + 1, f.c.toNat].Nodup → ls ≠ [] → s.stores = [] → s.poison = [] →
      (curSplit s).flags = 0 → ordStr s s.g.ctx = false → s.g.unacked < 255 →
      (∀ l ∈ ls, runCheck s .read (b s.g l) (n l) = .ok (src' l) ∧ runCheck s .write (a s.g l) (n l) = .ok [dst' l] ∧
        plain (dst' l) ∧ ∀ x ∈ src' l, plain x ∧ ∀ m ∈ ls, x.pa / 64 ≠ (dst' m).pa / 64) →
      ∃ t, exec (.vcopy f) s = .next t ∧ SameMemory s t ∧
        t.stores = [newStore s true (ls.map (fun l => .write (dst' l).pa
          (((src' l).flatMap (fun x => readBytes s x.pa (64 - x.pa % 64))).take (n l)) false l)) (lanePc s) 0] ∧
        (∀ l, l < 32 → let k := if l ∈ ls then n l else 0
          a t.g l = a s.g l + BitVec.ofNat 64 k ∧ b t.g l = b s.g l + BitVec.ofNat 64 k ∧
          readV t.g f.c.toNat l = readV s.g f.c.toNat l - BitVec.ofNat 32 k) ∧
        (curSplit t).lpc = (curSplit s).lpc +
          (if ∀ l ∈ ls, readV t.g f.c.toNat l = 0 then BitVec.ofNat 32 f.form.length else 0))

/-- R135: the value of VDEC's field in each active lane and the bit offset after it. A fixed field of w bits overruns
when its end passes c. A LEB128 field starts at a byte and takes at most five: a byte that would end past c is an
overrun, a fifth with the top bit set or a value of over 32 bits is malformed. The bytes are those of plain accesses
at S[a]. That d and d+1 land together under a lookahead is the model's choice (log 15). -/
def Obligations.FieldDecodingResults : Prop :=
  ∀ (f : LaneWord) (s : State) (at' : Nat → Access) (v next : Nat → W32), QuietSplit s →
    let act := activeLanes s f.pred
    let base := laneReadS s (f.a.toNat - 0x400)
    let b := readOpnd s f.b.toNat
    let c := readOpnd s f.c.toNat
    let w := (f.imm.extractLsb' 2 5).toNat + 1
    let enc := (f.imm.extractLsb' 0 2).toNat
    let byte (i : Nat) : Nat := (readByte s (at' i).pa).toNat
    let reads (i : Nat) : Prop := PlainAccess s [0] .read 1 (base + BitVec.ofNat 64 i) (at' i)
    let gives (l value off : Nat) : Prop := v l = BitVec.ofNat 32 value ∧ next l = BitVec.ofNat 32 off
    let bits (l : Nat) : Nat :=
      ((List.range 9).map (fun i => byte ((b l).toNat / 8 + i) * 256 ^ i)).sum / 2 ^ ((b l).toNat % 8) % 2 ^ w
    let fixed (l : Nat) : Prop :=
      if (c l).toNat < (b l).toNat + w then gives l 0 0xFFFFFFFF
      else (∀ i, (b l).toNat / 8 ≤ i → i < ((b l).toNat + w + 7) / 8 → reads i) ∧
        (enc = 0 → gives l (bits l) ((b l).toNat + w)) ∧
        (enc = 1 → gives l (if bits l % 2 = 0 then bits l / 2 else 2 ^ 32 - 1 - bits l / 2) ((b l).toNat + w))
    let leb (l : Nat) : Prop :=
      let i := (b l).toNat / 8
      if (b l).toNat % 8 ≠ 0 then gives l 0 0xFFFFFFFE
      else ∃ k, k ≤ 5 ∧ (∀ j, j < k → 8 * (i + j + 1) ≤ (c l).toNat ∧ reads (i + j) ∧ 128 ≤ byte (i + j)) ∧
        if k = 5 then gives l 0 0xFFFFFFFE
        else if (c l).toNat < 8 * (i + k + 1) then gives l 0 0xFFFFFFFF
        else reads (i + k) ∧ byte (i + k) < 128 ∧
          let x := ((List.range (k + 1)).map (fun j => byte (i + j) % 128 * 128 ^ j)).sum
          if x < 2 ^ 32 then gives l x (8 * (i + k + 1)) else gives l 0 0xFFFFFFFE
    CanIssue s act [src 0 f.a .any, src 1 f.b .any, src 2 f.c .any] [dst f.d 2] → vaOk base = true → 0x400 ≤ f.a.toNat → enc ≤ 2 →
    (∀ l ∈ lanesOf act, if enc ≤ 1 then fixed l else leb l) →
    ∃ t, exec (.vdec f) s = .next t ∧ SameMemory s t ∧ t.g = (retired (landResult s f.la
      (keyWrites s.g f.d.toNat ((lanesOf act).map (fun l => (l, v l))) (fun _ => 2) ++
       keyWrites s.g (f.d.toNat + 1) ((lanesOf act).map (fun l => (l, next l))) (fun _ => 2))) f.form.length 0).g

/-! ### Cruise counters (11 R211 to R220) -/

/-- R215, R218 and R219, where each active lane's counter passes its checks on a page that is not checked for conflicts:
CADD, CMRG and CSET retire with one store on its way, an operation for each active lane in lane order; CRD gives
each lane the level of its counter with tag LEVEL, or its estimate with tag F32. -/
def Obligations.CruiseInstructionResults : Prop :=
  ∀ (f : LaneWord) (s : State) (x y : Nat → Counter), QuietSplit s → ordStr s s.g.ctx = false → s.g.unacked < 255 →
    let act := activeLanes s f.pred
    let ls := lanesOf act
    let base := laneReadS s (f.a.toNat - 0x400)
    let b := readOpnd s f.b.toNat
    let c := readOpnd s f.c.toNat
    let opt := f.mod.getLsbD 0
    let index : List Opnd := [src 0 f.a .any, src 1 f.b (.only [1, 2, 10])]
    let counts (need : Need) (i : Nat → W32) (x : Nat → Counter) : Prop :=
      ∀ l ∈ ls, counterAt s need base (i l) = .ok (x l) ∧ isChecked s (x l).acc = false
    let op (l : Nat) (kind : CruiseKind) (fl : BitVec 8) : PendWord :=
      .cruise ⟨s.g.ctx, (x l).acc.pa, (x l).cls, (x l).odd, (x l).crb, b l, l, kind, fl⟩
    let issues (i : Instr) (w : Nat → PendWord) : Prop :=
      exec i s = .next (if act = 0 then retired s f.form.length 0 else retired { s with
        stores := s.stores ++ [newStore s true (ls.map w) (lanePc s) 0]
        g := { s.g with unacked := s.g.unacked + 1 } } f.form.length 0)
    let level (l : Nat) : Nat := levelIn (x l).cls (x l).odd (readByte s (x l).acc.pa)
    (CanIssue s act (index ++ [src 2 f.c (.only [if opt then 3 else 2])]) [] → counts .write b x →
      issues (.cadd f) (fun l => if opt then op l (weightOf true (c l)).1 (weightOf true (c l)).2 else op l (.add (c l).toNat 0) 0)) ∧
    (CanIssue s act (index ++ [src 2 f.c (.only [11])]) [] → counts .write b x →
      issues (.cset f) (fun l => op l (.set (c l).toNat) 0)) ∧
    (CanIssue s act (index ++ [src 2 f.c (.only [1, 2, 10])]) [] → counts .write b x → counts .write c y →
      issues (.cmrg f) (fun l => op l (.merge (y l).acc.pa (y l).odd (y l).crb) 0)) ∧
    (CanIssue s act index [dst f.d 1] → counts .read b x → s.stores = [] → s.poison = [] → ∃ fl, (opt = true → fl = 0) ∧
      exec (.crd f) s = .next (retired (landResult s f.la (keyWrites s.g f.d.toNat (ls.map (fun l =>
        (l, if opt then BitVec.ofNat 32 (level l) else (estimate (baseK s s.g.ctx (x l).crb) (level l)).1)))
          (fun _ => if opt then 11 else 3))) f.form.length fl))

/-- R216, the add: the weight num × 2^−exp climbs every level whose step b^L it covers, with b = 1 + 2^−k; what is left
draws once, or at the largest level sets CSAT. R216 to R219, an operation performed at its counter's home: its level
becomes the one its kind gives, from the lane's draw count and the call's key, with its flags; the other counter of
a CRUISE4 byte and every other byte stay. The weights of a float CADD are those of R216's table. -/
def Obligations.CruiseOperationsAreExact : Prop :=
  (∀ (draw : Nat → W32) (k top : Nat) (x : Raise) (num exp : Nat), x.level ≤ top →
    let after := x.add draw k top num exp
    -- b^L is up / down, and the weight num / one
    let up := (2 ^ k + 1) ^ x.level
    let down := 2 ^ (k * x.level)
    let one := 2 ^ exp
    (num = 0 → after = x) ∧
    (0 < num → x.level = top → after = { x with flags := x.flags ||| flagCSAT }) ∧
    (x.level < top → up * one ≤ num * down → ∀ num' exp', num' * one * down + up * one * 2 ^ exp' = num * down * 2 ^ exp' →
      after = ({ x with level := x.level + 1 } : Raise).add draw k top num' exp') ∧
    (0 < num → x.level < top → num * down < up * one → after = { x with
      level := if (draw x.draws).toNat < 2 ^ 32 * num * down / (one * up) then x.level + 1 else x.level
      draws := x.draws + 1 })) ∧
  ((∀ (s : State) (gid : Nat) (op : CruiseOp) (g : Group) (c : LaneCall), groupOf? s gid = some g → g.call = some c →
    s.poison = [] → op.cls = 1 ∨ op.cls = 2 →
    let old := levelIn op.cls op.odd (readByte s op.pa)
    let top := levelMax op.cls
    let k (crb : Nat) : Nat := baseK s op.ctx crb
    let draw (j : Nat) : W32 := cruiseDraw c.seedlo c.seedhi c.cseq op.index op.lane j
    let start : Raise := ⟨old, mapGet 0 op.lane c.draws, op.flags⟩
    let gives (y : Raise) : Prop :=
      let r := performCruise s gid op
      r.2 = y.flags ∧ levelIn op.cls op.odd (readByte r.1 op.pa) = y.level ∧
      (op.cls = 1 → levelIn 1 (!op.odd) (readByte r.1 op.pa) = levelIn 1 (!op.odd) (readByte s op.pa)) ∧
      ∀ pa, pa ≠ op.pa → readByte r.1 pa = readByte s pa
    (op.kind = .idle → gives start) ∧
    (op.kind = .full → gives { start with level := top, flags := op.flags ||| flagCSAT }) ∧
    (∀ num exp, op.kind = .add num exp → gives (start.add draw (k op.crb) top num exp)) ∧
    (∀ v, op.kind = .set v → gives { start with
      level := min v top, flags := op.flags ||| (if top < v then flagCSAT else 0) }) ∧
    (∀ pa odd crb, op.kind = .merge pa odd crb → gives ((List.range (levelIn op.cls odd (readByte s pa))).foldl
      (fun y m => y.add draw (k op.crb) top ((2 ^ k crb + 1) ^ m) (k crb * m)) start))) ∧
  (∀ w : W32, let mag := w.toNat % 2 ^ 31
    (mag = 0 → weightOf true w = (.idle, 0)) ∧
    (0x7F800000 < mag ∨ 2 ^ 31 < w.toNat → weightOf true w = (.idle, flagNV)) ∧
    (w = 0x7F800000 → weightOf true w = (.full, 0)) ∧
    (0 < w.toNat → w.toNat < 0x7F800000 → ∃ num exp, weightOf true w = (.add num exp, 0) ∧
      num * 2 ^ 149 = (if mag / 2 ^ 23 = 0 then mag else (2 ^ 23 + mag % 2 ^ 23) * 2 ^ (mag / 2 ^ 23 - 1)) * 2 ^ exp)))

/-! ### Lane control flow (08 R154 to R168) -/

/-- R154 and R157 to R161, for a READY split that is alone and in no melded region: after a branch each lane stands at
its own target, in one split with the lanes of the same target, and a branch that divides gives its token; LCALLX
leaves the next instruction's offset in V127; a false claim of uniformity sets UV. LRECONV under a smaller token
passes on, and else merges at once, nothing being waited for. LSTOP stops the split. That an LBR whose two paths have
one target is uniform is the model's choice (log 39). -/
def Obligations.LaneBranchesReachTheirTargets : Prop :=
  ∀ (f : LaneWord) (s : State), QuietSplit s →
    let x := curSplit s
    let here := x.lpc
    let next := here + BitVec.ofNat 32 f.form.length
    let a := readOpnd s f.a.toNat
    let off : W32 := f.imm.signExtend 32
    let splits (t : State) : List Split := t.g.splits ++ t.g.overflow
    let link (slot : Nat) : Opnd := ⟨slot, 127, 1, .any⟩
    let goes (i : Instr) (target : Nat → W32) (token : BitVec 10) (claim : Bool) (v127 : Bool) : Prop :=
      (claim = true → uvTrap (callFmode s.g) = false) → ∃ t, exec i s = .next t ∧ SameMemory s t ∧
        (∀ l, l < 32 → x.mask.getLsbD l = true → ∃ y ∈ splits t, y.state = .ready ∧ y.lpc = target l ∧
          (∀ k, k < 32 → (y.mask.getLsbD k = true ↔ x.mask.getLsbD k = true ∧ target k = target l)) ∧
          ((∀ k, k < 32 → x.mask.getLsbD k = true → target k = target l) → y.token = x.token) ∧
          ((∃ k, k < 32 ∧ x.mask.getLsbD k = true ∧ target k ≠ target l) → y.token = token)) ∧
        (∀ r l, l < 32 → readV t.g r l =
          if v127 = true ∧ r = 127 ∧ x.mask.getLsbD l = true then next else readV s.g r l) ∧
        t.g.flags = s.g.flags ||| (if claim ∧ (lanesOf x.mask).any (fun k => (lanesOf x.mask).any (fun l => target k != target l))
          then flagUV else 0)
    exec (.lnop f) s = .next (retired s f.form.length 0) ∧
    exec (.ljmp f) s = .next { s with g := setSplit s.g s.ent { x with lpc := here + off } } ∧
    (x.state = .ready → otherSplits s = false → melded s = false → x.mask ≠ 0 →
      (CanIssue s x.mask [src 0 f.a .any] [] →
        goes (.lbr f) (fun l => if a l ≠ 0 then here + off else next) (f.c.setWidth 10) (f.mod.getLsbD 0) false ∧
        goes (.lbrx f) a (f.c.setWidth 10) (f.mod.getLsbD 0) false) ∧
      (CanIssue s x.mask [src 0 f.a .any] [link 3] → goes (.lcallx f) a (f.c.setWidth 10) (f.mod.getLsbD 0) true) ∧
      (CanIssue s x.mask [link 0] [] → goes (.lret f) (readV s.g 127) x.token false false) ∧
      (x.token < f.imm.setWidth 10 →
        exec (.lreconv f) s = .next { s with g := setSplit s.g s.ent { x with lpc := next } }) ∧
      (f.imm.setWidth 10 ≤ x.token → ∃ t, exec (.lreconv f) s = .next t ∧ ∃ y ∈ splits t,
        y.mask = x.mask ∧ y.lpc = next ∧ y.token = 0x3FF ∧ y.state = .ready ∧
        ∀ st ∈ t.stores, st.gid ≠ s.g.gid) ∧
      ∃ t, exec (.lstop f) s = .next t ∧ SameMemory s t ∧
        ∃ y ∈ splits t, y.mask = x.mask ∧ y.lpc = here ∧ y.state = .stopped)

/-- R162 and R164: LMELD opens a region under the table at S[a], loaded into the older slot unless one holds it, with
the lanes of the predicate as path 1; LMEND closes it. R168: LTRAP takes trap 0x0A of the active lanes, and without
any retires. R163: in a region, LRECONV, LSTOP, LRET, LCALLX, LAWAIT, LEXIT and a second LMELD raise trap 0x01, as
LMEND does outside one. That FMASK is then the split's mask is the model's choice (log 26). -/
def Obligations.MeldedRegionsAndTraps : Prop :=
  ∀ (f : LaneWord) (s : State) (accs : List Access), QuietSplit s →
    let x := curSplit s
    let next := x.lpc + BitVec.ofNat 32 f.form.length
    let m := x.mask
    let a := laneReadS s (f.a.toNat - 0x400)
    let act := activeLanes s f.pred
    let bytes := (accs.flatMap (fun y => readBytes s y.pa (64 - y.pa % 64))).take 256
    let entries : List (BitVec 10) := (List.range 128).map (fun j =>
      BitVec.ofNat 10 ((bytes.getD (2 * j) 0).toNat + 256 * (bytes.getD (2 * j + 1) 0).toNat))
    (melded s = false → s.g.meld = none → CanIssue s m [src 0 f.a .any] [] → a.toNat % 64 = 0 →
      runCheck s .read a 256 = .ok accs → s.poison = [] → s.stores = [] →
      (∀ y ∈ accs, y.peer = false ∧ oneCopy s s.g.ctx y = true ∧ isChecked s y = false ∧
        lineOf (coreOf s s.g.core) y.pa = none) →
      ∃ t slot, exec (.lmeld f) s = .next t ∧ SameMemory s t ∧ t.g.renOld = 1 - slot ∧
        t.g.meld = some ⟨readK s.g f.pred.toNat &&& m, slot⟩ ∧ curSplit t = { x with lpc := next, meld := true } ∧
        (slotWith s.g a = some slot → t.g.ren = s.g.ren) ∧
        (slotWith s.g a = none → slot = s.g.renOld ∧ t.g.ren = s.g.ren.set slot (some ⟨a, entries⟩))) ∧
    (melded s = true → ∃ t, exec (.lmend f) s = .next t ∧ SameMemory s t ∧ t.g.meld = none ∧ t.g.ren = s.g.ren ∧
      curSplit t = { x with lpc := next, meld := false }) ∧
    (act = 0 → exec (.ltrap f) s = .next (retired s f.form.length 0)) ∧
    (act ≠ 0 → exec (.ltrap f) s = .next (takeLaneTrap (retired s f.form.length 0)
      { laneTrap s 0x0A with fmask := act, num := f.imm.setWidth 8 } next m)) ∧
    (melded s = true → ∀ i ∈ [Instr.lreconv f, .lstop f, .lret f, .lcallx f, .lawait f, .lexit f, .lmeld f],
      exec i s = .next (takeLaneTrap s { laneTrap s 0x01 with fmask := m } x.lpc m)) ∧
    (melded s = false → exec (.lmend f) s = .next (takeLaneTrap s { laneTrap s 0x01 with fmask := m } x.lpc m))

/-- R165 to R167. LSPAWN, where each active lane has its wait frame: in deterministic mode the frames' join counts
rise by one for each lane, and the records of the lanes, in lane order, are placed; outside it, where the pool has
room for the records of every lane, it retires too; with no active lane it retires. LAWAIT, where every lane holds a
task: the lanes with a wait frame leave the group and its K1 with their tasks, the others go on; with none it is an
acquire. LEXIT: the active lanes that hold a task leave the group and its K1 with their tasks' ends reported, those
that hold none are STOPPED, and the other lanes go on. -/
def Obligations.LaneTasksSpawnAwaitAndEnd : Prop :=
  ∀ (f : LaneWord) (s : State) (d : Descriptor), QuietSplit s → s.stores = [] → s.props = [] →
    let x := curSplit s
    let next := x.lpc + BitVec.ofNat 32 f.form.length
    let act := activeLanes s f.pred
    let entry := laneReadS s (f.a.toNat - 0x400)
    let frame (l : Nat) : Nat := waitFrame s.g l
    let splits (t : State) : List Split := t.g.splits ++ t.g.overflow
    let record (l : Nat) : TaskRecord :=
      { entry := entry, arg0 := readOpnd s f.b.toNat l, arg1 := readOpnd s f.c.toNat l, frame := frame l
        prio := myPrio s, key := (laneEnv s.g).seedhi ++ (laneEnv s.g).seedlo, cont := false, root := myRoot s
        by_ := s.g.gid, pg := (myStamp s).g, pt := (myStamp s).t, pfrom := (myStamp s).f.toNat
        know := known s (groupKey s.g.gid) }
    (CanIssue s act [src 0 f.a .any, src 1 f.b .any, src 2 f.c .any] [] → entry.toNat % 64 = 0 →
      readDescriptor s entry = .ok (some d) → d.kind = 1 → x.done = 0 → lostDescriptor? s entry = none →
      (act = 0 → exec (.lspawn f) s = .next (retired (release s) f.form.length 0)) ∧
      ((ctxOf s s.g.ctx).det = true → (∀ l ∈ lanesOf act, frame l ≠ 0) → exec (.lspawn f) s = .next (retired
        (placeRecords ((lanesOf act).foldl (fun t l => joinAdd t s.g.ctx (frame l) 1) (release s)) s.g.ctx s.g.core d
          ((lanesOf act).map record)) f.form.length 0)) ∧
      ((ctxOf s s.g.ctx).det = false → (∀ l ∈ lanesOf act, frame l ≠ 0) → (ctxOf s s.g.ctx).excess = [] →
        (ctxOf s s.g.ctx).pool.length + (lanesOf act).length ≤ (ctxOf s s.g.ctx).records →
        ∃ t, exec (.lspawn f) s = .next t ∧ t.g = (retired s f.form.length 0).g)) ∧
    (melded s = false → x.state = .ready → otherSplits s = false → x.mask ≠ 0 →
      (∀ l ∈ lanesOf x.mask, laneTask s.g l ≠ 0 ∧ (frame l ≠ 0 → ∃ e,
        readDescriptor s (frame64 s s.g.ctx (frame l) 8 &&& ~~~63) = .ok (some e) ∧ e.kind = 1)) →
      ∃ t, exec (.lawait f) s = .next t ∧
        (∀ l ∈ lanesOf x.mask, frame l ≠ 0 → laneTask t.g l = 0 ∧ waitFrame t.g l = 0 ∧
          (readK t.g 1).getLsbD l = false ∧ ∀ y ∈ splits t, y.state ≠ .empty → y.mask.getLsbD l = false) ∧
        ((∀ l ∈ lanesOf x.mask, frame l = 0) → SameMemory s t ∧ (∀ k, readK t.g k = readK s.g k) ∧
          t.g.stamp = (coreOf t s.g.core).stamp) ∧
        ∀ l ∈ lanesOf x.mask, frame l = 0 → laneTask t.g l = laneTask s.g l ∧
          ∃ y ∈ splits t, y.mask.getLsbD l = true ∧ y.lpc = next ∧ y.state = .ready) ∧
    (melded s = false → x.state = .ready → otherSplits s = false → ∃ t, exec (.lexit f) s = .next t ∧ SameMemory s t ∧
      t.ends = s.ends ++ ((lanesOf act).filter (fun l => laneTask s.g l != 0)).map
        (fun l => ⟨s.g.gid, true, frame l, laneTask s.g l - 1⟩) ∧
      (∀ l ∈ lanesOf act, laneTask s.g l ≠ 0 → laneTask t.g l = 0 ∧ waitFrame t.g l = 0 ∧ (readK t.g 1).getLsbD l = false ∧
        ∀ y ∈ splits t, y.state ≠ .empty → y.mask.getLsbD l = false) ∧
      (∀ l ∈ lanesOf act, laneTask s.g l = 0 → (readK t.g 1).getLsbD l = (readK s.g 1).getLsbD l ∧
        ∃ y ∈ splits t, y.mask.getLsbD l = true ∧ y.lpc = x.lpc ∧ y.state = .stopped) ∧
      ∀ l ∈ lanesOf (x.mask &&& ~~~act), ∃ y ∈ splits t, y.mask.getLsbD l = true ∧ y.lpc = next ∧ y.state = .ready)

/-! ### The matrix array and tiles (09 R170 to R184) -/

/-- R177 and R178, with no CPYB outstanding: MMA takes the array with, for each active row and every column, the
accumulator and the products of its format; MMA_COMPLETE writes the words and the tag and frees the array. For the
integer format a word is the accumulator plus the sum of the 128 signed products, wrapped. -/
def Obligations.MatrixMultiplyResults : Prop :=
  (∀ (f : LaneWord) (s : State), QuietSplit s → 0x300 ≤ f.d.toNat →
    (∀ o ∈ s.ops, ∀ a b n, o.kind ≠ .cpyb a b n) → (coreOf s s.g.core).poison = [] →
    let act := activeLanes s f.pred
    let fmt := (f.mod.extractLsb' 0 3).toNat
    let td := f.d.toNat - 0x300
    let base := 256 * f.imm.toNat
    let c := coreOf s s.g.core
    let tile := bTile c fmt base
    let a (i r : Nat) : W32 := readOpnd s (f.a.toNat + r) i
    let b (j k : Nat) : W32 := word32 ((List.range 4).map (fun n => mapGet 0 (base + 128 * j + 4 * k + n) c.bstore))
    let s8 (w : W32) (n : Nat) : Int := (w.extractLsb' (8 * n) 8).toInt
    CanIssue s act (mmaReads f) [dst f.d 1] → ∃ t fl m, exec (.mma f) s = .next t ∧ SameMemory s t ∧
      t.g = (retired s f.form.length fl).g ∧ (coreOf t s.g.core).mma = some m ∧ m.gid = s.g.gid ∧ m.tile = td ∧
      m.tag = (if fmt = 3 then 1 else 3) ∧ m.writes.map (·.1) = (lanesOf act).flatMap (fun i => (List.range 128).map (i * 128 + ·)) ∧
      ∀ i j v, i < 32 → j < 128 → (i * 128 + j, v) ∈ m.writes →
        v = (mmaElem fmt (f.mod.getLsbD 3) (bandWord s f) (readT s.g td i j) j (aRow s f i) (bColumn tile j)
          (if fmt = 0 then aScales s f i else []) (if fmt = 0 then bScales tile j else [])).1 ∧
        (fmt = 3 → f.mod.getLsbD 3 = false → v = readT s.g td i j + BitVec.ofInt 32
          (((List.range 32).flatMap (fun r => (List.range 4).map (fun n => s8 (a i r) n * s8 (b j r) n))).sum))) ∧
  ∀ (s : State) (m : MmaRun) (g : Group), (coreOf s s.ev.core).mma = some m → groupOf? s m.gid = some g →
    (m.writes.map (·.1)).Nodup → (∀ w ∈ m.writes, w.1 < 4096) →
    ∃ t h, exec .mmaComplete s = .next t ∧ SameMemory s t ∧ (coreOf t s.ev.core).mma = none ∧ groupOf? t m.gid = some h ∧
      tagT h m.tile = m.tag ∧ (∀ w ∈ m.writes, readT h m.tile (w.1 / 128) (w.1 % 128) = w.2) ∧
      ∀ k i j, i < 32 → j < 128 → (k ≠ m.tile ∨ ∀ w ∈ m.writes, w.1 ≠ i * 128 + j) → readT h k i j = readT g k i j

/-- R180 to R183: TZERO, TWR, TSCL and TLD write their rows of one tile, and set its tag, but for TLD; TRD gives each
active lane its word of the tile with the tile's tag; TST stores the rows of the split's lanes, each word on its way.
Nothing else of the group changes but the lane PC and the flags: TSCL raises those of its products, the others
none. -/
def Obligations.TileInstructionResults : Prop :=
  ∀ (f : LaneWord) (s : State) (at' : Nat → List Access), QuietSplit s →
    let act := activeLanes s f.pred
    let whole := activeLanes s 0
    let len := f.form.length
    let td := f.d.toNat - 0x300
    let ta := f.a.toNat - 0x300
    let col (i : Nat) : Nat := (readOpnd s f.b.toNat i).toNat % 128
    let named : BitVec 4 := if f.mod.getLsbD 0 then 1 else 3
    let rm := Rm.ofCode (f.mod.extractLsb' 0 3).toNat ((laneEnv s.g).fmode.extractLsb' 0 2)
    let product (i j : Nat) : W32 × BitVec 8 := f32Mul rm false (readT s.g ta i j) (readOpnd s f.b.toNat i)
    let writes (i : Instr) (rows : W32) (v : Nat → Nat → W32) (tag : BitVec 4) (fl : BitVec 8) : Prop :=
      ∃ t, exec i s = .next t ∧ SameMemory s t ∧ t.g = (retired { s with
          g := { s.g with tregs := t.g.tregs, ttags := t.g.ttags } } len fl).g ∧
        (∀ k i j, i < 32 → j < 128 → readT t.g k i j = if k = td ∧ rows.getLsbD i = true then v i j else readT s.g k i j) ∧
        ∀ k, tagT t.g k = if k = td then tag else tagT s.g k
    let word (ac : List Access) (j : Nat) : W32 :=
      word32 ((((ac.flatMap (fun x => readBytes s x.pa (64 - x.pa % 64))).drop (4 * j))).take 4)
    let rows : List Opnd := [src 0 f.a acceptAddr, src 1 f.b acceptAddr]
    let plain (need : Need) : Prop := f.mod.getLsbD 0 = false → s.stores = [] ∧ s.poison = [] ∧ ∀ l ∈ lanesOf whole,
      globalRow s need f l = .ok (at' l) ∧ ∀ x ∈ at' l, x.peer = false ∧ oneCopy s s.g.ctx x = true ∧
        isChecked s x = false ∧ lineOf (coreOf s s.g.core) x.pa = none
    (CanIssue s whole [] [dst f.d 1] → writes (.tzero f) whole (fun _ _ => 0) named 0) ∧
    (CanIssue s act [src 0 f.a .any, src 1 f.b .any] [dst f.d 1] →
      writes (.twr f) act (fun i j => if j = col i then readOpnd s f.a.toNat i else readT s.g td i j) named 0) ∧
    (CanIssue s act [tileOpnd 0 f.a acceptF32, src 1 f.b acceptF32] [dst f.d 1] →
      writes (.tscl f) act (fun i j => (product i j).1) 3
        (((lanesOf act).flatMap (fun i => (List.range 128).map (fun j => (product i j).2))).foldl (fun x y => x ||| y) 0)) ∧
    (CanIssue s act [tileOpnd 0 f.a .any, src 1 f.b .any] [dst f.d 1] → exec (.trd f) s = .next (retired (landResult s f.la
      (keyWrites s.g f.d.toNat ((lanesOf act).map (fun i => (i, readT s.g ta i (col i)))) (fun _ => tagT s.g ta))) len 0)) ∧
    (f.mod.getLsbD 0 = false → plain .read → CanIssue s whole rows [dst f.d 1] →
      writes (.tld f) whole (fun i j => word (at' i) j) (tagT s.g td) 0) ∧
    (f.mod.getLsbD 0 = true → (ctxOf s s.g.ctx).spchk = false → ∀ p : Nat → List (Nat × Nat × Nat),
      (∀ l ∈ lanesOf whole, spadRow s f l = .ok (p l)) →
      (CanIssue s whole rows [dst f.d 1] → writes (.tld f) whole (fun i j =>
        bankWord s ((p i).getD j (0, 0, 0)).1 ((p i).getD j (0, 0, 0)).2.1 ((p i).getD j (0, 0, 0)).2.2) (tagT s.g td) 0) ∧
      (CanIssue s whole (rows ++ [tileOpnd 3 f.d .any]) [] → exec (.tst f) s = .next (retired
        ((lanesOf whole).foldl (fun t l => (p l).zipIdx.foldl (fun t w =>
          setBankWord t w.1.1 w.1.2.1 w.1.2.2 (readT s.g td l w.2)) t) s) len 0))) ∧
    (f.mod.getLsbD 0 = false → plain .write → CanIssue s whole (rows ++ [tileOpnd 3 f.d .any]) [] → whole ≠ 0 →
      ordStr s s.g.ctx = false → s.g.unacked < 255 → exec (.tst f) s = .next (retired { s with
        stores := [newStore s true ((lanesOf whole).flatMap (fun l => ((at' l).flatMap (fun x =>
          (List.range 16).map (fun k => x.pa + 4 * k))).zipIdx.map (fun w =>
            .write w.1 (bytes32 (readT s.g td l w.2)) false l))) (lanePc s) 0]
        g := { s.g with unacked := s.g.unacked + 1 } } len 0))

/-! ### Geometry (10 R185 to R210) -/

/-- R194: an edge passes when E > 0, or when E = 0 and the first nonzero component of G is positive; E and G are those
of the rule. The reversed edge has −E and −G and passes exactly when the edge does not, unless both are zero: then
neither passes. R197, on the facts of its proof: an edge's verdict is the same after the frame moves into a child, by an
offset, a scale of 2^s and n whole steps along the ray. -/
def Obligations.RayEdgeVerdicts : Prop :=
  ∀ (o d va vb : V3),
    let verdict (o p q : V3) : Int × V3 := rayEdge d (p.sub o) (q.sub o) p q
    let e := d.dot ((va.sub o).cross (vb.sub o))
    let g := (vb.sub va).cross d
    let positive : Prop := 0 < g.x ∨ (g.x = 0 ∧ (0 < g.y ∨ (g.y = 0 ∧ 0 < g.z)))
    verdict o va vb = (e, g) ∧
    (edgePasses (verdict o va vb) = true ↔ 0 < e ∨ (e = 0 ∧ positive)) ∧
    verdict o vb va = (-e, ⟨-g.x, -g.y, -g.z⟩) ∧
    (¬(e = 0 ∧ g = ⟨0, 0, 0⟩) → (edgePasses (verdict o vb va) = true ↔ edgePasses (verdict o va vb) = false)) ∧
    (e = 0 ∧ g = ⟨0, 0, 0⟩ → edgePasses (verdict o va vb) = false ∧ edgePasses (verdict o vb va) = false) ∧
    ∀ (off : V3) (s : Nat) (n : Int),
      let child (v : V3) : V3 := (v.sub off).scale ((2 ^ s : Nat) : Int)
      edgePasses (verdict ((child o).add (d.scale n)) (child va) (child vb)) = edgePasses (verdict o va vb)

/-- R193, R198 to R203, R205, where every record read is a plain access: the words that each active lane's records
give, in consecutive result registers with their tags, in flight for GBOX and GTRI as their lookahead says. GDESKEW
raises the flags of its operations. The model's choices: the registers of one result land together (log 15), a
childless box's CHILDREN is not checked (log 54), GDESKEW's b takes the tags of an offset (log 56), a ray in the plane
that meets no face is a MISS (log 57). -/
def Obligations.GeometryResults : Prop :=
  ∀ (f : LaneWord) (s : State), QuietSplit s →
    let act := activeLanes s f.pred
    let ls := lanesOf act
    let has (va : W64) (ws : List W32) : Prop := ∀ i, i < ws.length → ∃ a,
      PlainAccess s [0] .read 4 (va + BitVec.ofNat 64 (4 * i)) a ∧ ws.getD i 0 = word32 (readBytes s a.pa 4)
    let regs (code : BitVec 11) (n l : Nat) : List W32 := (List.range n).map (fun i => readOpnd s (code.toNat + i) l)
    let gives (i : Instr) (long : Bool) (tags : List (BitVec 4)) (rows : Nat → List W32) (fl : BitVec 8) : Prop :=
      let ws := tags.zipIdx.map (fun t => (f.d.toNat + t.2, t.1, ls.map (fun l => (l, (rows l).getD t.2 0))))
      ∃ t, exec i s = .next t ∧ SameMemory s t ∧ t.stores = s.stores ∧
        t.g = (retired (if long then landResult s f.la ws else { s with g := writeKeys s.g ws }) f.form.length fl).g
    let boxed (va : W64) (w : List W32) : Prop := va.toNat % 64 = 0 ∧ vaOk va = true ∧ w.length = 11 ∧ has va w
    let pointer (w : List W32) (i : Nat) : W64 := w.getD (i + 1) 0 ++ w.getD i 0
    let kidsOf (w : List W32) (kids : List (List W32)) : Prop :=
      kids.length = childCount (w.getD 0 0) ∧ kids.length ≤ 8 ∧ (kids = [] ∨ pointerOk (pointer w 4) 64 = true) ∧
      ∀ i, i < kids.length → (kids.getD i []).length = 3 ∧ childCount ((kids.getD i []).getD 0 0) ≤ 8 ∧
        has (pointer w 4 + BitVec.ofNat 64 (64 * i)) (kids.getD i [])
    -- the triangle of a primitive reference: its box, its record and its three vertices
    let triangle (code : BitVec 11) (l : Nat) (w t : List W32) (v : Nat → W32) : Prop :=
      let j := (readOpnd s (code.toNat + 2) l).toNat
      let corner (k : Nat) : Nat := ((t.getD (k / 2) 0).toNat / 65536 ^ (k % 2)) % 65536
      boxed (readOpnd s (code.toNat + 1) l ++ readOpnd s code.toNat l) w ∧ childCount (w.getD 0 0) ≤ 8 ∧
      pointerOk (pointer w 8) 8 = true ∧ pointerOk (pointer w 6) 4 = true ∧ j < (w.getD 10 0).toNat / 65536 ∧
      t.length = 2 ∧ has (pointer w 8 + BitVec.ofNat 64 (8 * j)) t ∧ ∀ k, k < 3 →
        corner k < (w.getD 10 0).toNat % 65536 ∧ has (pointer w 6 + BitVec.ofNat 64 (4 * corner k)) [v k]
    (CanIssue s act [srcs 0 f.a 3 acceptF32] [dst f.d 2] →
      gives (.gqnt f) false [12, 2] (fun l => quantWords ((regs f.a 3 l).getD 0 0) ((regs f.a 3 l).getD 1 0) ((regs f.a 3 l).getD 2 0)) 0) ∧
    (CanIssue s act ([srcs 0 f.a 3 acceptF32, ⟨0, f.a.toNat + 3, 3, acceptInt⟩] ++ [srcs 1 f.b 3 acceptF32, ⟨1, f.b.toNat + 3, 3, acceptInt⟩])
      [dst f.d 6] → gives (.ghit f) false [3, 3, 3, 2, 2, 2] (fun l => betterHit (regs f.a 6 l) (regs f.b 6 l)) 0) ∧
    (CanIssue s act [srcs 0 f.a 16 acceptGeo, addrOpnd 1 f.b] [dst f.d 17] → ∀ c : Nat → List W32,
      (∀ l ∈ ls, (laneBase s f.b.toNat l).toNat % 64 = 0 ∧ vaOk (laneBase s f.b.toNat l) = true ∧ (c l).length = 3 ∧
        has (laneBase s f.b.toNat l) (c l)) →
      gives (.gdown f) false (List.replicate 16 12 ++ [2]) (fun l => downWords (regs f.a 16 l) (c l)) 0) ∧
    (CanIssue s act [srcs 0 f.a 16 acceptGeo, addrOpnd 1 f.b] [dst f.d 4] → ∀ (w : Nat → List W32) (kids : Nat → List (List W32)),
      (∀ l ∈ ls, boxed (laneBase s f.b.toNat l) (w l) ∧ kidsOf (w l) (kids l)) →
      gives (.gbox f) true [2, 2, 3, 2] (fun l => let r := readRay false (regs f.a 16 l)
        if r.status = 0 then boxWords r (kids l) else [0, 0, 0x7F800000, r.status]) 0) ∧
    (∀ (w t : Nat → List W32) (v : Nat → Nat → W32),
      (CanIssue s act (srcs 0 f.a 16 acceptGeo :: refOpnds 1 f.b) [dst f.d 6] → (∀ l ∈ ls, triangle f.b l (w l) (t l) (v l)) →
        gives (.gtri f) true [3, 3, 3, 2, 2, 2] (fun l => let r := readRay false (regs f.a 16 l)
          let x := if r.status = 0 then triWords r (pointOf (v l 0)) (pointOf (v l 1)) (pointOf (v l 2)) else (0x7F800000, 0, 0, r.status)
          [x.1, x.2.1, x.2.2.1, (w l).getD 3 0, readOpnd s (f.b.toNat + 2) l, x.2.2.2]) 0) ∧
      (CanIssue s act ([srcs 0 f.a 16 acceptGeo, srcs 1 f.b 9 acceptGeo] ++ refOpnds 2 f.c) [dst f.d 3] →
        (∀ l ∈ ls, triangle f.c l (w l) (t l) (v l)) →
        gives (.gtile f) false [2, 2, 2] (fun l => let r := readRay true (regs f.a 16 l)
          if r.status = 0 ∧ (regs f.b 9 l).all (fun x => extended x 23) then
            tileWords r (regs f.b 9 l) (pointOf (v l 0)) (pointOf (v l 1)) (pointOf (v l 2))
          else [0, 0, if r.status = 2 then 2 else 4]) 0)) ∧
    (CanIssue s act [srcs 0 f.a 3 acceptF32, src 1 f.b acceptAddr] [dst f.d 3] → (ctxOf s s.g.ctx).spchk = false →
      ∀ p : Nat → Nat × Nat × Nat, (∀ l ∈ ls, deskewPlace s (readOpnd s f.b.toNat l).toNat = .ok (p l)) →
      let m (l : Nat) : List W32 := (List.range 7).map (fun i => bankWord s (p l).1 (p l).2.1 ((p l).2.2 + 4 * i))
      let run (l : Nat) := (deskew ((m l).take 4) ((m l).drop 4) (regs f.a 3 l)).run
      gives (.gdeskew f) false [3, 3, 3] (fun l => (run l 0).1) (ls.foldl (fun fl l => (run l fl).2) 0))

/-- R203 and R204 in one active lane, every record read and word stored a plain access. GUPD stores the moved vertex,
with its old flags byte, and widens the bounds by atomics when it lies outside them; INEXACT and ESCAPE write
nothing. GREFIT stores the two bound words of a box of vertices. -/
def Obligations.BoxUpdateResults : Prop :=
  ∀ (f : LaneWord) (s : State) (l : Nat) (w : List W32), QuietSplit s → lanesOf (activeLanes s f.pred) = [l] →
    ordStr s s.g.ctx = false → s.g.unacked < 255 →
    let act := activeLanes s f.pred
    let has (va : W64) (ws : List W32) : Prop := ∀ i, i < ws.length → ∃ a,
      PlainAccess s [0] .read 4 (va + BitVec.ofNat 64 (4 * i)) a ∧ ws.getD i 0 = word32 (readBytes s a.pa 4)
    let takes (va : W64) (pa : Nat) : Prop := ∃ a, PlainAccess s [0] .write 4 va a ∧ a.pa = pa
    let boxed (va : W64) : Prop := va.toNat % 64 = 0 ∧ vaOk va = true ∧ w.length = 11 ∧ has va w
    let verts : W64 := w.getD 7 0 ++ w.getD 6 0
    let nvert := (w.getD 10 0).toNat % 65536
    let e := (w.getD 1 0).toNat / 2 ^ 24
    let lo := pointOf (w.getD 1 0)
    let hi := pointOf (w.getD 2 0)
    let bytes (v : V3) : W32 := BitVec.ofNat 32 (v.x.toNat + v.y.toNat * 256 + v.z.toNat * 65536)
    let byte (v : Int) : Prop := 0 ≤ v ∧ v ≤ 255
    let gives (i : Instr) (st : W32) (words : List PendWord) : Prop := ∃ t, exec i s = .next t ∧ SameMemory s t ∧
      t.stores = (if words = [] then [] else [newStore s true words (lanePc s) 0]) ∧
      t.g = (retired { s with g := { writeKeys s.g [(f.d.toNat, 2, [(l, st)])] with
        unacked := if words = [] then s.g.unacked else s.g.unacked + 1 } } f.form.length 0).g
    (w.getD 0 0).toNat / 2 ^ 28 ≤ 8 → e ≤ 47 → pointerOk verts 4 = true →
    (let va : W64 := readOpnd s (f.a.toNat + 1) l ++ readOpnd s f.a.toNat l
     let i := (readOpnd s (f.a.toNat + 2) l).toNat
     let k := (readOpnd s f.c.toNat l).toNat
     let delta (n : Nat) : Int := (readOpnd s (f.b.toNat + n) l).toInt * 2 ^ k
     CanIssue s act (refOpnds 0 f.a ++ [srcs 1 f.b 3 acceptInt, src 2 f.c acceptInt]) [dst f.d 1] → boxed va → i < nvert →
     ∀ (old : W32) (pv pl ph : Nat), has (verts + BitVec.ofNat 64 (4 * i)) [old] → takes (verts + BitVec.ofNat 64 (4 * i)) pv →
     takes (va + 4) pl → takes (va + 8) ph →
     let new : V3 := ⟨(pointOf old).x + delta 0 / 2 ^ e, (pointOf old).y + delta 1 / 2 ^ e, (pointOf old).z + delta 2 / 2 ^ e⟩
     let exact := delta 0 % 2 ^ e = 0 ∧ delta 1 % 2 ^ e = 0 ∧ delta 2 % 2 ^ e = 0
     let fits := byte new.x ∧ byte new.y ∧ byte new.z
     let within := lo.x ≤ new.x ∧ new.x ≤ hi.x ∧ lo.y ≤ new.y ∧ new.y ≤ hi.y ∧ lo.z ≤ new.z ∧ new.z ≤ hi.z
     let word : W32 := old &&& 0xFF000000 ||| bytes new
     (47 < k → gives (.gupd f) 6 []) ∧ (k ≤ 47 → ¬exact → gives (.gupd f) 7 []) ∧
     (k ≤ 47 → exact → ¬fits → gives (.gupd f) 8 []) ∧
     (k ≤ 47 → exact → fits → within → gives (.gupd f) 0 [.write pv (bytes32 word) false l]) ∧
     (k ≤ 47 → exact → fits → ¬within → gives (.gupd f) 0x100 [.write pv (bytes32 word) false l, .atomic pl 11 word false l, .atomic ph 12 word false l])) ∧
    (let va := laneBase s f.a.toNat l
     CanIssue s act [baseOpnd f.a] [dst f.d 1] → boxed va → childCount (w.getD 0 0) = 0 → ∀ (vs : List W32) (pl ph : Nat),
     vs.length = nvert → 0 < nvert → has verts vs → takes (va + 4) pl → takes (va + 8) ph →
     ∃ a b : V3, (∀ p : V3 → Int, p ∈ [V3.x, V3.y, V3.z] → (∀ v ∈ vs, p a ≤ p (pointOf v) ∧ p (pointOf v) ≤ p b) ∧
         (∃ v ∈ vs, p a = p (pointOf v)) ∧ ∃ v ∈ vs, p b = p (pointOf v)) ∧
       let grows := a.x < lo.x ∨ a.y < lo.y ∨ a.z < lo.z ∨ hi.x < b.x ∨ hi.y < b.y ∨ hi.z < b.z
       ∃ st, (st = 0x100 ↔ grows) ∧ (st = 0 ∨ st = 0x100) ∧ gives (.grefit f) st
         [.write pl (bytes32 (w.getD 1 0 &&& 0xFF000000 ||| bytes a)) false l,
          .write ph (bytes32 (w.getD 2 0 &&& 0xFF000000 ||| bytes b)) false l])

/-- R59: a legal pair does in one step what its two halves do as legal single words, each reading the registers as
they were: the first half's destination takes its values, the second's its own, the flags of both are raised and the
lane PC moves on by the length of the pair word. R60: a word that is no instruction takes trap 0x01. That FMASK is
then the split's mask is the model's choice (log 26). -/
def Obligations.PairsActAsTheirHalves : Prop :=
  ∀ (raw : Bool) (h0 h1 : PairHalf) (s : State), QuietSplit s →
    let f0 := halfSingle h0
    let f1 := halfSingle h1
    (∀ op f e, pairElem op f = some e → laneLegal op f = true → exec (laneInstr op f) s = execElem e f s) ∧
    (pairLegal h0 h1 = true → ∃ e0 e1, pairElem h0.op.toNat f0 = some e0 ∧ pairElem h1.op.toNat f1 = some e1 ∧
      let act := activeLanes s 0
      let r0 := e0.at f0 s
      let r1 := e1.at f1 s
      (CanIssue s act (e0.reads f0 ++ e1.reads f1) [dst f0.d 1, dst f1.d 1] → ∃ t,
        exec (.pairWord raw h0 h1) s = .next t ∧ SameMemory s t ∧
        (∀ r l, l < 32 → readV t.g r l = if act.getLsbD l = true ∧ r = f1.d.toNat then (r1 l).1
          else if act.getLsbD l = true ∧ r = f0.d.toNat then (r0 l).1 else readV s.g r l) ∧
        t.g.flags = s.g.flags ||| ((inLanes act r0).2 ||| (inLanes act r1).2) ∧
        (curSplit t).lpc = (curSplit s).lpc + (if raw then 13 else 12))) ∧
    exec .illegalWord s = .next (takeLaneTrap s { laneTrap s 0x01 with fmask := (curSplit s).mask } (curSplit s).lpc (curSplit s).mask)

/-! ### Steps that no instruction word starts (01, 12, 13, 17, 18, 22, 24) -/

/-- Landings, markers, replicas, stamps, links and translations: each step's effect where its condition holds (01 R20,
R25; 12 R228; 13 R240, R241; 17 R261; 18 R286 to R288; 22 R308 to R311). R21 and R225, STORE_ACK: the only word of
the oldest store reaches its point of coherence: exactly its bytes of memory take its data, and the store is
acknowledged. -/
def Obligations.MemoryAndFabricSteps : Prop :=
  (∀ s : State,
    let goes (i : Instr) (p : State → Prop) : Prop := ∃ t, exec i s = .next t ∧ p t
    let core (t : State) : Machine.Core := coreOf t s.ev.core
    goes .blazeMarker (fun t => ∀ g, groupOf? s s.ev.gid = some g → ∀ st ∈ t.stores, st.gid = s.ev.gid →
      ∀ w ∈ st.words, wordLink t st w = s.ev.link → w.homedAt s.device.toNat s.ev.device s.ev.die (dieOf g.core) = false) ∧
    (∀ p, s.props = [p] → s.ev.n = 0 → goes .replicaPropagate (fun t => t.props = [] ∧ SameMemory s t ∧
      ∀ k, k < p.data.length → coherentByte t p.die (p.pa + k) true = coherentByte t p.die (p.pa + k) false)) ∧
    ((core s).stamp = 255 → goes .coreStampWrap (fun t => SameMemory s t ∧ (core t).lines = [] ∧ (core t).stamp = 0 ∧
      (s.g.core = s.ev.core → s.g.run = .resident → t.g.stamp = 0))) ∧
    exec .flitRetransmit s = .next s ∧
    goes .linkFailure (fun t => s.ev.link ∈ t.links ∧ t = { s with links := t.links } ∧
      ∀ st ∈ t.stores, ∀ w ∈ st.words, (wordLink s st w ≠ s.ev.link → wordLink t st w = wordLink s st w) ∧
        ((∃ l ∈ linksTo w.isPeer, l ∉ t.links) → wordLink t st w ∉ t.links)) ∧
    goes .fabricTimeout (fun t => s.ev.device ∈ t.unreach ∧ SameMemory s t ∧ (s.ev.device ∉ s.unreach → ∀ x ∈ s.ctxs,
      namesDevice s x s.ev.device = true → ⟨x.id, .fabric, 0, BitVec.ofNat 64 s.ev.device⟩ ∈ t.errors)) ∧
    (∀ l, coreExists s.ev.core = true → vaOk s.ev.va = true → walk s (ctxOf s s.ev.ctx) s.ev.va = .ok l →
      goes .pageWalk (fun t => l ∈ (core t).tlb ∧ (dieOf s.ev.core, l) ∈ t.dtlb ∧ SameMemory s t ∧ t.g = s.g ∧
        ∀ x, (core s).scheds[s.ev.n]? = some x → ∃ y, (core t).scheds[s.ev.n]? = some y ∧ l ∈ y.tlb)) ∧
    (s.g.gid = s.ev.gid → s.g.run = .resident →
      (s.ev.trap.lane = false → exec .trapTake s = .next (takeScalarTrap s s.ev.trap s.g.spc)) ∧
      (s.ev.trap.lane = true → exec .trapTake s = .next (takeLaneTrap { s with ent := s.ev.n } s.ev.trap
        (splitAt s.g s.ev.n).lpc (splitAt s.g s.ev.n).mask))) ∧
    (s.g.gid = s.ev.gid → s.g.run = .failing → s.g.counters = [] → goes .groupEndInError (fun t => t.g.run = .failed ∧
      t.g.blocks = 0 ∧ t.g.tiles = 0 ∧ (∀ k, readH t.g k = .free) ∧ (∀ st ∈ t.stores, st.gid ≠ s.g.gid) ∧
      ⟨s.g.gid, false, 0, 0⟩ ∈ t.ends)) ∧
    ∀ g, groupOf? s s.ev.gid = some g → g.gid = s.ev.gid →
      let group (t : State) (p : Group → Prop) : Prop := ∃ h, groupOf? t s.ev.gid = some h ∧ p h
      let c := s.ev.cls
      let e := (ctxOf s g.ctx).evctl.getD c 0
      let n := mapGet EventCount.zero c g.events
      (∀ r tag vals m left bad, s.ev.n = 0 → r < 512 → (∀ p ∈ vals, p.1 < 32) → (vals.map (·.1)).Nodup →
        g.landings = [⟨[(r, tag, vals)], m, left, false, false, bad⟩] → goes .loadLanding (fun t => SameMemory s t ∧
          group t (fun h => tagV h r = tag ∧
            ∀ l, l < 32 → readV h r l = ((vals.find? (fun p => p.1 == l)).map (·.2)).getD (readV g r l)))) ∧
      (s.ev.n = 0 → g.isSuspended = true → goes .translationRestart (fun t => group t (fun h =>
        h.mapping = s.ev.mapped ∧ h.declined = !s.ev.mapped))) ∧
      (c < 8 → evWindow e ≠ 0 → n.isOpen = true → evThresh e < n.count → goes .eventThreshold (fun t =>
        t.ints = s.ints ++ (if 2 ≤ evAction e then [(g.ctx, c)] else []) ∧ group t (fun h =>
          mapGet EventCount.zero c h.events = EventCount.zero ∧
          h.due = g.due ||| (if evAction e % 2 = 1 ∧ g.depth = 0 then 1 <<< c else 0)))) ∧
      (n.isOpen = true → n.start + evWindow e ≤ s.clock.toNat → goes .eventWindowClose (fun t => SameMemory s t ∧
        group t (fun h => mapGet EventCount.zero c h.events = EventCount.zero)))) ∧
  (∀ (s : State) (st : PendStore) (rest : List PendStore) (pa lane : Nat) (data : List Byte),
    s.stores = st :: rest → st.words = [.write pa data false lane] → s.ev.n = 0 → s.ev.req = 0 →
    ∃ t, exec .storeAck s = .next t ∧ MemoryTakes s t pa data ∧ t.stores = rest ∧
      ∀ g, groupOf? s st.gid = some g → ∃ h, groupOf? t st.gid = some h ∧ h.unacked = g.unacked - 1)

/-- R106 and R109: ENGINE_COMPLETION of the oldest operation of its class performs what is left of it, here one unit
of a copy whose turn has come, lowers the class counter and leaves the handle DONE or in ERROR, or the class latch
set. R304 and R305: each transform operation, on a source read at its ring's die, leaves its output at DST as far as
its capacity, and its request ends with a code and a length; LZ4C's output decodes to its source; a request that has
ended is posted. R306 and R307: a collective whose participants agree delivers its result at DST and its operation
ends. The model's choices: SHAKE256 and the LZ4 block format (log 9, from outside the spec), source and output of an
operation in one step or unit by unit (log 59), the order of REPACK's arrays and the last half byte (log 61), what
agrees in a collective and what its members read (log 62), a cancelled operation's end and the order of completions
(log 64). -/
def Obligations.EngineSteps : Prop :=
  ∀ (s : State) (o : EngineOp), s.ops.find? (fun p => p.id == s.ev.n) = some o → o.gid = s.g.gid → NoEvents s →
    s.poison = [] → s.unreach = [] →
    (oldestOp s o = true → (∀ r a b, o.kind ≠ .xkick r a b) →
      let ends (memory : State → Prop) : Prop := ∃ t, exec .engineCompletion s = .next t ∧ memory t ∧
        t.ops = s.ops.filter (fun p => p.id != o.id) ∧ counterOf t.g o.cls = counterOf s.g o.cls - 1 ∧
        readH t.g o.handle = (if o.handle = 0 then .free else if o.err = 0 then .done else
          .error o.err (BitVec.ofNat 2 o.cls) o.errAddr) ∧
        (o.handle = 0 → o.err ≠ 0 → (latchOf s.g o.cls).1 = 0 → latchOf t.g o.cls = (o.err, o.errAddr))
      (o.finished = true → ends (SameMemory s)) ∧
      (∀ d r n bs a, o.kind = .cpy d r n → o.finished = false → o.cancelled = false → o.done = 0 → o.err = 0 →
        o.held = [] → o.ahead = [] → copyTurn s o = true → 0 < n → n ≤ 64 → vaOk d = true → vaOk r = true → readGlobal s r n = .ok bs →
        checkRange s s.g.ctx s.g.core [0] .write d n = .ok [a] → a.peer = false → engineLag s a = false → a.pa % 64 + n ≤ 64 →
        ends (fun t => MemoryTakes s t a.pa bs))) ∧
    (∀ x, reqOf? s s.ev.n s.ev.req = some x → (∀ y ∈ s.xreqs, y.block ≠ []) → o.cancelled = false → x.units = 0 →
      x.read = [] → x.wrote = [] →
      let b := parseRequest x.block
      let ended (t : State) (err : BitVec 8) (n : Nat) : Prop :=
        ∃ z, reqOf? t s.ev.n s.ev.req = some z ∧ z.performed = true ∧ z.err = err ∧ z.outlen = n
      let runs (i : Instr) (op : Nat) (out : List Byte) (err : BitVec 8) : Prop :=
        b.op = op → out.length ≤ b.cap → ∀ w, writeUnits b.dst out (unitsOf 0 out.length) ⟨s, 0, none, none⟩ = w →
          w.fault = none → ∃ t, exec i s = .next t ∧ SameMemory w.s t ∧ ended t err out.length
      (x.performed = false → b.ok = true → (b.phys = true → x.priv = true) →
        (∀ bs, readOn s (ringDie s x.ctx x.ring) b.src b.srcBytes = .ok bs →
          runs .lz4c 1 (lz4Block bs) 0 ∧ lz4Decode ((lz4Block bs).length + 1) (lz4Block bs) [] = (bs, true) ∧
          runs .lz4d 2 (lz4Decode (bs.length + 1) bs []).1 (if (lz4Decode (bs.length + 1) bs []).2 then 0 else 0x06) ∧
          runs .repack 3 (repack b.len b.aux bs).1 0 ∧
          runs .convert 4 (convertAll b.aux b.len (choose s 15 16) bs).1 0 ∧
          runs .digest 7 (shake256 bs b.cap) 0) ∧
        (b.set = false → runs .fill 5 ((List.range b.len).map (fun j => b.value.extractLsb' (8 * (j % 8)) 8)) 0) ∧
        (b.op = 5 → b.set = true → physRange b.dst.toNat b.len = true → b.len ≤ b.cap → s.stores = [] → ∃ t, exec .fill s = .next t ∧
          MemoryTakes s t b.dst.toNat ((List.range b.len).map (fun j => b.value.extractLsb' (8 * (j % 8)) 8)) ∧ ended t 0 b.len) ∧
        (b.op = 6 → physRange b.dst.toNat b.len = true → s.stores = [] → ∃ t, exec .flush s = .next t ∧ SameMemory s t ∧ ended t 0 0)) ∧
      (x.performed = true → x.posted = false → ∃ t, exec .transformRequestComplete s = .next t ∧
        (b.fut = 0 → ∀ z ∈ t.xreqs, z.is s.ev.n s.ev.req = true → z.posted = true) ∧
        ∀ a, b.fut ≠ 0 → checkAccess s s.g.ctx s.g.core [3] .write 8 b.fut = .ok a → a.peer = false → wordFull t a.pa = true)) ∧
    ∀ desc bs rank mine data, o.kind = .coll desc → o.finished = false → o.cancelled = false → o.ahead = [] →
      o.held = [] → o.block = [] → readGlobal s desc 64 = .ok bs →
      let d := parseColl bs
      let devices := commOf s d.comm
      let p := devices.length
      devices[rank]? = some s.device.toNat → devices.Nodup → d.ok p = true → readGlobal s d.src (d.input p) = .ok mine →
      (∀ r, r < p → r ≠ rank → ∃ x ∈ s.ev.parts, x.rank = r) → (∀ x ∈ s.ev.parts, (parseColl x.desc).shared = d.shared) →
      collData s.ev.parts rank p mine = some data → let out := collResult { s with frees := o.seed } d rank data
      ∀ w, writeUnits d.dst out.1 (unitsOf 0 out.1.length) ⟨s, 0, none, none⟩ = w → w.fault = none →
      let performs (i : Instr) : Prop := ∃ t, exec i s = .next t ∧ SameMemory w.s t ∧
        ∀ q ∈ t.ops, q.id = o.id → q.finished = true
      (d.kind = 0 → performs .allreduce) ∧ (d.kind = 1 → performs .reducescatter) ∧
      (d.kind = 2 → performs .allgather ∧ out = (data.flatten, 0)) ∧
      (d.kind = 3 → performs .broadcast ∧ out = (data.getD d.root [], 0))

/-- Ends and their reports, bins and the pool, admission, residency, parks, aging and time slices: each step's effect
where its condition holds (06 R101; 18 R271 to R284; 01 R26 to R32). -/
def Obligations.SchedulingSteps : Prop :=
  ∀ s : State,
    let goes (i : Instr) (p : State → Prop) : Prop := ∃ t, exec i s = .next t ∧ p t
    let core := s.ev.core
    let b := binOf s core s.ev.bin
    let full (ctx : Nat) (entry : W64) : Prop := ∃ d, descriptorFor s ctx core entry = some d ∧ d.kind = 1 ∧
      canAdmit s ctx core d = true ∧ tablePending s ctx core = false ∧ (ctxOf s ctx).halted = false
    let launched (recs : List TaskRecord) (t : State) : Prop := t.teams.length = s.teams.length + 1 ∧
      ∃ x ∈ t.grids, x.origin = .tasks recs ∧ x.home = some core
    let emptied (t : State) : Prop := (binOf t core s.ev.bin).records = []
    let team (t : State) (p : Team → Prop) : Prop := ∃ u, teamOf? t s.ev.team = some u ∧ p u
    (∀ h g, s.ends[s.ev.n]? = some h → groupOf? s h.gid = some g → endReady s h = true → h.wframe = 0 →
      (h.task = true → h.parent ≠ 0 → 1 < frameJoin s g.ctx h.parent → goes .taskEndReport (fun t =>
        t.ends = dropAt s.ev.n s.ends ∧
        MemoryTakes s t (poolPa (ctxOf s g.ctx) h.parent + 16) (leBytes 4 (frameJoin s g.ctx h.parent - 1)))) ∧
      (h.task = false → g.gid = h.gid → goes .taskEndReport (fun t =>
        ∃ k, groupOf? t h.gid = some k ∧ k.run = .ended ∧ k.gframe = 0))) ∧
    (s.ev.bin < (coreOf s core).bins.length → b.records ≠ [] → full b.ctx (b.records.headD TaskRecord.zero).entry →
      (b.records.length = 32 ∨ b.waiting = true → goes .taskGroupLaunch (fun t => launched b.records t ∧ emptied t)) ∧
      (b.waiting = false → binExpired s core b = true → goes .binTimerExpire (fun t => launched b.records t ∧ emptied t))) ∧
    (s.ev.bin < (coreOf s core).bins.length → b.waiting = true → binExpired s core b = true → (ctxOf? s b.ctx).isSome →
      poolRoom s b.ctx b.records.length = true → goes .binLaunchTimeout (fun t =>
        (ctxOf t b.ctx).pool.map (·.2) = (ctxOf s b.ctx).pool.map (·.2) ++ b.records ∧ emptied t)) ∧
    (∀ ctx p rest, (coreOf s core).ctx = some ctx → (∀ x ∈ (coreOf s core).bins, x.waiting = false) → (ctxOf? s ctx).isSome →
      (ctxOf s ctx).excess = [] → poolRecords s ctx = p :: rest → full ctx p.2.entry →
      let out := pullRecords (p :: rest)
      goes .poolPull (fun t => launched (out.map (·.2)) t ∧
        (ctxOf t ctx).pool = (ctxOf s ctx).pool.filter (fun q => !out.any (fun r => r.1 == q.1)))) ∧
    ((ctxOf? s s.ev.ctx).isSome → goes .poolGrow (fun t => (ctxOf t s.ev.ctx).frames = (ctxOf s s.ev.ctx).frames + s.ev.frames ∧
      (ctxOf t s.ev.ctx).records = (ctxOf s s.ev.ctx).records + s.ev.records ∧ (0 < s.ev.frames → ⟨s.ev.ctx, false⟩ ∉ t.asks) ∧
      (0 < s.ev.records → ⟨s.ev.ctx, true⟩ ∉ t.asks) ∧ ((ctxOf s s.ev.ctx).excess = [] → SameMemory s t))) ∧
    (∀ x, gridOf? s s.ev.grid = some x → x.desc.clustered = false → mayAdmit s x core = true →
      (∀ y ∈ s.grids, y.ctx = x.ctx → gridBefore y x = true → mayAdmit s y core = false) → goes .teamAdmit (fun t =>
        ∃ u, t.teams = s.teams ++ [u] ∧ u.grid = x.id ∧ u.core = core ∧ nextTeam (ctxOf s x.ctx) x core = some u.index ∧ u.state = .admitted ∧
          u.groups.length = x.desc.groups ∧ u.banks.length = x.desc.scratch)) ∧
    (∀ u, teamOf? s s.ev.team = some u →
      (firstReady s u = true → teamFits s u = true →
        (u.state = .admitted → goes .teamResidency (fun t => team t (fun v => v.state = .resident) ∧
          ∀ k ∈ u.groups, ∀ g, groupOf? s k = some g → g.gid = k → g.run = .waiting →
            ∃ h, groupOf? t k = some h ∧ h.run = .resident)) ∧
        (u.state = .parked → u.spill = [] → (∀ g ∈ slotGroups s u, badImage g = false) → goes .teamUnpark (fun t => team t (fun v => v.state = .resident)))) ∧
      (teamParkable s u = true → (∃ v ∈ s.teams, v.core = u.core ∧ v.ready = true ∧ (v.state = .admitted ∨ v.state = .parked)) →
        (∀ v ∈ s.teams, v.core = u.core → teamParkable s v = true → ¬(v.prio < u.prio) ∧
          ¬(v.prio = u.prio ∧ blockedSince s v < blockedSince s u)) →
        goes .teamPark (fun t => team t (fun v => v.state = .parked ∧ v.ready = false))) ∧
      goes .priorityAge (fun t => SameMemory s t ∧ team t (fun v => v.aged =
        if u.ready = true ∧ (u.state = .admitted ∨ u.state = .parked) then max u.aged ((s.clock.toNat - u.readyAt) / s.age)
        else u.aged))) ∧
    (∀ g, groupOf? s s.ev.gid = some g → g.gid = s.ev.gid → s.parkt < s.clock.toNat - g.since →
      (∃ c n, g.wait = some (.counter c n)) ∨ (∃ h, g.wait = some (.handle h)) →
      goes .parktExpire (fun t => SameMemory s t ∧ ∃ h, groupOf? t s.ev.gid = some h ∧ h.parkable = true)) ∧
    (servingCores s s.ev.ctx ≠ [] → (workedOut s s.ev.ctx (servingCores s s.ev.ctx) = true ∨
        ∀ k ∈ servingCores s s.ev.ctx, (coreOf s k).since + (ctxOf s s.ev.ctx).slice ≤ s.clock.toNat) →
      goes .timeSliceExpire (fun t => (∀ k ∈ servingCores s s.ev.ctx, (coreOf t k).ctx ≠ some s.ev.ctx) ∧
        ∀ u ∈ t.teams, u.ctx = s.ev.ctx → u.core ∈ servingCores s s.ev.ctx → u.state ≠ .resident))

/-- Queues, launches, contexts, code objects, accesses from outside, resets, safety limits, boot and attestation: each
step's effect where its condition holds (13 R242; 17 R332; 18 R269, R271; 23 R317; 24 R321 to R331). The model's
choices: unlisted bytes read 0 after POWER_LOSS (log 3), the number of a queue's interrupt (log 72), the order of
STATUS values (log 73), what DEVICE_RESET and POWER_LOSS keep (logs 75, 76), the order of an image's checks and the
loading of a code object (logs 77, 78). -/
def Obligations.HostAndBootSteps : Prop :=
  ∀ s : State,
    let goes (i : Instr) (p : State → Prop) : Prop := ∃ t, exec i s = .next t ∧ p t
    let queue (t : State) (n : Nat) (p : Queue → Prop) : Prop := ∃ r, queueOf? t n = some r ∧ p r
    let image := s.ev.image
    let started (i : Image) (t : State) : Prop := t.booted = .running ∧
      t.measure = Config.measureExtend s.measure (shake256 (i.header ++ i.body) 64)
    let offers (i : Instr) (src : ImageSource) : Prop :=
      (s.booted ≠ .waiting → exec i s = .next { s with replies := s.replies ++ [.image src false] }) ∧
      (s.booted = .waiting → image.complete = true →
        exec i s = .next { s with booted := .verifying, offer := some (src, image) }) ∧
      (s.booted = .waiting → image.complete = false → exec i s = .next { s with
        fail := 5, replies := s.replies ++ [.image src false] })
    let rings (i : Instr) (q : Queue) (n : Nat) : Prop :=
      (ctxOf s q.ctx).halted = false → q.stopped = false → goes i (fun t => SameMemory s t ∧ queue t q.id (fun r =>
        if q.written ≤ n ∧ n ≤ q.consumed + 2 ^ q.log2 then r = { q with written := n } else r = { q with stopped := true }))
    let state : Nat := match s.booted with
      | .rom => 0
      | .verifying => 1
      | .waiting => 2
      | .running => 3
      | .tripped => 4
    let answers (h : HostAccess) (bs : List Byte) : Prop :=
      s.ev.host = h → exec .hostMemoryAccess s = .next { s with replies := s.replies ++ [.data bs] }
    (∀ q, queueOf? s s.ev.queue = some q →
      rings .doorbell q s.ev.count.toNat ∧
      (∀ v, q.id < 256 → s.ev.host = .barWrite (0x10000 + 8 * s.ev.queue) v → rings .hostMemoryAccess q v.toNat) ∧
      (q.consumed < q.written → (∀ r ∈ s.queues, r.consumed < r.written → queueRank s q ≤ queueRank s r) → q.stopped = false →
        let p := packetOf s q q.consumed
        (∀ d, packetDescriptor s q p = some d → goes .launch (fun t => queue t q.id (fun r => r.consumed = q.consumed + 1) ∧
          ∃ x, t.grids = s.grids ++ [x] ∧ x.nteams = p.dims ∧ x.desc = d ∧ x.args = p.args ∧ x.prio = q.prio)) ∧
        (packetDescriptor s q p = none → goes .launch (fun t => queue t q.id (fun r => r.consumed = q.consumed + 1) ∧
          t.grids = s.grids ∧ t.ints = s.ints ++ [(q.ctx, 256 + q.id)])))) ∧
    (∀ x q op fut, gridOf? s s.ev.grid = some x → x.origin = .host q op fut → x.done = false → x.nteams ≤ x.ended →
      goes .gridCompletion (fun t => t.ints = s.ints ++ [(x.ctx, 256 + q)] ∧ (∃ y, gridOf? t x.id = some y ∧ y.done = true) ∧
        (fut = 0 → SameMemory s t) ∧
        ∀ a, fut ≠ 0 → fut < 2 ^ 64 → checkAccess s x.ctx ((ctxOf s x.ctx).cores.headD 0) [3] .write 8 (BitVec.ofNat 64 fut) = .ok a →
          a.peer = false → wordFull t a.pa = true ∧ MemoryTakes s t a.pa (leBytes 8
            (hostRecord x.launched (if x.aborted = true then 3 else if x.failed = true ∨ x.descErr = true then 2 else 0) op.toNat).toNat))) ∧
    (∀ id, s.booted = .running → (List.range 64).find? (fun n => (ctxOf? s n).isNone) = some id → contextOk s s.ev.context = true →
      goes .contextCreate (fun t => t.replies = s.replies ++ [.context (some id)] ∧ ∃ c, ctxOf? t id = some c ∧
        c.ptRoot = s.ev.context.ptRoot ∧ c.det = s.ev.context.det ∧ c.cores = s.ev.context.cores ∧ c.halted = false)) ∧
    (∀ q, queueOf? s s.ev.queue = some q → goes .queuePriorityChange (fun t => SameMemory s t ∧
      queue t s.ev.queue (fun r => r = { q with prio := s.ev.prio }) ∧
      ∀ x ∈ t.grids, ∀ op fut, x.origin = .host s.ev.queue op fut → x.prio = s.ev.prio)) ∧
    (∀ c, ctxOf? s s.ev.ctx = some c → c.id = s.ev.ctx → let h := parseHeader s.ev.object.bytes
      (headerOk c h = false → exec .codeObjectLoad s = .next { s with replies := s.replies ++ [.load false] }) ∧
      ∀ s1, headerOk c h = true → layObject s c.id s.ev.object (s.ev.va.toNat % 2 ^ 55) = some s1 →
        tableOk s1 c.id (c.cores.headD 0) (bankWords h s.ev.object.bytes) = true →
        goes .codeObjectLoad (fun t => SameMemory s1 t ∧ t.replies = s1.replies ++ [.load true] ∧
          t.measure = Config.measureExtend s1.measure (shake256 s.ev.object.bytes 64))) ∧
    (∀ w rest, (coreOf s s.ev.core).tables = w :: rest → (coreOf s s.ev.core).ctx = some w.ctx →
      (∀ u ∈ admittedTeams s s.ev.core, u.ctx ≠ w.ctx) →
      goes .bankTableApply (fun t => (coreOf t s.ev.core).tables = rest ∧ SameMemory s t)) ∧
    ((∀ t ∈ s.teams, t.ctx = s.ev.ctx → t.state ≠ .resident) → (ctxOf? s s.ev.ctx).isSome →
      goes .shadowRegionClear (fun t => (ctxOf t s.ev.ctx).shadow = [] ∧ SameMemory s t)) ∧
    goes .deviceReset (fun t => t.booted = State.reset.booted ∧ t.ctxs = [] ∧ t.teams = [] ∧ t.queues = [] ∧
      t.svn = s.svn ∧ t.fuse = s.fuse ∧ (s.queues = [] → s.grids = [] → SameMemory s t)) ∧
    (∀ c, ctxOf? s s.ev.ctx = some c → c.id = s.ev.ctx → goes .contextReset (fun t => (ctxOf t c.id).halted = true ∧
      ∀ q ∈ t.queues, q.ctx = c.id → q.written = 0 ∧ q.consumed = 0 ∧ q.stopped = false)) ∧
    exec .telemetry s = .next { s with replies := s.replies ++ [.data (Config.telemetry s.frees
      [s.clock.toNat, s.steps, s.hot.length, s.errors.length, s.log.length])] } ∧
    offers .firmwareLoad .management ∧ offers .imageOffer s.ev.source ∧
    (s.booted = .rom → (s.store = none → exec .bootRomStart s = .next { s with booted := .waiting }) ∧
      (s.store ≠ none → exec .bootRomStart s = .next { s with booted := .verifying })) ∧
    (s.booted = .verifying →
      (∀ src i, s.offer = some (src, i) →
        (imageFailure s i = 0 → goes .bootRomStart (fun t => started i t ∧ t.store = some i ∧ t.offer = none ∧
          t.replies = s.replies ++ [.image src true])) ∧
        (imageFailure s i ≠ 0 → exec .bootRomStart s = .next { s with
          booted := .waiting, offer := none, fail := imageFailure s i, replies := s.replies ++ [.image src false] })) ∧
      ∀ i, s.offer = none → s.store = some i → (imageFailure s i = 0 → goes .bootRomStart (started i)) ∧
        (imageFailure s i ≠ 0 → exec .bootRomStart s = .next { s with booted := .waiting, fail := imageFailure s i })) ∧
    goes .raiseSecurityFloor (fun t => t = { s with svn := t.svn } ∧
      t.svn = if s.booted = .running ∧ s.svn < s.ev.svn then s.ev.svn else s.svn) ∧
    (s.ev.nonce.length = 32 → exec .attest s = .next { s with replies := s.replies ++
      [.attest s.measure s.ev.nonce (Config.mlDsaSign (s.measure ++ s.ev.nonce))] }) ∧
    goes .powerLimit (fun t => t = { s with steps := t.steps }) ∧
    goes .junctionThrottle (fun t => s.ev.die ∈ t.hot ∧ t = { s with hot := t.hot }) ∧
    goes .thermalTrip (fun t => t.booted = .tripped ∧ SameMemory s t ∧ t.replies = s.replies ++ [.alert] ∧
      ∀ c ∈ s.ctxs, ⟨c.id, .thermal, 0, 0⟩ ∈ t.errors) ∧
    (∀ pa n, physRange pa n = true → s.poison = [] → answers (.read pa n) (readBytes s pa n)) ∧
    (∀ h ∈ [HostAccess.bootStat, .barRead 0],
      answers h (leBytes 8 (s.svn.toNat * 2 ^ 32 + s.fail.toNat * 256 + state))) ∧
    (∀ v, s.ev.host = .barWrite 0 v → exec .hostMemoryAccess s = .next s) ∧
    (∀ pa data, s.ev.host = .pcieWrite pa data ∨ s.ev.host = .cxlWrite pa data → physRange pa data.length = true →
      goes .hostMemoryAccess (fun t => MemoryTakes s t pa data)) ∧
    (∀ pa n, s.ev.peer = .read pa n → physRange pa n = true → linesOf s pa n 0 s.ev.mapped = true → s.poison = [] →
      exec .peerPageAccess s = .next { s with replies := s.replies ++ [.data (readBytes s pa n)] }) ∧
    (∀ pa data, s.ev.peer = .write pa data → physRange pa data.length = true →
      linesOf s pa data.length 0 s.ev.mapped = true → goes .peerPageAccess (fun t => MemoryTakes s t pa data)) ∧
    (∀ pa op b d, s.ev.peer = .scalarAtomic pa op b d → physRange pa 8 = true → linesOf s pa 8 0 s.ev.mapped = true →
      s.poison = [] → goes .peerPageAccess (fun t => t.replies = s.replies ++ [.data (readBytes s pa 8)] ∧
        MemoryTakes s t pa (bytes64 (atomic64 op.toNat (word64 (readBytes s pa 8)) b d)))) ∧
    goes .powerLoss (fun t => (∀ pa, readByte t pa = readByte State.reset pa) ∧ t.booted = State.reset.booted ∧
      t.svn = s.svn ∧ t.fuse = s.fuse ∧ t.ctxs = [])

/-! ### The whole machine: reset, encodings, steps, the invariant of memory -/

/-- The machine after reset, and how a group starts. After reset the boot ROM is at its start with no failure, no
context, group, team or queue exists, CLOCK is 0, PARKT is 4096 and AGE 65536 (01 R22; 18 R281, R282; 24 R328), and
memory lists nothing in its canonical form; that every byte then reads 0 is the model's choice (log 3). A group of a
grid starts with the state of R26 and R27: its registers read zero but for S1 to S5 and V0, masks but K0 zero, handles
FREE, counters and depth zero, the split table and the renaming slots empty, FMODE 0x08, TILEW 32, FLAGS and CSEQ 0,
no block held. A task group differs in S1, the descriptor, S4, the number of tasks, K1, their lanes, V0 and V1, their
argument words, V2 and V3, the frame with the tag ADDR, and V4 to V13, which a continuation finds as its frame holds
them, with the tag that all continuations of the group saved for the register. A reserved tag in a frame reads as RAW
by the model's choice (log 99). -/
def Obligations.ResetAndStartingState : Prop :=
  (memoryWf State.reset.mem = true ∧ (∀ pa, readByte State.reset pa = 0 ∧ wordFull State.reset pa = false) ∧
    State.reset.booted = .rom ∧ State.reset.fail = 0 ∧ State.reset.clock = 0 ∧ State.reset.parkt = 4096 ∧
    State.reset.age = 65536 ∧ State.reset.ctxs = [] ∧ State.reset.groups = [] ∧ State.reset.teams = [] ∧
    State.reset.queues = []) ∧
  ∀ (s : State) (x : Grid) (tid core gid team index : Nat),
    let g := newGroup s x tid core gid team index
    let t : State := { s with g := g }
    let starts : Prop := (∀ h, readH g h = .free) ∧ (∀ c, counterOf g c = 0) ∧ g.unacked = 0 ∧ g.depth = 0 ∧ g.call = none ∧
      g.priv = false ∧ (∀ e, (splitAt g e).state = .empty) ∧ g.ren = [none, none] ∧ g.fmode = 0x08 ∧ g.tilew = 32 ∧
      g.flags = 0 ∧ g.cseq = 0 ∧ g.blocks = 0 ∧ g.tiles = x.desc.tiles ∧ g.role = x.desc.roles.getD index 0 ∧
      g.spc = x.desc.scalar ∧ g.lanebase = x.desc.lanebase ∧ g.seedlo = x.seedlo ∧ g.seedhi = x.seedhi
    (∀ (q a b fut : Nat) (op : BitVec 8), x.origin = .host q op fut ∨ x.origin = .spawn a b →
      starts ∧
      (∀ r, readS t r = if r = 1 then x.args else if r = 2 then BitVec.ofNat 64 team else if r = 3 then BitVec.ofNat 64 index
        else if r = 4 then BitVec.ofNat 64 x.desc.groups else if r = 5 then BitVec.ofNat 64 x.nteams else 0) ∧
      (∀ r l, l < 32 → readV g r l = if r = 0 then BitVec.ofNat 32 (index * 32 + l) else 0) ∧
      (∀ r, tagV g r = if r = 0 then 2 else 0) ∧ ∀ k, readK g k = if k = 0 then BitVec.allOnes 32 else 0) ∧
    ∀ recs, x.origin = .tasks recs → recs.length ≤ 32 →
      let record (l : Nat) : TaskRecord := recs.getD l TaskRecord.zero
      let saved (r l : Nat) : W32 := read32 s (poolPa (ctxOf s x.ctx) (record l).frame + 24 + 4 * (r - 4))
      let conts := recs.filter (·.cont)
      let tagOf (r : Nat) (f : TaskRecord) : BitVec 4 := savedTag s x.ctx f.frame (r - 4)
      starts ∧
      (∀ r, readS t r = if r = 1 then x.entryVa else if r = 4 then BitVec.ofNat 64 recs.length else 0) ∧
      (∀ k, readK g k = if k = 0 then BitVec.allOnes 32 else if k = 1 then BitVec.ofNat 32 (2 ^ recs.length - 1) else 0) ∧
      (∀ r l, l < 32 → readV g r l = if recs.length ≤ l then 0 else if r = 0 then (record l).arg0
        else if r = 1 then (record l).arg1 else if r = 2 then BitVec.ofNat 32 (record l).frame
        else if r = 3 then BitVec.ofNat 32 ((record l).frame / 2 ^ 32)
        else if 4 ≤ r ∧ r ≤ 13 ∧ (record l).cont = true then saved r l else 0) ∧
      tagV g 0 = 0 ∧ tagV g 1 = 0 ∧ tagV g 2 = 10 ∧ tagV g 3 = 10 ∧ (∀ r, 13 < r → tagV g r = 0) ∧
      ∀ r, 4 ≤ r → r ≤ 13 → (conts = [] → tagV g r = 0) ∧
        (∀ tag, conts ≠ [] → (∀ f ∈ conts, tagOf r f = tag) → tagV g r = tag) ∧
        ((∃ f ∈ conts, ∃ h ∈ conts, tagOf r f ≠ tagOf r h) → tagV g r = 0)

/-- Words written out from the spec's encodings and the instructions they stand for: the worked examples of 03 R54, R58
and R59, of 07, 09 and 10 R206, an illegal pair, and one scalar word of most formats. -/
def Obligations.WordsDecodeAsTheSpecSays : Prop :=
  decodeScalar 0x04300C10 0 0 = .sadd 12 3 4 ∧ decodeScalar 0x20B8BBFF 0 0 = .saddi 46 46 (-1) ∧
  decodeScalar 0x681403FD 0 0 = .sbne 5 0 (-3) ∧ decodeScalar 0x881E0281 0 0 = .srd 30 10 ∧
  decodeScalar 0xA80A29A9 0 0 = .cpy 0 40 41 42 true ∧ decodeScalar 0xB8000002 0 0 = .vacq 2 ∧
  decodeLane [0x01, 0x07, 0x03, 0x04] = some (.vadd ⟨.short, 0, 0, 0, 7, 3, 4, 0, 0⟩) ∧
  decodeLane [0x80, 0x01, 0x03, 0x01, 0x2C, 0x00, 0x7C, 0x08] = some (.vadd ⟨.f80, 0, 3, 0, 300, 3, 0x702, 0, 0⟩) ∧
  decodeLane [0x80, 0x47, 0x00, 0x08, 0x0A, 0x01, 0x20, 0x00] = some (.vred ⟨.f80, 0, 0, 1, 10, 9, 0, 0, 0⟩) ∧
  decodeLane [0x82, 0x80, 0x01, 0x03, 0x00, 0x08, 0x01, 0x82, 0x16, 0x00, 0x00, 0x50] =
    some (.mma ⟨.f82, 0, 1, 0, 0x300, 64, 96, 0x42C, 80⟩) ∧
  decodeLane [0x80, 0x90, 0x20, 0x00, 0x28, 0x02, 0x10, 0x50] = some (.gbox ⟨.f80, 2, 0, 0, 40, 16, 0x414, 0, 0⟩) ∧
  decodeLane [0x84, 0x02, 0x00, 0x80, 0x08, 0x08, 0x01, 0x40, 0x0D, 0x00, 0x81, 0x40] =
    some (.pairWord false ⟨0x01, 0, 8, 1, 2⟩ ⟨0x0A, 0, 13, 1, 5⟩) ∧
  decodeLane [0x84, 0x02, 0x00, 0x80, 0x08, 0x14, 0x01, 0x20, 0x0C, 0x04, 0x80, 0x40] = some .illegalWord

/-- 03 R54 to R59: what the encoder writes for a well-formed instruction decodes to that instruction, with every
operand at every value that the encoding admits, whatever bytes follow it. -/
def Obligations.DecodeOfEncode : Prop :=
  (∀ (i : Instr) (ws rest : List W32), i.wf = true → (∀ w, i ≠ .illegalScalarWord w) → encodeScalar i = some ws →
    decodeScalar ((ws ++ rest).getD 0 0) ((ws ++ rest).getD 1 0) ((ws ++ rest).getD 2 0) = i) ∧
  (∀ (i : Instr) (bs rest : List Byte), i.wf = true → encodeLane i = some bs → decodeLane (bs ++ rest) = some i)

/-- One step of the machine. It takes the action at the head of the agenda after CLOCK has advanced. A scalar issue
runs exactly the instruction that the words at the PC decode to, a lane issue the one that the bytes at the split's
lane PC decode to, an event its own constructor with its operands. Around it are noted: the bad registers that a
scalar instruction read (02 R50), the group's bookkeeping at the end of an issue, for a split also whether its slot
counts (08 R155), and the readiness of parked teams; nothing else. -/
def Obligations.StepRunsTheDecodedInstruction : Prop :=
  ∀ (s : State) (a : Action) (rest : List Action), s.agenda = a :: rest →
    let s1 : State := { s with clock := s.clock + 1, frees := s.frees + 1, agenda := rest }
    (∀ gid t w, a = .scalar gid → beginScalar s1 gid = some t → trapDue t.g = false → fetchWord t t.g.spc = .ok w →
      let runs (i : Instr) : Prop :=
        step s = onNext noteReady (onNext (endIssue (focus s1 gid).g) (noteSources i t (exec i t)))
      (moreWords w = 0 → runs (decodeScalar w 0 0)) ∧
      ∀ bs, moreWords w ≠ 0 → fetchBytes t false t.g.spc (4 * (moreWords w + 1)) = .ok bs →
        runs (decodeScalar w (word32 ((bs.drop 4).take 4)) (word32 ((bs.drop 8).take 4)))) ∧
    (∀ gid entry t p bs i, a = .lane gid entry → beginLane s1 gid entry = some t → trapDue t.g = false → p ≠ 0xFF →
      fetchBytes t true (laneVa t) 1 = .ok [p] → fetchBytes t true (laneVa t) (prefixLength p) = .ok bs →
      decodeLane bs = some i →
      step s = onNext noteReady (onNext (endLane (focus s1 gid).g entry)
        (onNext (endIssue (focus s1 gid).g) (exec i t)))) ∧
    (∀ i args, a = .event i args → eventAllowed s1 i args = true →
      step s = onNext noteReady (exec i (beginEvent s1 i args)))

/-- Every instruction of the table answers a next state, on every operand and in every state, but for an access from
outside the device to an address at which nothing exists (17 R259) or to a word of BAR0 that belongs to firmware's
mailbox (24 R321). -/
def Obligations.EveryInstructionGoes : Prop :=
  ∀ (i : Instr) (s : State), clearOfFault i s = true → ∃ t, exec i s = .next t

/-- Every step keeps memory in its canonical form: addresses strictly rising, and no entry equal to what an unlisted
address reads as, so that equal memories are equal data. -/
def Obligations.StepKeepsMemoryCanonical : Prop :=
  ∀ s t : State, memoryWf s.mem = true → step s = .next t → memoryWf t.mem = true
end

