-- ==== Sys2Proof/Laws/Map.lean ====
section
/-! SUPPORT. The laws of sparse maps: reading after writing, and the canonical form that every operation keeps. -/

namespace Sys2Proof.Machine

variable {α : Type}

/-- The empty map reads as the default everywhere. -/
@[simp] theorem mapGet_nil (d : α) (k : Nat) : mapGet d k [] = d := rfl

/-- A read at the head of a map. -/
theorem mapGet_cons (d : α) (k j : Nat) (v : α) (m : SMap α) :
    mapGet d k ((j, v) :: m) = if j = k then v else mapGet d k m := rfl

/-- An erased key reads as the default. -/
@[simp] theorem mapGet_mapErase_same (d : α) (k : Nat) (m : SMap α) : mapGet d k (mapErase k m) = d := by
  induction m with
  | nil => rfl
  | cons p m ih =>
    obtain ⟨j, v⟩ := p
    by_cases h : j = k
    · simpa [mapErase, h] using ih
    · simpa [mapErase, h, mapGet_cons] using ih

/-- Erasing a key leaves every other key alone. -/
theorem mapGet_mapErase_ne (d : α) {k j : Nat} (h : j ≠ k) (m : SMap α) :
    mapGet d j (mapErase k m) = mapGet d j m := by
  induction m with
  | nil => rfl
  | cons p m ih =>
    obtain ⟨i, v⟩ := p
    by_cases hi : i = k
    · have : i ≠ j := fun e => h (e ▸ hi)
      simpa [mapErase, hi, mapGet_cons, this, Ne.symm h] using ih
    · by_cases hj : i = j
      · subst hj; simp [mapErase, hi, mapGet_cons]
      · simpa [mapErase, hi, mapGet_cons, hj] using ih

/-- Whether a key is listed. -/
def listed (k : Nat) (m : SMap α) : Bool := m.any (fun p => p.1 == k)

/-- An erased key is not listed. -/
theorem listed_mapErase (k : Nat) (m : SMap α) : listed k (mapErase k m) = false := by
  simp only [listed, mapErase, List.any_filter, List.any_eq_false]
  intro p _
  by_cases h : p.1 = k <;> simp [h]

/-- An inserted key that was not listed reads as its value. -/
theorem mapGet_mapInsert_same (d : α) (k : Nat) (v : α) (m : SMap α) (h : listed k m = false) :
    mapGet d k (mapInsert k v m) = v := by
  induction m with
  | nil => simp [mapInsert, mapGet_cons]
  | cons p m ih =>
    obtain ⟨j, w⟩ := p
    simp only [listed, List.any_cons, Bool.or_eq_false_iff, beq_eq_false_iff_ne] at h
    by_cases hk : k < j
    · simp [mapInsert, hk, mapGet_cons]
    · simpa [mapInsert, hk, mapGet_cons, h.1] using ih h.2

/-- An insertion leaves every other key alone. -/
theorem mapGet_mapInsert_ne (d : α) {k j : Nat} (h : j ≠ k) (v : α) (m : SMap α) :
    mapGet d j (mapInsert k v m) = mapGet d j m := by
  induction m with
  | nil => simp [mapInsert, mapGet_cons, Ne.symm h]
  | cons p m ih =>
    obtain ⟨i, w⟩ := p
    by_cases hk : k < i
    · simp [mapInsert, hk, mapGet_cons, Ne.symm h]
    · rw [mapInsert, if_neg hk, mapGet_cons, mapGet_cons, ih]

/-- A read after a write of the same key gives the value written. -/
@[simp] theorem mapGet_mapSet_same [DecidableEq α] (d : α) (k : Nat) (v : α) (m : SMap α) : mapGet d k (mapSet d k v m) = v := by
  unfold mapSet
  split
  · rename_i h; rw [mapGet_mapErase_same, h]
  · exact mapGet_mapInsert_same d k v _ (listed_mapErase k m)

/-- A write leaves every other key alone. -/
theorem mapGet_mapSet_ne [DecidableEq α] (d : α) {k j : Nat} (h : j ≠ k) (v : α) (m : SMap α) :
    mapGet d j (mapSet d k v m) = mapGet d j m := by
  unfold mapSet
  split
  · exact mapGet_mapErase_ne d h m
  · rw [mapGet_mapInsert_ne d h, mapGet_mapErase_ne d h]

/-- A read after a write, whichever key is read. -/
theorem mapGet_mapSet [DecidableEq α] (d : α) (k j : Nat) (v : α) (m : SMap α) :
    mapGet d j (mapSet d k v m) = if j = k then v else mapGet d j m := by
  by_cases h : j = k
  · subst h; simp
  · simp [h, mapGet_mapSet_ne d h]

/-! ### The canonical form -/

/-- Keys that rise from a bound rise from a lower one. -/
theorem keysRise_mono {lo lo' : Nat} (h : lo' ≤ lo) (m : SMap α) (hm : keysRise lo m = true) : keysRise lo' m = true := by
  cases m with
  | nil => rfl
  | cons p m =>
    obtain ⟨j, v⟩ := p
    simp only [keysRise, Bool.and_eq_true, decide_eq_true_eq] at hm ⊢
    exact ⟨by omega, hm.2⟩

/-- A part of rising keys rises. -/
theorem keysRise_filter (p : Nat × α → Bool) (lo : Nat) (m : SMap α) (h : keysRise lo m = true) :
    keysRise lo (m.filter p) = true := by
  induction m generalizing lo with
  | nil => rfl
  | cons q m ih =>
    obtain ⟨j, v⟩ := q
    simp only [keysRise, Bool.and_eq_true, decide_eq_true_eq] at h
    by_cases hp : p (j, v) = true
    · simp only [List.filter_cons, hp, if_true, keysRise, Bool.and_eq_true, decide_eq_true_eq]
      exact ⟨h.1, ih (j + 1) h.2⟩
    · simp only [List.filter_cons, hp]
      exact keysRise_mono (by omega) _ (ih (j + 1) h.2)

/-- Rising keys stay so when a key that is not listed is put in its place. -/
theorem keysRise_mapInsert (k : Nat) (v : α) (m : SMap α) (lo : Nat) (hlo : lo ≤ k) (h : keysRise lo m = true)
    (hk : listed k m = false) : keysRise lo (mapInsert k v m) = true := by
  induction m generalizing lo with
  | nil => simp [mapInsert, keysRise, hlo]
  | cons q m ih =>
    obtain ⟨j, w⟩ := q
    simp only [keysRise, Bool.and_eq_true, decide_eq_true_eq] at h
    simp only [listed, List.any_cons, Bool.or_eq_false_iff, beq_eq_false_iff_ne] at hk
    by_cases hj : k < j
    · simp only [mapInsert, hj, if_true, keysRise, Bool.and_eq_true, decide_eq_true_eq]
      exact ⟨hlo, hj, h.2⟩
    · simp only [mapInsert, hj, if_false, keysRise, Bool.and_eq_true, decide_eq_true_eq]
      exact ⟨h.1, ih (j + 1) (by omega) h.2 hk.2⟩

/-- Every pair of a map after an insertion is the new one or an old one. -/
theorem mem_mapInsert (k : Nat) (v : α) (m : SMap α) (p : Nat × α) (h : p ∈ mapInsert k v m) : p = (k, v) ∨ p ∈ m := by
  induction m with
  | nil => simpa [mapInsert] using h
  | cons q m ih =>
    obtain ⟨j, w⟩ := q
    by_cases hj : k < j
    · simpa [mapInsert, hj] using h
    · simp only [mapInsert, hj, if_false, List.mem_cons] at h
      rcases h with h | h
      · exact .inr (by simp [h])
      · rcases ih h with h | h
        · exact .inl h
        · exact .inr (by simp [h])

/-- A part of a map in canonical form is in canonical form. -/
theorem mapWf_filter [DecidableEq α] (d : α) (p : Nat × α → Bool) (m : SMap α) (h : mapWf d m = true) : mapWf d (m.filter p) = true := by
  simp only [mapWf, Bool.and_eq_true, List.all_eq_true, List.mem_filter] at h ⊢
  exact ⟨keysRise_filter p 0 m h.1, fun x hx => h.2 x hx.1⟩

/-- Erasing a key keeps the canonical form. -/
theorem mapWf_mapErase [DecidableEq α] (d : α) (k : Nat) (m : SMap α) (h : mapWf d m = true) : mapWf d (mapErase k m) = true :=
  mapWf_filter d _ m h

/-- Writing a key keeps the canonical form. -/
theorem mapWf_mapSet [DecidableEq α] (d : α) (k : Nat) (v : α) (m : SMap α) (h : mapWf d m = true) : mapWf d (mapSet d k v m) = true := by
  unfold mapSet
  split
  · exact mapWf_mapErase d k m h
  · rename_i hv
    have he := mapWf_mapErase d k m h
    simp only [mapWf, Bool.and_eq_true, List.all_eq_true, decide_eq_true_eq] at he ⊢
    refine ⟨keysRise_mapInsert k v _ 0 (Nat.zero_le k) he.1 (listed_mapErase k m), ?_⟩
    intro p hp
    rcases mem_mapInsert k v _ p hp with rfl | hp
    · exact hv
    · exact he.2 p hp

/-- The empty map is in canonical form. -/
@[simp] theorem mapWf_nil [DecidableEq α] (d : α) : mapWf d ([] : SMap α) = true := rfl

/-- No key below the first listed one reads as anything but the default. -/
theorem mapGet_below (d : α) (lo k : Nat) (m : SMap α) (h : keysRise lo m = true) (hk : k < lo) : mapGet d k m = d := by
  induction m generalizing lo with
  | nil => rfl
  | cons q m ih =>
    obtain ⟨j, v⟩ := q
    simp only [keysRise, Bool.and_eq_true, decide_eq_true_eq] at h
    rw [mapGet_cons, if_neg (by omega)]
    exact ih (j + 1) h.2 (by omega)

/-- Maps in canonical form that read alike are the same data. -/
theorem map_ext [DecidableEq α] (d : α) (m n : SMap α) (hm : mapWf d m = true) (hn : mapWf d n = true)
    (h : ∀ k, mapGet d k m = mapGet d k n) : m = n := by
  suffices H : ∀ lo, keysRise lo m = true → keysRise lo n = true → m = n by
    simp only [mapWf, Bool.and_eq_true] at hm hn
    exact H 0 hm.1 hn.1
  simp only [mapWf, Bool.and_eq_true, List.all_eq_true, decide_eq_true_eq] at hm hn
  replace hm := hm.2
  replace hn := hn.2
  induction m generalizing n with
  | nil =>
    intro lo _ hr
    cases n with
    | nil => rfl
    | cons q n =>
      obtain ⟨j, v⟩ := q
      have := h j
      simp only [mapGet_nil, mapGet_cons, if_true] at this
      exact absurd this.symm (hn (j, v) (by simp))
  | cons p m ih =>
    obtain ⟨i, u⟩ := p
    intro lo hl hr
    simp only [keysRise, Bool.and_eq_true, decide_eq_true_eq] at hl
    cases n with
    | nil =>
      have := h i
      simp only [mapGet_nil, mapGet_cons, if_true] at this
      exact absurd this (hm (i, u) (by simp))
    | cons q n =>
      obtain ⟨j, v⟩ := q
      simp only [keysRise, Bool.and_eq_true, decide_eq_true_eq] at hr
      have hij : i = j := by
        rcases Nat.lt_trichotomy i j with hlt | heq | hgt
        · have := h i
          rw [mapGet_cons, if_pos rfl, mapGet_cons, if_neg (by omega), mapGet_below d (j + 1) i n hr.2 (by omega)] at this
          exact absurd this (hm (i, u) (by simp))
        · exact heq
        · have := h j
          rw [mapGet_cons, if_neg (by omega), mapGet_below d (i + 1) j m hl.2 (by omega), mapGet_cons, if_pos rfl] at this
          exact absurd this.symm (hn (j, v) (by simp))
      subst hij
      have huv : u = v := by simpa [mapGet_cons] using h i
      subst huv
      congr 1
      refine ih n ?_ (fun x hx => hm x (by simp [hx])) (fun x hx => hn x (by simp [hx])) (i + 1) hl.2 hr.2
      intro k
      by_cases hk : k = i
      · subst hk
        rw [mapGet_below d (k + 1) k m hl.2 (by omega), mapGet_below d (k + 1) k n hr.2 (by omega)]
      · have := h k
        rwa [mapGet_cons, if_neg (Ne.symm hk), mapGet_cons, if_neg (Ne.symm hk)] at this

end Sys2Proof.Machine
end

