-- ==== Sys2Proof/Laws/State.lean ====
section
/-! SUPPORT. The field lemmas of the named updates of the state and of a group: what each update leaves as it was, field
by field, and what it changes. -/

namespace Sys2Proof.Machine

/-! ### The scalar PC -/

@[simp] theorem setSpc_ent (s : State) (pc : W64) : (setSpc s pc).ent = s.ent := rfl
@[simp] theorem setSpc_ev (s : State) (pc : W64) : (setSpc s pc).ev = s.ev := rfl
@[simp] theorem setSpc_groups (s : State) (pc : W64) : (setSpc s pc).groups = s.groups := rfl
@[simp] theorem setSpc_teams (s : State) (pc : W64) : (setSpc s pc).teams = s.teams := rfl
@[simp] theorem setSpc_grids (s : State) (pc : W64) : (setSpc s pc).grids = s.grids := rfl
@[simp] theorem setSpc_clusters (s : State) (pc : W64) : (setSpc s pc).clusters = s.clusters := rfl
@[simp] theorem setSpc_ends (s : State) (pc : W64) : (setSpc s pc).ends = s.ends := rfl
@[simp] theorem setSpc_awaits (s : State) (pc : W64) : (setSpc s pc).awaits = s.awaits := rfl
@[simp] theorem setSpc_zeros (s : State) (pc : W64) : (setSpc s pc).zeros = s.zeros := rfl
@[simp] theorem setSpc_asks (s : State) (pc : W64) : (setSpc s pc).asks = s.asks := rfl
@[simp] theorem setSpc_cores (s : State) (pc : W64) : (setSpc s pc).cores = s.cores := rfl
@[simp] theorem setSpc_ctxs (s : State) (pc : W64) : (setSpc s pc).ctxs = s.ctxs := rfl
@[simp] theorem setSpc_saved (s : State) (pc : W64) : (setSpc s pc).saved = s.saved := rfl
@[simp] theorem setSpc_queues (s : State) (pc : W64) : (setSpc s pc).queues = s.queues := rfl
@[simp] theorem setSpc_mem (s : State) (pc : W64) : (setSpc s pc).mem = s.mem := rfl
@[simp] theorem setSpc_records (s : State) (pc : W64) : (setSpc s pc).records = s.records := rfl
@[simp] theorem setSpc_poison (s : State) (pc : W64) : (setSpc s pc).poison = s.poison := rfl
@[simp] theorem setSpc_waiters (s : State) (pc : W64) : (setSpc s pc).waiters = s.waiters := rfl
@[simp] theorem setSpc_stores (s : State) (pc : W64) : (setSpc s pc).stores = s.stores := rfl
@[simp] theorem setSpc_props (s : State) (pc : W64) : (setSpc s pc).props = s.props := rfl
@[simp] theorem setSpc_copies (s : State) (pc : W64) : (setSpc s pc).copies = s.copies := rfl
@[simp] theorem setSpc_dtlb (s : State) (pc : W64) : (setSpc s pc).dtlb = s.dtlb := rfl
@[simp] theorem setSpc_ops (s : State) (pc : W64) : (setSpc s pc).ops = s.ops := rfl
@[simp] theorem setSpc_xreqs (s : State) (pc : W64) : (setSpc s pc).xreqs = s.xreqs := rfl
@[simp] theorem setSpc_comms (s : State) (pc : W64) : (setSpc s pc).comms = s.comms := rfl
@[simp] theorem setSpc_errors (s : State) (pc : W64) : (setSpc s pc).errors = s.errors := rfl
@[simp] theorem setSpc_faults (s : State) (pc : W64) : (setSpc s pc).faults = s.faults := rfl
@[simp] theorem setSpc_log (s : State) (pc : W64) : (setSpc s pc).log = s.log := rfl
@[simp] theorem setSpc_ints (s : State) (pc : W64) : (setSpc s pc).ints = s.ints := rfl
@[simp] theorem setSpc_replies (s : State) (pc : W64) : (setSpc s pc).replies = s.replies := rfl
@[simp] theorem setSpc_unreach (s : State) (pc : W64) : (setSpc s pc).unreach = s.unreach := rfl
@[simp] theorem setSpc_links (s : State) (pc : W64) : (setSpc s pc).links = s.links := rfl
@[simp] theorem setSpc_device (s : State) (pc : W64) : (setSpc s pc).device = s.device := rfl
@[simp] theorem setSpc_clock (s : State) (pc : W64) : (setSpc s pc).clock = s.clock := rfl
@[simp] theorem setSpc_next (s : State) (pc : W64) : (setSpc s pc).next = s.next := rfl
@[simp] theorem setSpc_frees (s : State) (pc : W64) : (setSpc s pc).frees = s.frees := rfl
@[simp] theorem setSpc_agenda (s : State) (pc : W64) : (setSpc s pc).agenda = s.agenda := rfl
@[simp] theorem setSpc_parkt (s : State) (pc : W64) : (setSpc s pc).parkt = s.parkt := rfl
@[simp] theorem setSpc_age (s : State) (pc : W64) : (setSpc s pc).age = s.age := rfl
@[simp] theorem setSpc_booted (s : State) (pc : W64) : (setSpc s pc).booted = s.booted := rfl
@[simp] theorem setSpc_fail (s : State) (pc : W64) : (setSpc s pc).fail = s.fail := rfl
@[simp] theorem setSpc_svn (s : State) (pc : W64) : (setSpc s pc).svn = s.svn := rfl
@[simp] theorem setSpc_fuse (s : State) (pc : W64) : (setSpc s pc).fuse = s.fuse := rfl
@[simp] theorem setSpc_store (s : State) (pc : W64) : (setSpc s pc).store = s.store := rfl
@[simp] theorem setSpc_offer (s : State) (pc : W64) : (setSpc s pc).offer = s.offer := rfl
@[simp] theorem setSpc_measure (s : State) (pc : W64) : (setSpc s pc).measure = s.measure := rfl
@[simp] theorem setSpc_steps (s : State) (pc : W64) : (setSpc s pc).steps = s.steps := rfl
@[simp] theorem setSpc_hot (s : State) (pc : W64) : (setSpc s pc).hot = s.hot := rfl
@[simp] theorem setSpc_qlast (s : State) (pc : W64) : (setSpc s pc).qlast = s.qlast := rfl
@[simp] theorem setSpc_busy (s : State) (pc : W64) : (setSpc s pc).busy = s.busy := rfl
@[simp] theorem setSpc_know (s : State) (pc : W64) : (setSpc s pc).know = s.know := rfl

@[simp] theorem setSpc_g_gid (s : State) (pc : W64) : (setSpc s pc).g.gid = s.g.gid := rfl
@[simp] theorem setSpc_g_ctx (s : State) (pc : W64) : (setSpc s pc).g.ctx = s.g.ctx := rfl
@[simp] theorem setSpc_g_core (s : State) (pc : W64) : (setSpc s pc).g.core = s.g.core := rfl
@[simp] theorem setSpc_g_team (s : State) (pc : W64) : (setSpc s pc).g.team = s.g.team := rfl
@[simp] theorem setSpc_g_index (s : State) (pc : W64) : (setSpc s pc).g.index = s.g.index := rfl
@[simp] theorem setSpc_g_run (s : State) (pc : W64) : (setSpc s pc).g.run = s.g.run := rfl
@[simp] theorem setSpc_g_priv (s : State) (pc : W64) : (setSpc s pc).g.priv = s.g.priv := rfl
@[simp] theorem setSpc_g_sregs (s : State) (pc : W64) : (setSpc s pc).g.sregs = s.g.sregs := rfl
@[simp] theorem setSpc_g_vregs (s : State) (pc : W64) : (setSpc s pc).g.vregs = s.g.vregs := rfl
@[simp] theorem setSpc_g_vtags (s : State) (pc : W64) : (setSpc s pc).g.vtags = s.g.vtags := rfl
@[simp] theorem setSpc_g_kregs (s : State) (pc : W64) : (setSpc s pc).g.kregs = s.g.kregs := rfl
@[simp] theorem setSpc_g_tregs (s : State) (pc : W64) : (setSpc s pc).g.tregs = s.g.tregs := rfl
@[simp] theorem setSpc_g_ttags (s : State) (pc : W64) : (setSpc s pc).g.ttags = s.g.ttags := rfl
@[simp] theorem setSpc_g_blocks (s : State) (pc : W64) : (setSpc s pc).g.blocks = s.g.blocks := rfl
@[simp] theorem setSpc_g_tiles (s : State) (pc : W64) : (setSpc s pc).g.tiles = s.g.tiles := rfl
@[simp] theorem setSpc_g_handles (s : State) (pc : W64) : (setSpc s pc).g.handles = s.g.handles := rfl
@[simp] theorem setSpc_g_splits (s : State) (pc : W64) : (setSpc s pc).g.splits = s.g.splits := rfl
@[simp] theorem setSpc_g_overflow (s : State) (pc : W64) : (setSpc s pc).g.overflow = s.g.overflow := rfl
@[simp] theorem setSpc_g_slot (s : State) (pc : W64) : (setSpc s pc).g.slot = s.g.slot := rfl
@[simp] theorem setSpc_g_call (s : State) (pc : W64) : (setSpc s pc).g.call = s.g.call := rfl
@[simp] theorem setSpc_g_calls (s : State) (pc : W64) : (setSpc s pc).g.calls = s.g.calls := rfl
@[simp] theorem setSpc_g_ren (s : State) (pc : W64) : (setSpc s pc).g.ren = s.g.ren := rfl
@[simp] theorem setSpc_g_renOld (s : State) (pc : W64) : (setSpc s pc).g.renOld = s.g.renOld := rfl
@[simp] theorem setSpc_g_meld (s : State) (pc : W64) : (setSpc s pc).g.meld = s.g.meld := rfl
@[simp] theorem setSpc_g_landings (s : State) (pc : W64) : (setSpc s pc).g.landings = s.g.landings := rfl
@[simp] theorem setSpc_g_counters (s : State) (pc : W64) : (setSpc s pc).g.counters = s.g.counters := rfl
@[simp] theorem setSpc_g_latches (s : State) (pc : W64) : (setSpc s pc).g.latches = s.g.latches := rfl
@[simp] theorem setSpc_g_unacked (s : State) (pc : W64) : (setSpc s pc).g.unacked = s.g.unacked := rfl
@[simp] theorem setSpc_g_stamp (s : State) (pc : W64) : (setSpc s pc).g.stamp = s.g.stamp := rfl
@[simp] theorem setSpc_g_depth (s : State) (pc : W64) : (setSpc s pc).g.depth = s.g.depth := rfl
@[simp] theorem setSpc_g_saves (s : State) (pc : W64) : (setSpc s pc).g.saves = s.g.saves := rfl
@[simp] theorem setSpc_g_role (s : State) (pc : W64) : (setSpc s pc).g.role = s.g.role := rfl
@[simp] theorem setSpc_g_tilew (s : State) (pc : W64) : (setSpc s pc).g.tilew = s.g.tilew := rfl
@[simp] theorem setSpc_g_fmode (s : State) (pc : W64) : (setSpc s pc).g.fmode = s.g.fmode := rfl
@[simp] theorem setSpc_g_flags (s : State) (pc : W64) : (setSpc s pc).g.flags = s.g.flags := rfl
@[simp] theorem setSpc_g_seedlo (s : State) (pc : W64) : (setSpc s pc).g.seedlo = s.g.seedlo := rfl
@[simp] theorem setSpc_g_seedhi (s : State) (pc : W64) : (setSpc s pc).g.seedhi = s.g.seedhi := rfl
@[simp] theorem setSpc_g_cseq (s : State) (pc : W64) : (setSpc s pc).g.cseq = s.g.cseq := rfl
@[simp] theorem setSpc_g_lanebase (s : State) (pc : W64) : (setSpc s pc).g.lanebase = s.g.lanebase := rfl
@[simp] theorem setSpc_g_events (s : State) (pc : W64) : (setSpc s pc).g.events = s.g.events := rfl
@[simp] theorem setSpc_g_gframe (s : State) (pc : W64) : (setSpc s pc).g.gframe = s.g.gframe := rfl
@[simp] theorem setSpc_g_tasks (s : State) (pc : W64) : (setSpc s pc).g.tasks = s.g.tasks := rfl
@[simp] theorem setSpc_g_wframes (s : State) (pc : W64) : (setSpc s pc).g.wframes = s.g.wframes := rfl
@[simp] theorem setSpc_g_entryVa (s : State) (pc : W64) : (setSpc s pc).g.entryVa = s.g.entryVa := rfl
@[simp] theorem setSpc_g_wait (s : State) (pc : W64) : (setSpc s pc).g.wait = s.g.wait := rfl
@[simp] theorem setSpc_g_since (s : State) (pc : W64) : (setSpc s pc).g.since = s.g.since := rfl
@[simp] theorem setSpc_g_parkable (s : State) (pc : W64) : (setSpc s pc).g.parkable = s.g.parkable := rfl
@[simp] theorem setSpc_g_arrived (s : State) (pc : W64) : (setSpc s pc).g.arrived = s.g.arrived := rfl
@[simp] theorem setSpc_g_carrived (s : State) (pc : W64) : (setSpc s pc).g.carrived = s.g.carrived := rfl
@[simp] theorem setSpc_g_phase (s : State) (pc : W64) : (setSpc s pc).g.phase = s.g.phase := rfl
@[simp] theorem setSpc_g_cphase (s : State) (pc : W64) : (setSpc s pc).g.cphase = s.g.cphase := rfl
@[simp] theorem setSpc_g_named (s : State) (pc : W64) : (setSpc s pc).g.named = s.g.named := rfl
@[simp] theorem setSpc_g_deliver (s : State) (pc : W64) : (setSpc s pc).g.deliver = s.g.deliver := rfl
@[simp] theorem setSpc_g_mapping (s : State) (pc : W64) : (setSpc s pc).g.mapping = s.g.mapping := rfl
@[simp] theorem setSpc_g_declined (s : State) (pc : W64) : (setSpc s pc).g.declined = s.g.declined := rfl
@[simp] theorem setSpc_g_seat (s : State) (pc : W64) : (setSpc s pc).g.seat = s.g.seat := rfl
@[simp] theorem setSpc_g_lastRun (s : State) (pc : W64) : (setSpc s pc).g.lastRun = s.g.lastRun := rfl
@[simp] theorem setSpc_g_yielded (s : State) (pc : W64) : (setSpc s pc).g.yielded = s.g.yielded := rfl
@[simp] theorem setSpc_g_lastLane (s : State) (pc : W64) : (setSpc s pc).g.lastLane = s.g.lastLane := rfl
@[simp] theorem setSpc_g_leftover (s : State) (pc : W64) : (setSpc s pc).g.leftover = s.g.leftover := rfl
@[simp] theorem setSpc_g_poison (s : State) (pc : W64) : (setSpc s pc).g.poison = s.g.poison := rfl
@[simp] theorem setSpc_g_due (s : State) (pc : W64) : (setSpc s pc).g.due = s.g.due := rfl
@[simp] theorem setSpc_g_dueAt (s : State) (pc : W64) : (setSpc s pc).g.dueAt = s.g.dueAt := rfl

@[simp] theorem setSpc_g_spc (s : State) (pc : W64) : (setSpc s pc).g.spc = pc := rfl

@[simp] theorem nextSpc_ent (s : State) : (nextSpc s).ent = s.ent := rfl
@[simp] theorem nextSpc_ev (s : State) : (nextSpc s).ev = s.ev := rfl
@[simp] theorem nextSpc_groups (s : State) : (nextSpc s).groups = s.groups := rfl
@[simp] theorem nextSpc_teams (s : State) : (nextSpc s).teams = s.teams := rfl
@[simp] theorem nextSpc_grids (s : State) : (nextSpc s).grids = s.grids := rfl
@[simp] theorem nextSpc_clusters (s : State) : (nextSpc s).clusters = s.clusters := rfl
@[simp] theorem nextSpc_ends (s : State) : (nextSpc s).ends = s.ends := rfl
@[simp] theorem nextSpc_awaits (s : State) : (nextSpc s).awaits = s.awaits := rfl
@[simp] theorem nextSpc_zeros (s : State) : (nextSpc s).zeros = s.zeros := rfl
@[simp] theorem nextSpc_asks (s : State) : (nextSpc s).asks = s.asks := rfl
@[simp] theorem nextSpc_cores (s : State) : (nextSpc s).cores = s.cores := rfl
@[simp] theorem nextSpc_ctxs (s : State) : (nextSpc s).ctxs = s.ctxs := rfl
@[simp] theorem nextSpc_saved (s : State) : (nextSpc s).saved = s.saved := rfl
@[simp] theorem nextSpc_queues (s : State) : (nextSpc s).queues = s.queues := rfl
@[simp] theorem nextSpc_mem (s : State) : (nextSpc s).mem = s.mem := rfl
@[simp] theorem nextSpc_records (s : State) : (nextSpc s).records = s.records := rfl
@[simp] theorem nextSpc_poison (s : State) : (nextSpc s).poison = s.poison := rfl
@[simp] theorem nextSpc_waiters (s : State) : (nextSpc s).waiters = s.waiters := rfl
@[simp] theorem nextSpc_stores (s : State) : (nextSpc s).stores = s.stores := rfl
@[simp] theorem nextSpc_props (s : State) : (nextSpc s).props = s.props := rfl
@[simp] theorem nextSpc_copies (s : State) : (nextSpc s).copies = s.copies := rfl
@[simp] theorem nextSpc_dtlb (s : State) : (nextSpc s).dtlb = s.dtlb := rfl
@[simp] theorem nextSpc_ops (s : State) : (nextSpc s).ops = s.ops := rfl
@[simp] theorem nextSpc_xreqs (s : State) : (nextSpc s).xreqs = s.xreqs := rfl
@[simp] theorem nextSpc_comms (s : State) : (nextSpc s).comms = s.comms := rfl
@[simp] theorem nextSpc_errors (s : State) : (nextSpc s).errors = s.errors := rfl
@[simp] theorem nextSpc_faults (s : State) : (nextSpc s).faults = s.faults := rfl
@[simp] theorem nextSpc_log (s : State) : (nextSpc s).log = s.log := rfl
@[simp] theorem nextSpc_ints (s : State) : (nextSpc s).ints = s.ints := rfl
@[simp] theorem nextSpc_replies (s : State) : (nextSpc s).replies = s.replies := rfl
@[simp] theorem nextSpc_unreach (s : State) : (nextSpc s).unreach = s.unreach := rfl
@[simp] theorem nextSpc_links (s : State) : (nextSpc s).links = s.links := rfl
@[simp] theorem nextSpc_device (s : State) : (nextSpc s).device = s.device := rfl
@[simp] theorem nextSpc_clock (s : State) : (nextSpc s).clock = s.clock := rfl
@[simp] theorem nextSpc_next (s : State) : (nextSpc s).next = s.next := rfl
@[simp] theorem nextSpc_frees (s : State) : (nextSpc s).frees = s.frees := rfl
@[simp] theorem nextSpc_agenda (s : State) : (nextSpc s).agenda = s.agenda := rfl
@[simp] theorem nextSpc_parkt (s : State) : (nextSpc s).parkt = s.parkt := rfl
@[simp] theorem nextSpc_age (s : State) : (nextSpc s).age = s.age := rfl
@[simp] theorem nextSpc_booted (s : State) : (nextSpc s).booted = s.booted := rfl
@[simp] theorem nextSpc_fail (s : State) : (nextSpc s).fail = s.fail := rfl
@[simp] theorem nextSpc_svn (s : State) : (nextSpc s).svn = s.svn := rfl
@[simp] theorem nextSpc_fuse (s : State) : (nextSpc s).fuse = s.fuse := rfl
@[simp] theorem nextSpc_store (s : State) : (nextSpc s).store = s.store := rfl
@[simp] theorem nextSpc_offer (s : State) : (nextSpc s).offer = s.offer := rfl
@[simp] theorem nextSpc_measure (s : State) : (nextSpc s).measure = s.measure := rfl
@[simp] theorem nextSpc_steps (s : State) : (nextSpc s).steps = s.steps := rfl
@[simp] theorem nextSpc_hot (s : State) : (nextSpc s).hot = s.hot := rfl
@[simp] theorem nextSpc_qlast (s : State) : (nextSpc s).qlast = s.qlast := rfl
@[simp] theorem nextSpc_busy (s : State) : (nextSpc s).busy = s.busy := rfl
@[simp] theorem nextSpc_know (s : State) : (nextSpc s).know = s.know := rfl

@[simp] theorem nextSpc_g_gid (s : State) : (nextSpc s).g.gid = s.g.gid := rfl
@[simp] theorem nextSpc_g_ctx (s : State) : (nextSpc s).g.ctx = s.g.ctx := rfl
@[simp] theorem nextSpc_g_core (s : State) : (nextSpc s).g.core = s.g.core := rfl
@[simp] theorem nextSpc_g_team (s : State) : (nextSpc s).g.team = s.g.team := rfl
@[simp] theorem nextSpc_g_index (s : State) : (nextSpc s).g.index = s.g.index := rfl
@[simp] theorem nextSpc_g_run (s : State) : (nextSpc s).g.run = s.g.run := rfl
@[simp] theorem nextSpc_g_priv (s : State) : (nextSpc s).g.priv = s.g.priv := rfl
@[simp] theorem nextSpc_g_sregs (s : State) : (nextSpc s).g.sregs = s.g.sregs := rfl
@[simp] theorem nextSpc_g_vregs (s : State) : (nextSpc s).g.vregs = s.g.vregs := rfl
@[simp] theorem nextSpc_g_vtags (s : State) : (nextSpc s).g.vtags = s.g.vtags := rfl
@[simp] theorem nextSpc_g_kregs (s : State) : (nextSpc s).g.kregs = s.g.kregs := rfl
@[simp] theorem nextSpc_g_tregs (s : State) : (nextSpc s).g.tregs = s.g.tregs := rfl
@[simp] theorem nextSpc_g_ttags (s : State) : (nextSpc s).g.ttags = s.g.ttags := rfl
@[simp] theorem nextSpc_g_blocks (s : State) : (nextSpc s).g.blocks = s.g.blocks := rfl
@[simp] theorem nextSpc_g_tiles (s : State) : (nextSpc s).g.tiles = s.g.tiles := rfl
@[simp] theorem nextSpc_g_handles (s : State) : (nextSpc s).g.handles = s.g.handles := rfl
@[simp] theorem nextSpc_g_splits (s : State) : (nextSpc s).g.splits = s.g.splits := rfl
@[simp] theorem nextSpc_g_overflow (s : State) : (nextSpc s).g.overflow = s.g.overflow := rfl
@[simp] theorem nextSpc_g_slot (s : State) : (nextSpc s).g.slot = s.g.slot := rfl
@[simp] theorem nextSpc_g_call (s : State) : (nextSpc s).g.call = s.g.call := rfl
@[simp] theorem nextSpc_g_calls (s : State) : (nextSpc s).g.calls = s.g.calls := rfl
@[simp] theorem nextSpc_g_ren (s : State) : (nextSpc s).g.ren = s.g.ren := rfl
@[simp] theorem nextSpc_g_renOld (s : State) : (nextSpc s).g.renOld = s.g.renOld := rfl
@[simp] theorem nextSpc_g_meld (s : State) : (nextSpc s).g.meld = s.g.meld := rfl
@[simp] theorem nextSpc_g_landings (s : State) : (nextSpc s).g.landings = s.g.landings := rfl
@[simp] theorem nextSpc_g_counters (s : State) : (nextSpc s).g.counters = s.g.counters := rfl
@[simp] theorem nextSpc_g_latches (s : State) : (nextSpc s).g.latches = s.g.latches := rfl
@[simp] theorem nextSpc_g_unacked (s : State) : (nextSpc s).g.unacked = s.g.unacked := rfl
@[simp] theorem nextSpc_g_stamp (s : State) : (nextSpc s).g.stamp = s.g.stamp := rfl
@[simp] theorem nextSpc_g_depth (s : State) : (nextSpc s).g.depth = s.g.depth := rfl
@[simp] theorem nextSpc_g_saves (s : State) : (nextSpc s).g.saves = s.g.saves := rfl
@[simp] theorem nextSpc_g_role (s : State) : (nextSpc s).g.role = s.g.role := rfl
@[simp] theorem nextSpc_g_tilew (s : State) : (nextSpc s).g.tilew = s.g.tilew := rfl
@[simp] theorem nextSpc_g_fmode (s : State) : (nextSpc s).g.fmode = s.g.fmode := rfl
@[simp] theorem nextSpc_g_flags (s : State) : (nextSpc s).g.flags = s.g.flags := rfl
@[simp] theorem nextSpc_g_seedlo (s : State) : (nextSpc s).g.seedlo = s.g.seedlo := rfl
@[simp] theorem nextSpc_g_seedhi (s : State) : (nextSpc s).g.seedhi = s.g.seedhi := rfl
@[simp] theorem nextSpc_g_cseq (s : State) : (nextSpc s).g.cseq = s.g.cseq := rfl
@[simp] theorem nextSpc_g_lanebase (s : State) : (nextSpc s).g.lanebase = s.g.lanebase := rfl
@[simp] theorem nextSpc_g_events (s : State) : (nextSpc s).g.events = s.g.events := rfl
@[simp] theorem nextSpc_g_gframe (s : State) : (nextSpc s).g.gframe = s.g.gframe := rfl
@[simp] theorem nextSpc_g_tasks (s : State) : (nextSpc s).g.tasks = s.g.tasks := rfl
@[simp] theorem nextSpc_g_wframes (s : State) : (nextSpc s).g.wframes = s.g.wframes := rfl
@[simp] theorem nextSpc_g_entryVa (s : State) : (nextSpc s).g.entryVa = s.g.entryVa := rfl
@[simp] theorem nextSpc_g_wait (s : State) : (nextSpc s).g.wait = s.g.wait := rfl
@[simp] theorem nextSpc_g_since (s : State) : (nextSpc s).g.since = s.g.since := rfl
@[simp] theorem nextSpc_g_parkable (s : State) : (nextSpc s).g.parkable = s.g.parkable := rfl
@[simp] theorem nextSpc_g_arrived (s : State) : (nextSpc s).g.arrived = s.g.arrived := rfl
@[simp] theorem nextSpc_g_carrived (s : State) : (nextSpc s).g.carrived = s.g.carrived := rfl
@[simp] theorem nextSpc_g_phase (s : State) : (nextSpc s).g.phase = s.g.phase := rfl
@[simp] theorem nextSpc_g_cphase (s : State) : (nextSpc s).g.cphase = s.g.cphase := rfl
@[simp] theorem nextSpc_g_named (s : State) : (nextSpc s).g.named = s.g.named := rfl
@[simp] theorem nextSpc_g_deliver (s : State) : (nextSpc s).g.deliver = s.g.deliver := rfl
@[simp] theorem nextSpc_g_mapping (s : State) : (nextSpc s).g.mapping = s.g.mapping := rfl
@[simp] theorem nextSpc_g_declined (s : State) : (nextSpc s).g.declined = s.g.declined := rfl
@[simp] theorem nextSpc_g_seat (s : State) : (nextSpc s).g.seat = s.g.seat := rfl
@[simp] theorem nextSpc_g_lastRun (s : State) : (nextSpc s).g.lastRun = s.g.lastRun := rfl
@[simp] theorem nextSpc_g_yielded (s : State) : (nextSpc s).g.yielded = s.g.yielded := rfl
@[simp] theorem nextSpc_g_lastLane (s : State) : (nextSpc s).g.lastLane = s.g.lastLane := rfl
@[simp] theorem nextSpc_g_leftover (s : State) : (nextSpc s).g.leftover = s.g.leftover := rfl
@[simp] theorem nextSpc_g_poison (s : State) : (nextSpc s).g.poison = s.g.poison := rfl
@[simp] theorem nextSpc_g_due (s : State) : (nextSpc s).g.due = s.g.due := rfl
@[simp] theorem nextSpc_g_dueAt (s : State) : (nextSpc s).g.dueAt = s.g.dueAt := rfl

@[simp] theorem nextSpc_g_spc (s : State) : (nextSpc s).g.spc = s.g.spc + 4 := rfl

/-! ### Scalar registers -/

@[simp] theorem writeS_ent (s : State) (r : Nat) (v : W64) : (writeS s r v).ent = s.ent := by unfold writeS; split <;> rfl
@[simp] theorem writeS_ev (s : State) (r : Nat) (v : W64) : (writeS s r v).ev = s.ev := by unfold writeS; split <;> rfl
@[simp] theorem writeS_groups (s : State) (r : Nat) (v : W64) : (writeS s r v).groups = s.groups := by unfold writeS; split <;> rfl
@[simp] theorem writeS_teams (s : State) (r : Nat) (v : W64) : (writeS s r v).teams = s.teams := by unfold writeS; split <;> rfl
@[simp] theorem writeS_grids (s : State) (r : Nat) (v : W64) : (writeS s r v).grids = s.grids := by unfold writeS; split <;> rfl
@[simp] theorem writeS_clusters (s : State) (r : Nat) (v : W64) : (writeS s r v).clusters = s.clusters := by unfold writeS; split <;> rfl
@[simp] theorem writeS_ends (s : State) (r : Nat) (v : W64) : (writeS s r v).ends = s.ends := by unfold writeS; split <;> rfl
@[simp] theorem writeS_awaits (s : State) (r : Nat) (v : W64) : (writeS s r v).awaits = s.awaits := by unfold writeS; split <;> rfl
@[simp] theorem writeS_zeros (s : State) (r : Nat) (v : W64) : (writeS s r v).zeros = s.zeros := by unfold writeS; split <;> rfl
@[simp] theorem writeS_asks (s : State) (r : Nat) (v : W64) : (writeS s r v).asks = s.asks := by unfold writeS; split <;> rfl
@[simp] theorem writeS_cores (s : State) (r : Nat) (v : W64) : (writeS s r v).cores = s.cores := by unfold writeS; split <;> rfl
@[simp] theorem writeS_ctxs (s : State) (r : Nat) (v : W64) : (writeS s r v).ctxs = s.ctxs := by unfold writeS; split <;> rfl
@[simp] theorem writeS_saved (s : State) (r : Nat) (v : W64) : (writeS s r v).saved = s.saved := by unfold writeS; split <;> rfl
@[simp] theorem writeS_queues (s : State) (r : Nat) (v : W64) : (writeS s r v).queues = s.queues := by unfold writeS; split <;> rfl
@[simp] theorem writeS_mem (s : State) (r : Nat) (v : W64) : (writeS s r v).mem = s.mem := by unfold writeS; split <;> rfl
@[simp] theorem writeS_records (s : State) (r : Nat) (v : W64) : (writeS s r v).records = s.records := by unfold writeS; split <;> rfl
@[simp] theorem writeS_poison (s : State) (r : Nat) (v : W64) : (writeS s r v).poison = s.poison := by unfold writeS; split <;> rfl
@[simp] theorem writeS_waiters (s : State) (r : Nat) (v : W64) : (writeS s r v).waiters = s.waiters := by unfold writeS; split <;> rfl
@[simp] theorem writeS_stores (s : State) (r : Nat) (v : W64) : (writeS s r v).stores = s.stores := by unfold writeS; split <;> rfl
@[simp] theorem writeS_props (s : State) (r : Nat) (v : W64) : (writeS s r v).props = s.props := by unfold writeS; split <;> rfl
@[simp] theorem writeS_copies (s : State) (r : Nat) (v : W64) : (writeS s r v).copies = s.copies := by unfold writeS; split <;> rfl
@[simp] theorem writeS_dtlb (s : State) (r : Nat) (v : W64) : (writeS s r v).dtlb = s.dtlb := by unfold writeS; split <;> rfl
@[simp] theorem writeS_ops (s : State) (r : Nat) (v : W64) : (writeS s r v).ops = s.ops := by unfold writeS; split <;> rfl
@[simp] theorem writeS_xreqs (s : State) (r : Nat) (v : W64) : (writeS s r v).xreqs = s.xreqs := by unfold writeS; split <;> rfl
@[simp] theorem writeS_comms (s : State) (r : Nat) (v : W64) : (writeS s r v).comms = s.comms := by unfold writeS; split <;> rfl
@[simp] theorem writeS_errors (s : State) (r : Nat) (v : W64) : (writeS s r v).errors = s.errors := by unfold writeS; split <;> rfl
@[simp] theorem writeS_faults (s : State) (r : Nat) (v : W64) : (writeS s r v).faults = s.faults := by unfold writeS; split <;> rfl
@[simp] theorem writeS_log (s : State) (r : Nat) (v : W64) : (writeS s r v).log = s.log := by unfold writeS; split <;> rfl
@[simp] theorem writeS_ints (s : State) (r : Nat) (v : W64) : (writeS s r v).ints = s.ints := by unfold writeS; split <;> rfl
@[simp] theorem writeS_replies (s : State) (r : Nat) (v : W64) : (writeS s r v).replies = s.replies := by unfold writeS; split <;> rfl
@[simp] theorem writeS_unreach (s : State) (r : Nat) (v : W64) : (writeS s r v).unreach = s.unreach := by unfold writeS; split <;> rfl
@[simp] theorem writeS_links (s : State) (r : Nat) (v : W64) : (writeS s r v).links = s.links := by unfold writeS; split <;> rfl
@[simp] theorem writeS_device (s : State) (r : Nat) (v : W64) : (writeS s r v).device = s.device := by unfold writeS; split <;> rfl
@[simp] theorem writeS_clock (s : State) (r : Nat) (v : W64) : (writeS s r v).clock = s.clock := by unfold writeS; split <;> rfl
@[simp] theorem writeS_next (s : State) (r : Nat) (v : W64) : (writeS s r v).next = s.next := by unfold writeS; split <;> rfl
@[simp] theorem writeS_frees (s : State) (r : Nat) (v : W64) : (writeS s r v).frees = s.frees := by unfold writeS; split <;> rfl
@[simp] theorem writeS_agenda (s : State) (r : Nat) (v : W64) : (writeS s r v).agenda = s.agenda := by unfold writeS; split <;> rfl
@[simp] theorem writeS_parkt (s : State) (r : Nat) (v : W64) : (writeS s r v).parkt = s.parkt := by unfold writeS; split <;> rfl
@[simp] theorem writeS_age (s : State) (r : Nat) (v : W64) : (writeS s r v).age = s.age := by unfold writeS; split <;> rfl
@[simp] theorem writeS_booted (s : State) (r : Nat) (v : W64) : (writeS s r v).booted = s.booted := by unfold writeS; split <;> rfl
@[simp] theorem writeS_fail (s : State) (r : Nat) (v : W64) : (writeS s r v).fail = s.fail := by unfold writeS; split <;> rfl
@[simp] theorem writeS_svn (s : State) (r : Nat) (v : W64) : (writeS s r v).svn = s.svn := by unfold writeS; split <;> rfl
@[simp] theorem writeS_fuse (s : State) (r : Nat) (v : W64) : (writeS s r v).fuse = s.fuse := by unfold writeS; split <;> rfl
@[simp] theorem writeS_store (s : State) (r : Nat) (v : W64) : (writeS s r v).store = s.store := by unfold writeS; split <;> rfl
@[simp] theorem writeS_offer (s : State) (r : Nat) (v : W64) : (writeS s r v).offer = s.offer := by unfold writeS; split <;> rfl
@[simp] theorem writeS_measure (s : State) (r : Nat) (v : W64) : (writeS s r v).measure = s.measure := by unfold writeS; split <;> rfl
@[simp] theorem writeS_steps (s : State) (r : Nat) (v : W64) : (writeS s r v).steps = s.steps := by unfold writeS; split <;> rfl
@[simp] theorem writeS_hot (s : State) (r : Nat) (v : W64) : (writeS s r v).hot = s.hot := by unfold writeS; split <;> rfl
@[simp] theorem writeS_qlast (s : State) (r : Nat) (v : W64) : (writeS s r v).qlast = s.qlast := by unfold writeS; split <;> rfl
@[simp] theorem writeS_busy (s : State) (r : Nat) (v : W64) : (writeS s r v).busy = s.busy := by unfold writeS; split <;> rfl
@[simp] theorem writeS_know (s : State) (r : Nat) (v : W64) : (writeS s r v).know = s.know := by unfold writeS; split <;> rfl

@[simp] theorem writeS_g_gid (s : State) (r : Nat) (v : W64) : (writeS s r v).g.gid = s.g.gid := by unfold writeS; split <;> rfl
@[simp] theorem writeS_g_ctx (s : State) (r : Nat) (v : W64) : (writeS s r v).g.ctx = s.g.ctx := by unfold writeS; split <;> rfl
@[simp] theorem writeS_g_core (s : State) (r : Nat) (v : W64) : (writeS s r v).g.core = s.g.core := by unfold writeS; split <;> rfl
@[simp] theorem writeS_g_team (s : State) (r : Nat) (v : W64) : (writeS s r v).g.team = s.g.team := by unfold writeS; split <;> rfl
@[simp] theorem writeS_g_index (s : State) (r : Nat) (v : W64) : (writeS s r v).g.index = s.g.index := by unfold writeS; split <;> rfl
@[simp] theorem writeS_g_run (s : State) (r : Nat) (v : W64) : (writeS s r v).g.run = s.g.run := by unfold writeS; split <;> rfl
@[simp] theorem writeS_g_spc (s : State) (r : Nat) (v : W64) : (writeS s r v).g.spc = s.g.spc := by unfold writeS; split <;> rfl
@[simp] theorem writeS_g_priv (s : State) (r : Nat) (v : W64) : (writeS s r v).g.priv = s.g.priv := by unfold writeS; split <;> rfl
@[simp] theorem writeS_g_vregs (s : State) (r : Nat) (v : W64) : (writeS s r v).g.vregs = s.g.vregs := by unfold writeS; split <;> rfl
@[simp] theorem writeS_g_vtags (s : State) (r : Nat) (v : W64) : (writeS s r v).g.vtags = s.g.vtags := by unfold writeS; split <;> rfl
@[simp] theorem writeS_g_kregs (s : State) (r : Nat) (v : W64) : (writeS s r v).g.kregs = s.g.kregs := by unfold writeS; split <;> rfl
@[simp] theorem writeS_g_tregs (s : State) (r : Nat) (v : W64) : (writeS s r v).g.tregs = s.g.tregs := by unfold writeS; split <;> rfl
@[simp] theorem writeS_g_ttags (s : State) (r : Nat) (v : W64) : (writeS s r v).g.ttags = s.g.ttags := by unfold writeS; split <;> rfl
@[simp] theorem writeS_g_blocks (s : State) (r : Nat) (v : W64) : (writeS s r v).g.blocks = s.g.blocks := by unfold writeS; split <;> rfl
@[simp] theorem writeS_g_tiles (s : State) (r : Nat) (v : W64) : (writeS s r v).g.tiles = s.g.tiles := by unfold writeS; split <;> rfl
@[simp] theorem writeS_g_handles (s : State) (r : Nat) (v : W64) : (writeS s r v).g.handles = s.g.handles := by unfold writeS; split <;> rfl
@[simp] theorem writeS_g_splits (s : State) (r : Nat) (v : W64) : (writeS s r v).g.splits = s.g.splits := by unfold writeS; split <;> rfl
@[simp] theorem writeS_g_overflow (s : State) (r : Nat) (v : W64) : (writeS s r v).g.overflow = s.g.overflow := by unfold writeS; split <;> rfl
@[simp] theorem writeS_g_slot (s : State) (r : Nat) (v : W64) : (writeS s r v).g.slot = s.g.slot := by unfold writeS; split <;> rfl
@[simp] theorem writeS_g_call (s : State) (r : Nat) (v : W64) : (writeS s r v).g.call = s.g.call := by unfold writeS; split <;> rfl
@[simp] theorem writeS_g_calls (s : State) (r : Nat) (v : W64) : (writeS s r v).g.calls = s.g.calls := by unfold writeS; split <;> rfl
@[simp] theorem writeS_g_ren (s : State) (r : Nat) (v : W64) : (writeS s r v).g.ren = s.g.ren := by unfold writeS; split <;> rfl
@[simp] theorem writeS_g_renOld (s : State) (r : Nat) (v : W64) : (writeS s r v).g.renOld = s.g.renOld := by unfold writeS; split <;> rfl
@[simp] theorem writeS_g_meld (s : State) (r : Nat) (v : W64) : (writeS s r v).g.meld = s.g.meld := by unfold writeS; split <;> rfl
@[simp] theorem writeS_g_landings (s : State) (r : Nat) (v : W64) : (writeS s r v).g.landings = s.g.landings := by unfold writeS; split <;> rfl
@[simp] theorem writeS_g_counters (s : State) (r : Nat) (v : W64) : (writeS s r v).g.counters = s.g.counters := by unfold writeS; split <;> rfl
@[simp] theorem writeS_g_latches (s : State) (r : Nat) (v : W64) : (writeS s r v).g.latches = s.g.latches := by unfold writeS; split <;> rfl
@[simp] theorem writeS_g_unacked (s : State) (r : Nat) (v : W64) : (writeS s r v).g.unacked = s.g.unacked := by unfold writeS; split <;> rfl
@[simp] theorem writeS_g_stamp (s : State) (r : Nat) (v : W64) : (writeS s r v).g.stamp = s.g.stamp := by unfold writeS; split <;> rfl
@[simp] theorem writeS_g_depth (s : State) (r : Nat) (v : W64) : (writeS s r v).g.depth = s.g.depth := by unfold writeS; split <;> rfl
@[simp] theorem writeS_g_saves (s : State) (r : Nat) (v : W64) : (writeS s r v).g.saves = s.g.saves := by unfold writeS; split <;> rfl
@[simp] theorem writeS_g_role (s : State) (r : Nat) (v : W64) : (writeS s r v).g.role = s.g.role := by unfold writeS; split <;> rfl
@[simp] theorem writeS_g_tilew (s : State) (r : Nat) (v : W64) : (writeS s r v).g.tilew = s.g.tilew := by unfold writeS; split <;> rfl
@[simp] theorem writeS_g_fmode (s : State) (r : Nat) (v : W64) : (writeS s r v).g.fmode = s.g.fmode := by unfold writeS; split <;> rfl
@[simp] theorem writeS_g_flags (s : State) (r : Nat) (v : W64) : (writeS s r v).g.flags = s.g.flags := by unfold writeS; split <;> rfl
@[simp] theorem writeS_g_seedlo (s : State) (r : Nat) (v : W64) : (writeS s r v).g.seedlo = s.g.seedlo := by unfold writeS; split <;> rfl
@[simp] theorem writeS_g_seedhi (s : State) (r : Nat) (v : W64) : (writeS s r v).g.seedhi = s.g.seedhi := by unfold writeS; split <;> rfl
@[simp] theorem writeS_g_cseq (s : State) (r : Nat) (v : W64) : (writeS s r v).g.cseq = s.g.cseq := by unfold writeS; split <;> rfl
@[simp] theorem writeS_g_lanebase (s : State) (r : Nat) (v : W64) : (writeS s r v).g.lanebase = s.g.lanebase := by unfold writeS; split <;> rfl
@[simp] theorem writeS_g_events (s : State) (r : Nat) (v : W64) : (writeS s r v).g.events = s.g.events := by unfold writeS; split <;> rfl
@[simp] theorem writeS_g_gframe (s : State) (r : Nat) (v : W64) : (writeS s r v).g.gframe = s.g.gframe := by unfold writeS; split <;> rfl
@[simp] theorem writeS_g_tasks (s : State) (r : Nat) (v : W64) : (writeS s r v).g.tasks = s.g.tasks := by unfold writeS; split <;> rfl
@[simp] theorem writeS_g_wframes (s : State) (r : Nat) (v : W64) : (writeS s r v).g.wframes = s.g.wframes := by unfold writeS; split <;> rfl
@[simp] theorem writeS_g_entryVa (s : State) (r : Nat) (v : W64) : (writeS s r v).g.entryVa = s.g.entryVa := by unfold writeS; split <;> rfl
@[simp] theorem writeS_g_wait (s : State) (r : Nat) (v : W64) : (writeS s r v).g.wait = s.g.wait := by unfold writeS; split <;> rfl
@[simp] theorem writeS_g_since (s : State) (r : Nat) (v : W64) : (writeS s r v).g.since = s.g.since := by unfold writeS; split <;> rfl
@[simp] theorem writeS_g_parkable (s : State) (r : Nat) (v : W64) : (writeS s r v).g.parkable = s.g.parkable := by unfold writeS; split <;> rfl
@[simp] theorem writeS_g_arrived (s : State) (r : Nat) (v : W64) : (writeS s r v).g.arrived = s.g.arrived := by unfold writeS; split <;> rfl
@[simp] theorem writeS_g_carrived (s : State) (r : Nat) (v : W64) : (writeS s r v).g.carrived = s.g.carrived := by unfold writeS; split <;> rfl
@[simp] theorem writeS_g_phase (s : State) (r : Nat) (v : W64) : (writeS s r v).g.phase = s.g.phase := by unfold writeS; split <;> rfl
@[simp] theorem writeS_g_cphase (s : State) (r : Nat) (v : W64) : (writeS s r v).g.cphase = s.g.cphase := by unfold writeS; split <;> rfl
@[simp] theorem writeS_g_named (s : State) (r : Nat) (v : W64) : (writeS s r v).g.named = s.g.named := by unfold writeS; split <;> rfl
@[simp] theorem writeS_g_deliver (s : State) (r : Nat) (v : W64) : (writeS s r v).g.deliver = s.g.deliver := by unfold writeS; split <;> rfl
@[simp] theorem writeS_g_mapping (s : State) (r : Nat) (v : W64) : (writeS s r v).g.mapping = s.g.mapping := by unfold writeS; split <;> rfl
@[simp] theorem writeS_g_declined (s : State) (r : Nat) (v : W64) : (writeS s r v).g.declined = s.g.declined := by unfold writeS; split <;> rfl
@[simp] theorem writeS_g_seat (s : State) (r : Nat) (v : W64) : (writeS s r v).g.seat = s.g.seat := by unfold writeS; split <;> rfl
@[simp] theorem writeS_g_lastRun (s : State) (r : Nat) (v : W64) : (writeS s r v).g.lastRun = s.g.lastRun := by unfold writeS; split <;> rfl
@[simp] theorem writeS_g_yielded (s : State) (r : Nat) (v : W64) : (writeS s r v).g.yielded = s.g.yielded := by unfold writeS; split <;> rfl
@[simp] theorem writeS_g_lastLane (s : State) (r : Nat) (v : W64) : (writeS s r v).g.lastLane = s.g.lastLane := by unfold writeS; split <;> rfl
@[simp] theorem writeS_g_leftover (s : State) (r : Nat) (v : W64) : (writeS s r v).g.leftover = s.g.leftover := by unfold writeS; split <;> rfl
@[simp] theorem writeS_g_due (s : State) (r : Nat) (v : W64) : (writeS s r v).g.due = s.g.due := by unfold writeS; split <;> rfl
@[simp] theorem writeS_g_dueAt (s : State) (r : Nat) (v : W64) : (writeS s r v).g.dueAt = s.g.dueAt := by unfold writeS; split <;> rfl

/-! ### Cores, contexts, records -/

@[simp] theorem setCore_g (s : State) (c : Core) : (setCore s c).g = s.g := rfl
@[simp] theorem setCore_ent (s : State) (c : Core) : (setCore s c).ent = s.ent := rfl
@[simp] theorem setCore_ev (s : State) (c : Core) : (setCore s c).ev = s.ev := rfl
@[simp] theorem setCore_groups (s : State) (c : Core) : (setCore s c).groups = s.groups := rfl
@[simp] theorem setCore_teams (s : State) (c : Core) : (setCore s c).teams = s.teams := rfl
@[simp] theorem setCore_grids (s : State) (c : Core) : (setCore s c).grids = s.grids := rfl
@[simp] theorem setCore_clusters (s : State) (c : Core) : (setCore s c).clusters = s.clusters := rfl
@[simp] theorem setCore_ends (s : State) (c : Core) : (setCore s c).ends = s.ends := rfl
@[simp] theorem setCore_awaits (s : State) (c : Core) : (setCore s c).awaits = s.awaits := rfl
@[simp] theorem setCore_zeros (s : State) (c : Core) : (setCore s c).zeros = s.zeros := rfl
@[simp] theorem setCore_asks (s : State) (c : Core) : (setCore s c).asks = s.asks := rfl
@[simp] theorem setCore_ctxs (s : State) (c : Core) : (setCore s c).ctxs = s.ctxs := rfl
@[simp] theorem setCore_saved (s : State) (c : Core) : (setCore s c).saved = s.saved := rfl
@[simp] theorem setCore_queues (s : State) (c : Core) : (setCore s c).queues = s.queues := rfl
@[simp] theorem setCore_mem (s : State) (c : Core) : (setCore s c).mem = s.mem := rfl
@[simp] theorem setCore_records (s : State) (c : Core) : (setCore s c).records = s.records := rfl
@[simp] theorem setCore_poison (s : State) (c : Core) : (setCore s c).poison = s.poison := rfl
@[simp] theorem setCore_waiters (s : State) (c : Core) : (setCore s c).waiters = s.waiters := rfl
@[simp] theorem setCore_stores (s : State) (c : Core) : (setCore s c).stores = s.stores := rfl
@[simp] theorem setCore_props (s : State) (c : Core) : (setCore s c).props = s.props := rfl
@[simp] theorem setCore_copies (s : State) (c : Core) : (setCore s c).copies = s.copies := rfl
@[simp] theorem setCore_dtlb (s : State) (c : Core) : (setCore s c).dtlb = s.dtlb := rfl
@[simp] theorem setCore_ops (s : State) (c : Core) : (setCore s c).ops = s.ops := rfl
@[simp] theorem setCore_xreqs (s : State) (c : Core) : (setCore s c).xreqs = s.xreqs := rfl
@[simp] theorem setCore_comms (s : State) (c : Core) : (setCore s c).comms = s.comms := rfl
@[simp] theorem setCore_errors (s : State) (c : Core) : (setCore s c).errors = s.errors := rfl
@[simp] theorem setCore_faults (s : State) (c : Core) : (setCore s c).faults = s.faults := rfl
@[simp] theorem setCore_log (s : State) (c : Core) : (setCore s c).log = s.log := rfl
@[simp] theorem setCore_ints (s : State) (c : Core) : (setCore s c).ints = s.ints := rfl
@[simp] theorem setCore_replies (s : State) (c : Core) : (setCore s c).replies = s.replies := rfl
@[simp] theorem setCore_unreach (s : State) (c : Core) : (setCore s c).unreach = s.unreach := rfl
@[simp] theorem setCore_links (s : State) (c : Core) : (setCore s c).links = s.links := rfl
@[simp] theorem setCore_device (s : State) (c : Core) : (setCore s c).device = s.device := rfl
@[simp] theorem setCore_clock (s : State) (c : Core) : (setCore s c).clock = s.clock := rfl
@[simp] theorem setCore_next (s : State) (c : Core) : (setCore s c).next = s.next := rfl
@[simp] theorem setCore_frees (s : State) (c : Core) : (setCore s c).frees = s.frees := rfl
@[simp] theorem setCore_agenda (s : State) (c : Core) : (setCore s c).agenda = s.agenda := rfl
@[simp] theorem setCore_parkt (s : State) (c : Core) : (setCore s c).parkt = s.parkt := rfl
@[simp] theorem setCore_age (s : State) (c : Core) : (setCore s c).age = s.age := rfl
@[simp] theorem setCore_booted (s : State) (c : Core) : (setCore s c).booted = s.booted := rfl
@[simp] theorem setCore_fail (s : State) (c : Core) : (setCore s c).fail = s.fail := rfl
@[simp] theorem setCore_svn (s : State) (c : Core) : (setCore s c).svn = s.svn := rfl
@[simp] theorem setCore_fuse (s : State) (c : Core) : (setCore s c).fuse = s.fuse := rfl
@[simp] theorem setCore_store (s : State) (c : Core) : (setCore s c).store = s.store := rfl
@[simp] theorem setCore_offer (s : State) (c : Core) : (setCore s c).offer = s.offer := rfl
@[simp] theorem setCore_measure (s : State) (c : Core) : (setCore s c).measure = s.measure := rfl
@[simp] theorem setCore_steps (s : State) (c : Core) : (setCore s c).steps = s.steps := rfl
@[simp] theorem setCore_hot (s : State) (c : Core) : (setCore s c).hot = s.hot := rfl
@[simp] theorem setCore_qlast (s : State) (c : Core) : (setCore s c).qlast = s.qlast := rfl
@[simp] theorem setCore_busy (s : State) (c : Core) : (setCore s c).busy = s.busy := rfl
@[simp] theorem setCore_know (s : State) (c : Core) : (setCore s c).know = s.know := rfl

@[simp] theorem modCtx_g (s : State) (c : Nat) (f : Context → Context) : (modCtx s c f).g = s.g := rfl
@[simp] theorem modCtx_ent (s : State) (c : Nat) (f : Context → Context) : (modCtx s c f).ent = s.ent := rfl
@[simp] theorem modCtx_ev (s : State) (c : Nat) (f : Context → Context) : (modCtx s c f).ev = s.ev := rfl
@[simp] theorem modCtx_groups (s : State) (c : Nat) (f : Context → Context) : (modCtx s c f).groups = s.groups := rfl
@[simp] theorem modCtx_teams (s : State) (c : Nat) (f : Context → Context) : (modCtx s c f).teams = s.teams := rfl
@[simp] theorem modCtx_grids (s : State) (c : Nat) (f : Context → Context) : (modCtx s c f).grids = s.grids := rfl
@[simp] theorem modCtx_clusters (s : State) (c : Nat) (f : Context → Context) : (modCtx s c f).clusters = s.clusters := rfl
@[simp] theorem modCtx_ends (s : State) (c : Nat) (f : Context → Context) : (modCtx s c f).ends = s.ends := rfl
@[simp] theorem modCtx_awaits (s : State) (c : Nat) (f : Context → Context) : (modCtx s c f).awaits = s.awaits := rfl
@[simp] theorem modCtx_zeros (s : State) (c : Nat) (f : Context → Context) : (modCtx s c f).zeros = s.zeros := rfl
@[simp] theorem modCtx_asks (s : State) (c : Nat) (f : Context → Context) : (modCtx s c f).asks = s.asks := rfl
@[simp] theorem modCtx_cores (s : State) (c : Nat) (f : Context → Context) : (modCtx s c f).cores = s.cores := rfl
@[simp] theorem modCtx_saved (s : State) (c : Nat) (f : Context → Context) : (modCtx s c f).saved = s.saved := rfl
@[simp] theorem modCtx_queues (s : State) (c : Nat) (f : Context → Context) : (modCtx s c f).queues = s.queues := rfl
@[simp] theorem modCtx_mem (s : State) (c : Nat) (f : Context → Context) : (modCtx s c f).mem = s.mem := rfl
@[simp] theorem modCtx_records (s : State) (c : Nat) (f : Context → Context) : (modCtx s c f).records = s.records := rfl
@[simp] theorem modCtx_poison (s : State) (c : Nat) (f : Context → Context) : (modCtx s c f).poison = s.poison := rfl
@[simp] theorem modCtx_waiters (s : State) (c : Nat) (f : Context → Context) : (modCtx s c f).waiters = s.waiters := rfl
@[simp] theorem modCtx_stores (s : State) (c : Nat) (f : Context → Context) : (modCtx s c f).stores = s.stores := rfl
@[simp] theorem modCtx_props (s : State) (c : Nat) (f : Context → Context) : (modCtx s c f).props = s.props := rfl
@[simp] theorem modCtx_copies (s : State) (c : Nat) (f : Context → Context) : (modCtx s c f).copies = s.copies := rfl
@[simp] theorem modCtx_dtlb (s : State) (c : Nat) (f : Context → Context) : (modCtx s c f).dtlb = s.dtlb := rfl
@[simp] theorem modCtx_ops (s : State) (c : Nat) (f : Context → Context) : (modCtx s c f).ops = s.ops := rfl
@[simp] theorem modCtx_xreqs (s : State) (c : Nat) (f : Context → Context) : (modCtx s c f).xreqs = s.xreqs := rfl
@[simp] theorem modCtx_comms (s : State) (c : Nat) (f : Context → Context) : (modCtx s c f).comms = s.comms := rfl
@[simp] theorem modCtx_errors (s : State) (c : Nat) (f : Context → Context) : (modCtx s c f).errors = s.errors := rfl
@[simp] theorem modCtx_faults (s : State) (c : Nat) (f : Context → Context) : (modCtx s c f).faults = s.faults := rfl
@[simp] theorem modCtx_log (s : State) (c : Nat) (f : Context → Context) : (modCtx s c f).log = s.log := rfl
@[simp] theorem modCtx_ints (s : State) (c : Nat) (f : Context → Context) : (modCtx s c f).ints = s.ints := rfl
@[simp] theorem modCtx_replies (s : State) (c : Nat) (f : Context → Context) : (modCtx s c f).replies = s.replies := rfl
@[simp] theorem modCtx_unreach (s : State) (c : Nat) (f : Context → Context) : (modCtx s c f).unreach = s.unreach := rfl
@[simp] theorem modCtx_links (s : State) (c : Nat) (f : Context → Context) : (modCtx s c f).links = s.links := rfl
@[simp] theorem modCtx_device (s : State) (c : Nat) (f : Context → Context) : (modCtx s c f).device = s.device := rfl
@[simp] theorem modCtx_clock (s : State) (c : Nat) (f : Context → Context) : (modCtx s c f).clock = s.clock := rfl
@[simp] theorem modCtx_next (s : State) (c : Nat) (f : Context → Context) : (modCtx s c f).next = s.next := rfl
@[simp] theorem modCtx_frees (s : State) (c : Nat) (f : Context → Context) : (modCtx s c f).frees = s.frees := rfl
@[simp] theorem modCtx_agenda (s : State) (c : Nat) (f : Context → Context) : (modCtx s c f).agenda = s.agenda := rfl
@[simp] theorem modCtx_parkt (s : State) (c : Nat) (f : Context → Context) : (modCtx s c f).parkt = s.parkt := rfl
@[simp] theorem modCtx_age (s : State) (c : Nat) (f : Context → Context) : (modCtx s c f).age = s.age := rfl
@[simp] theorem modCtx_booted (s : State) (c : Nat) (f : Context → Context) : (modCtx s c f).booted = s.booted := rfl
@[simp] theorem modCtx_fail (s : State) (c : Nat) (f : Context → Context) : (modCtx s c f).fail = s.fail := rfl
@[simp] theorem modCtx_svn (s : State) (c : Nat) (f : Context → Context) : (modCtx s c f).svn = s.svn := rfl
@[simp] theorem modCtx_fuse (s : State) (c : Nat) (f : Context → Context) : (modCtx s c f).fuse = s.fuse := rfl
@[simp] theorem modCtx_store (s : State) (c : Nat) (f : Context → Context) : (modCtx s c f).store = s.store := rfl
@[simp] theorem modCtx_offer (s : State) (c : Nat) (f : Context → Context) : (modCtx s c f).offer = s.offer := rfl
@[simp] theorem modCtx_measure (s : State) (c : Nat) (f : Context → Context) : (modCtx s c f).measure = s.measure := rfl
@[simp] theorem modCtx_steps (s : State) (c : Nat) (f : Context → Context) : (modCtx s c f).steps = s.steps := rfl
@[simp] theorem modCtx_hot (s : State) (c : Nat) (f : Context → Context) : (modCtx s c f).hot = s.hot := rfl
@[simp] theorem modCtx_qlast (s : State) (c : Nat) (f : Context → Context) : (modCtx s c f).qlast = s.qlast := rfl
@[simp] theorem modCtx_busy (s : State) (c : Nat) (f : Context → Context) : (modCtx s c f).busy = s.busy := rfl
@[simp] theorem modCtx_know (s : State) (c : Nat) (f : Context → Context) : (modCtx s c f).know = s.know := rfl

@[simp] theorem postError_g (s : State) (k : ErrorKind) (c : BitVec 8) (a : W64) : (postError s k c a).g = s.g := rfl
@[simp] theorem postError_ent (s : State) (k : ErrorKind) (c : BitVec 8) (a : W64) : (postError s k c a).ent = s.ent := rfl
@[simp] theorem postError_ev (s : State) (k : ErrorKind) (c : BitVec 8) (a : W64) : (postError s k c a).ev = s.ev := rfl
@[simp] theorem postError_groups (s : State) (k : ErrorKind) (c : BitVec 8) (a : W64) : (postError s k c a).groups = s.groups := rfl
@[simp] theorem postError_teams (s : State) (k : ErrorKind) (c : BitVec 8) (a : W64) : (postError s k c a).teams = s.teams := rfl
@[simp] theorem postError_grids (s : State) (k : ErrorKind) (c : BitVec 8) (a : W64) : (postError s k c a).grids = s.grids := rfl
@[simp] theorem postError_clusters (s : State) (k : ErrorKind) (c : BitVec 8) (a : W64) : (postError s k c a).clusters = s.clusters := rfl
@[simp] theorem postError_ends (s : State) (k : ErrorKind) (c : BitVec 8) (a : W64) : (postError s k c a).ends = s.ends := rfl
@[simp] theorem postError_awaits (s : State) (k : ErrorKind) (c : BitVec 8) (a : W64) : (postError s k c a).awaits = s.awaits := rfl
@[simp] theorem postError_zeros (s : State) (k : ErrorKind) (c : BitVec 8) (a : W64) : (postError s k c a).zeros = s.zeros := rfl
@[simp] theorem postError_asks (s : State) (k : ErrorKind) (c : BitVec 8) (a : W64) : (postError s k c a).asks = s.asks := rfl
@[simp] theorem postError_cores (s : State) (k : ErrorKind) (c : BitVec 8) (a : W64) : (postError s k c a).cores = s.cores := rfl
@[simp] theorem postError_ctxs (s : State) (k : ErrorKind) (c : BitVec 8) (a : W64) : (postError s k c a).ctxs = s.ctxs := rfl
@[simp] theorem postError_saved (s : State) (k : ErrorKind) (c : BitVec 8) (a : W64) : (postError s k c a).saved = s.saved := rfl
@[simp] theorem postError_queues (s : State) (k : ErrorKind) (c : BitVec 8) (a : W64) : (postError s k c a).queues = s.queues := rfl
@[simp] theorem postError_mem (s : State) (k : ErrorKind) (c : BitVec 8) (a : W64) : (postError s k c a).mem = s.mem := rfl
@[simp] theorem postError_records (s : State) (k : ErrorKind) (c : BitVec 8) (a : W64) : (postError s k c a).records = s.records := rfl
@[simp] theorem postError_poison (s : State) (k : ErrorKind) (c : BitVec 8) (a : W64) : (postError s k c a).poison = s.poison := rfl
@[simp] theorem postError_waiters (s : State) (k : ErrorKind) (c : BitVec 8) (a : W64) : (postError s k c a).waiters = s.waiters := rfl
@[simp] theorem postError_stores (s : State) (k : ErrorKind) (c : BitVec 8) (a : W64) : (postError s k c a).stores = s.stores := rfl
@[simp] theorem postError_props (s : State) (k : ErrorKind) (c : BitVec 8) (a : W64) : (postError s k c a).props = s.props := rfl
@[simp] theorem postError_copies (s : State) (k : ErrorKind) (c : BitVec 8) (a : W64) : (postError s k c a).copies = s.copies := rfl
@[simp] theorem postError_dtlb (s : State) (k : ErrorKind) (c : BitVec 8) (a : W64) : (postError s k c a).dtlb = s.dtlb := rfl
@[simp] theorem postError_ops (s : State) (k : ErrorKind) (c : BitVec 8) (a : W64) : (postError s k c a).ops = s.ops := rfl
@[simp] theorem postError_xreqs (s : State) (k : ErrorKind) (c : BitVec 8) (a : W64) : (postError s k c a).xreqs = s.xreqs := rfl
@[simp] theorem postError_comms (s : State) (k : ErrorKind) (c : BitVec 8) (a : W64) : (postError s k c a).comms = s.comms := rfl
@[simp] theorem postError_faults (s : State) (k : ErrorKind) (c : BitVec 8) (a : W64) : (postError s k c a).faults = s.faults := rfl
@[simp] theorem postError_log (s : State) (k : ErrorKind) (c : BitVec 8) (a : W64) : (postError s k c a).log = s.log := rfl
@[simp] theorem postError_ints (s : State) (k : ErrorKind) (c : BitVec 8) (a : W64) : (postError s k c a).ints = s.ints := rfl
@[simp] theorem postError_replies (s : State) (k : ErrorKind) (c : BitVec 8) (a : W64) : (postError s k c a).replies = s.replies := rfl
@[simp] theorem postError_unreach (s : State) (k : ErrorKind) (c : BitVec 8) (a : W64) : (postError s k c a).unreach = s.unreach := rfl
@[simp] theorem postError_links (s : State) (k : ErrorKind) (c : BitVec 8) (a : W64) : (postError s k c a).links = s.links := rfl
@[simp] theorem postError_device (s : State) (k : ErrorKind) (c : BitVec 8) (a : W64) : (postError s k c a).device = s.device := rfl
@[simp] theorem postError_clock (s : State) (k : ErrorKind) (c : BitVec 8) (a : W64) : (postError s k c a).clock = s.clock := rfl
@[simp] theorem postError_next (s : State) (k : ErrorKind) (c : BitVec 8) (a : W64) : (postError s k c a).next = s.next := rfl
@[simp] theorem postError_frees (s : State) (k : ErrorKind) (c : BitVec 8) (a : W64) : (postError s k c a).frees = s.frees := rfl
@[simp] theorem postError_agenda (s : State) (k : ErrorKind) (c : BitVec 8) (a : W64) : (postError s k c a).agenda = s.agenda := rfl
@[simp] theorem postError_parkt (s : State) (k : ErrorKind) (c : BitVec 8) (a : W64) : (postError s k c a).parkt = s.parkt := rfl
@[simp] theorem postError_age (s : State) (k : ErrorKind) (c : BitVec 8) (a : W64) : (postError s k c a).age = s.age := rfl
@[simp] theorem postError_booted (s : State) (k : ErrorKind) (c : BitVec 8) (a : W64) : (postError s k c a).booted = s.booted := rfl
@[simp] theorem postError_fail (s : State) (k : ErrorKind) (c : BitVec 8) (a : W64) : (postError s k c a).fail = s.fail := rfl
@[simp] theorem postError_svn (s : State) (k : ErrorKind) (c : BitVec 8) (a : W64) : (postError s k c a).svn = s.svn := rfl
@[simp] theorem postError_fuse (s : State) (k : ErrorKind) (c : BitVec 8) (a : W64) : (postError s k c a).fuse = s.fuse := rfl
@[simp] theorem postError_store (s : State) (k : ErrorKind) (c : BitVec 8) (a : W64) : (postError s k c a).store = s.store := rfl
@[simp] theorem postError_offer (s : State) (k : ErrorKind) (c : BitVec 8) (a : W64) : (postError s k c a).offer = s.offer := rfl
@[simp] theorem postError_measure (s : State) (k : ErrorKind) (c : BitVec 8) (a : W64) : (postError s k c a).measure = s.measure := rfl
@[simp] theorem postError_steps (s : State) (k : ErrorKind) (c : BitVec 8) (a : W64) : (postError s k c a).steps = s.steps := rfl
@[simp] theorem postError_hot (s : State) (k : ErrorKind) (c : BitVec 8) (a : W64) : (postError s k c a).hot = s.hot := rfl
@[simp] theorem postError_qlast (s : State) (k : ErrorKind) (c : BitVec 8) (a : W64) : (postError s k c a).qlast = s.qlast := rfl
@[simp] theorem postError_busy (s : State) (k : ErrorKind) (c : BitVec 8) (a : W64) : (postError s k c a).busy = s.busy := rfl
@[simp] theorem postError_know (s : State) (k : ErrorKind) (c : BitVec 8) (a : W64) : (postError s k c a).know = s.know := rfl

@[simp] theorem askGrow_g (s : State) (c : Nat) (b : Bool) : (askGrow s c b).g = s.g := by unfold askGrow; split <;> rfl
@[simp] theorem askGrow_ent (s : State) (c : Nat) (b : Bool) : (askGrow s c b).ent = s.ent := by unfold askGrow; split <;> rfl
@[simp] theorem askGrow_ev (s : State) (c : Nat) (b : Bool) : (askGrow s c b).ev = s.ev := by unfold askGrow; split <;> rfl
@[simp] theorem askGrow_groups (s : State) (c : Nat) (b : Bool) : (askGrow s c b).groups = s.groups := by unfold askGrow; split <;> rfl
@[simp] theorem askGrow_teams (s : State) (c : Nat) (b : Bool) : (askGrow s c b).teams = s.teams := by unfold askGrow; split <;> rfl
@[simp] theorem askGrow_grids (s : State) (c : Nat) (b : Bool) : (askGrow s c b).grids = s.grids := by unfold askGrow; split <;> rfl
@[simp] theorem askGrow_clusters (s : State) (c : Nat) (b : Bool) : (askGrow s c b).clusters = s.clusters := by unfold askGrow; split <;> rfl
@[simp] theorem askGrow_ends (s : State) (c : Nat) (b : Bool) : (askGrow s c b).ends = s.ends := by unfold askGrow; split <;> rfl
@[simp] theorem askGrow_awaits (s : State) (c : Nat) (b : Bool) : (askGrow s c b).awaits = s.awaits := by unfold askGrow; split <;> rfl
@[simp] theorem askGrow_zeros (s : State) (c : Nat) (b : Bool) : (askGrow s c b).zeros = s.zeros := by unfold askGrow; split <;> rfl
@[simp] theorem askGrow_cores (s : State) (c : Nat) (b : Bool) : (askGrow s c b).cores = s.cores := by unfold askGrow; split <;> rfl
@[simp] theorem askGrow_ctxs (s : State) (c : Nat) (b : Bool) : (askGrow s c b).ctxs = s.ctxs := by unfold askGrow; split <;> rfl
@[simp] theorem askGrow_saved (s : State) (c : Nat) (b : Bool) : (askGrow s c b).saved = s.saved := by unfold askGrow; split <;> rfl
@[simp] theorem askGrow_queues (s : State) (c : Nat) (b : Bool) : (askGrow s c b).queues = s.queues := by unfold askGrow; split <;> rfl
@[simp] theorem askGrow_mem (s : State) (c : Nat) (b : Bool) : (askGrow s c b).mem = s.mem := by unfold askGrow; split <;> rfl
@[simp] theorem askGrow_records (s : State) (c : Nat) (b : Bool) : (askGrow s c b).records = s.records := by unfold askGrow; split <;> rfl
@[simp] theorem askGrow_poison (s : State) (c : Nat) (b : Bool) : (askGrow s c b).poison = s.poison := by unfold askGrow; split <;> rfl
@[simp] theorem askGrow_waiters (s : State) (c : Nat) (b : Bool) : (askGrow s c b).waiters = s.waiters := by unfold askGrow; split <;> rfl
@[simp] theorem askGrow_stores (s : State) (c : Nat) (b : Bool) : (askGrow s c b).stores = s.stores := by unfold askGrow; split <;> rfl
@[simp] theorem askGrow_props (s : State) (c : Nat) (b : Bool) : (askGrow s c b).props = s.props := by unfold askGrow; split <;> rfl
@[simp] theorem askGrow_copies (s : State) (c : Nat) (b : Bool) : (askGrow s c b).copies = s.copies := by unfold askGrow; split <;> rfl
@[simp] theorem askGrow_dtlb (s : State) (c : Nat) (b : Bool) : (askGrow s c b).dtlb = s.dtlb := by unfold askGrow; split <;> rfl
@[simp] theorem askGrow_ops (s : State) (c : Nat) (b : Bool) : (askGrow s c b).ops = s.ops := by unfold askGrow; split <;> rfl
@[simp] theorem askGrow_xreqs (s : State) (c : Nat) (b : Bool) : (askGrow s c b).xreqs = s.xreqs := by unfold askGrow; split <;> rfl
@[simp] theorem askGrow_comms (s : State) (c : Nat) (b : Bool) : (askGrow s c b).comms = s.comms := by unfold askGrow; split <;> rfl
@[simp] theorem askGrow_errors (s : State) (c : Nat) (b : Bool) : (askGrow s c b).errors = s.errors := by unfold askGrow; split <;> rfl
@[simp] theorem askGrow_faults (s : State) (c : Nat) (b : Bool) : (askGrow s c b).faults = s.faults := by unfold askGrow; split <;> rfl
@[simp] theorem askGrow_log (s : State) (c : Nat) (b : Bool) : (askGrow s c b).log = s.log := by unfold askGrow; split <;> rfl
@[simp] theorem askGrow_ints (s : State) (c : Nat) (b : Bool) : (askGrow s c b).ints = s.ints := by unfold askGrow; split <;> rfl
@[simp] theorem askGrow_replies (s : State) (c : Nat) (b : Bool) : (askGrow s c b).replies = s.replies := by unfold askGrow; split <;> rfl
@[simp] theorem askGrow_unreach (s : State) (c : Nat) (b : Bool) : (askGrow s c b).unreach = s.unreach := by unfold askGrow; split <;> rfl
@[simp] theorem askGrow_links (s : State) (c : Nat) (b : Bool) : (askGrow s c b).links = s.links := by unfold askGrow; split <;> rfl
@[simp] theorem askGrow_device (s : State) (c : Nat) (b : Bool) : (askGrow s c b).device = s.device := by unfold askGrow; split <;> rfl
@[simp] theorem askGrow_clock (s : State) (c : Nat) (b : Bool) : (askGrow s c b).clock = s.clock := by unfold askGrow; split <;> rfl
@[simp] theorem askGrow_next (s : State) (c : Nat) (b : Bool) : (askGrow s c b).next = s.next := by unfold askGrow; split <;> rfl
@[simp] theorem askGrow_frees (s : State) (c : Nat) (b : Bool) : (askGrow s c b).frees = s.frees := by unfold askGrow; split <;> rfl
@[simp] theorem askGrow_agenda (s : State) (c : Nat) (b : Bool) : (askGrow s c b).agenda = s.agenda := by unfold askGrow; split <;> rfl
@[simp] theorem askGrow_parkt (s : State) (c : Nat) (b : Bool) : (askGrow s c b).parkt = s.parkt := by unfold askGrow; split <;> rfl
@[simp] theorem askGrow_age (s : State) (c : Nat) (b : Bool) : (askGrow s c b).age = s.age := by unfold askGrow; split <;> rfl
@[simp] theorem askGrow_booted (s : State) (c : Nat) (b : Bool) : (askGrow s c b).booted = s.booted := by unfold askGrow; split <;> rfl
@[simp] theorem askGrow_fail (s : State) (c : Nat) (b : Bool) : (askGrow s c b).fail = s.fail := by unfold askGrow; split <;> rfl
@[simp] theorem askGrow_svn (s : State) (c : Nat) (b : Bool) : (askGrow s c b).svn = s.svn := by unfold askGrow; split <;> rfl
@[simp] theorem askGrow_fuse (s : State) (c : Nat) (b : Bool) : (askGrow s c b).fuse = s.fuse := by unfold askGrow; split <;> rfl
@[simp] theorem askGrow_store (s : State) (c : Nat) (b : Bool) : (askGrow s c b).store = s.store := by unfold askGrow; split <;> rfl
@[simp] theorem askGrow_offer (s : State) (c : Nat) (b : Bool) : (askGrow s c b).offer = s.offer := by unfold askGrow; split <;> rfl
@[simp] theorem askGrow_measure (s : State) (c : Nat) (b : Bool) : (askGrow s c b).measure = s.measure := by unfold askGrow; split <;> rfl
@[simp] theorem askGrow_steps (s : State) (c : Nat) (b : Bool) : (askGrow s c b).steps = s.steps := by unfold askGrow; split <;> rfl
@[simp] theorem askGrow_hot (s : State) (c : Nat) (b : Bool) : (askGrow s c b).hot = s.hot := by unfold askGrow; split <;> rfl
@[simp] theorem askGrow_qlast (s : State) (c : Nat) (b : Bool) : (askGrow s c b).qlast = s.qlast := by unfold askGrow; split <;> rfl
@[simp] theorem askGrow_busy (s : State) (c : Nat) (b : Bool) : (askGrow s c b).busy = s.busy := by unfold askGrow; split <;> rfl
@[simp] theorem askGrow_know (s : State) (c : Nat) (b : Bool) : (askGrow s c b).know = s.know := by unfold askGrow; split <;> rfl

@[simp] theorem askFor_g (s : State) (w : Wait) : (askFor s w).g = s.g := by unfold askFor; split <;> simp
@[simp] theorem askFor_ent (s : State) (w : Wait) : (askFor s w).ent = s.ent := by unfold askFor; split <;> simp
@[simp] theorem askFor_ev (s : State) (w : Wait) : (askFor s w).ev = s.ev := by unfold askFor; split <;> simp
@[simp] theorem askFor_groups (s : State) (w : Wait) : (askFor s w).groups = s.groups := by unfold askFor; split <;> simp
@[simp] theorem askFor_teams (s : State) (w : Wait) : (askFor s w).teams = s.teams := by unfold askFor; split <;> simp
@[simp] theorem askFor_grids (s : State) (w : Wait) : (askFor s w).grids = s.grids := by unfold askFor; split <;> simp
@[simp] theorem askFor_clusters (s : State) (w : Wait) : (askFor s w).clusters = s.clusters := by unfold askFor; split <;> simp
@[simp] theorem askFor_ends (s : State) (w : Wait) : (askFor s w).ends = s.ends := by unfold askFor; split <;> simp
@[simp] theorem askFor_awaits (s : State) (w : Wait) : (askFor s w).awaits = s.awaits := by unfold askFor; split <;> simp
@[simp] theorem askFor_zeros (s : State) (w : Wait) : (askFor s w).zeros = s.zeros := by unfold askFor; split <;> simp
@[simp] theorem askFor_cores (s : State) (w : Wait) : (askFor s w).cores = s.cores := by unfold askFor; split <;> simp
@[simp] theorem askFor_ctxs (s : State) (w : Wait) : (askFor s w).ctxs = s.ctxs := by unfold askFor; split <;> simp
@[simp] theorem askFor_saved (s : State) (w : Wait) : (askFor s w).saved = s.saved := by unfold askFor; split <;> simp
@[simp] theorem askFor_queues (s : State) (w : Wait) : (askFor s w).queues = s.queues := by unfold askFor; split <;> simp
@[simp] theorem askFor_mem (s : State) (w : Wait) : (askFor s w).mem = s.mem := by unfold askFor; split <;> simp
@[simp] theorem askFor_records (s : State) (w : Wait) : (askFor s w).records = s.records := by unfold askFor; split <;> simp
@[simp] theorem askFor_poison (s : State) (w : Wait) : (askFor s w).poison = s.poison := by unfold askFor; split <;> simp
@[simp] theorem askFor_waiters (s : State) (w : Wait) : (askFor s w).waiters = s.waiters := by unfold askFor; split <;> simp
@[simp] theorem askFor_stores (s : State) (w : Wait) : (askFor s w).stores = s.stores := by unfold askFor; split <;> simp
@[simp] theorem askFor_props (s : State) (w : Wait) : (askFor s w).props = s.props := by unfold askFor; split <;> simp
@[simp] theorem askFor_copies (s : State) (w : Wait) : (askFor s w).copies = s.copies := by unfold askFor; split <;> simp
@[simp] theorem askFor_dtlb (s : State) (w : Wait) : (askFor s w).dtlb = s.dtlb := by unfold askFor; split <;> simp
@[simp] theorem askFor_ops (s : State) (w : Wait) : (askFor s w).ops = s.ops := by unfold askFor; split <;> simp
@[simp] theorem askFor_xreqs (s : State) (w : Wait) : (askFor s w).xreqs = s.xreqs := by unfold askFor; split <;> simp
@[simp] theorem askFor_comms (s : State) (w : Wait) : (askFor s w).comms = s.comms := by unfold askFor; split <;> simp
@[simp] theorem askFor_errors (s : State) (w : Wait) : (askFor s w).errors = s.errors := by unfold askFor; split <;> simp
@[simp] theorem askFor_faults (s : State) (w : Wait) : (askFor s w).faults = s.faults := by unfold askFor; split <;> simp
@[simp] theorem askFor_log (s : State) (w : Wait) : (askFor s w).log = s.log := by unfold askFor; split <;> simp
@[simp] theorem askFor_ints (s : State) (w : Wait) : (askFor s w).ints = s.ints := by unfold askFor; split <;> simp
@[simp] theorem askFor_replies (s : State) (w : Wait) : (askFor s w).replies = s.replies := by unfold askFor; split <;> simp
@[simp] theorem askFor_unreach (s : State) (w : Wait) : (askFor s w).unreach = s.unreach := by unfold askFor; split <;> simp
@[simp] theorem askFor_links (s : State) (w : Wait) : (askFor s w).links = s.links := by unfold askFor; split <;> simp
@[simp] theorem askFor_device (s : State) (w : Wait) : (askFor s w).device = s.device := by unfold askFor; split <;> simp
@[simp] theorem askFor_clock (s : State) (w : Wait) : (askFor s w).clock = s.clock := by unfold askFor; split <;> simp
@[simp] theorem askFor_next (s : State) (w : Wait) : (askFor s w).next = s.next := by unfold askFor; split <;> simp
@[simp] theorem askFor_frees (s : State) (w : Wait) : (askFor s w).frees = s.frees := by unfold askFor; split <;> simp
@[simp] theorem askFor_agenda (s : State) (w : Wait) : (askFor s w).agenda = s.agenda := by unfold askFor; split <;> simp
@[simp] theorem askFor_parkt (s : State) (w : Wait) : (askFor s w).parkt = s.parkt := by unfold askFor; split <;> simp
@[simp] theorem askFor_age (s : State) (w : Wait) : (askFor s w).age = s.age := by unfold askFor; split <;> simp
@[simp] theorem askFor_booted (s : State) (w : Wait) : (askFor s w).booted = s.booted := by unfold askFor; split <;> simp
@[simp] theorem askFor_fail (s : State) (w : Wait) : (askFor s w).fail = s.fail := by unfold askFor; split <;> simp
@[simp] theorem askFor_svn (s : State) (w : Wait) : (askFor s w).svn = s.svn := by unfold askFor; split <;> simp
@[simp] theorem askFor_fuse (s : State) (w : Wait) : (askFor s w).fuse = s.fuse := by unfold askFor; split <;> simp
@[simp] theorem askFor_store (s : State) (w : Wait) : (askFor s w).store = s.store := by unfold askFor; split <;> simp
@[simp] theorem askFor_offer (s : State) (w : Wait) : (askFor s w).offer = s.offer := by unfold askFor; split <;> simp
@[simp] theorem askFor_measure (s : State) (w : Wait) : (askFor s w).measure = s.measure := by unfold askFor; split <;> simp
@[simp] theorem askFor_steps (s : State) (w : Wait) : (askFor s w).steps = s.steps := by unfold askFor; split <;> simp
@[simp] theorem askFor_hot (s : State) (w : Wait) : (askFor s w).hot = s.hot := by unfold askFor; split <;> simp
@[simp] theorem askFor_qlast (s : State) (w : Wait) : (askFor s w).qlast = s.qlast := by unfold askFor; split <;> simp
@[simp] theorem askFor_busy (s : State) (w : Wait) : (askFor s w).busy = s.busy := by unfold askFor; split <;> simp
@[simp] theorem askFor_know (s : State) (w : Wait) : (askFor s w).know = s.know := by unfold askFor; split <;> simp

@[simp] theorem blockScalar_ent (s : State) (w : Wait) : (blockScalar s w).ent = s.ent := by simp [blockScalar]
@[simp] theorem blockScalar_ev (s : State) (w : Wait) : (blockScalar s w).ev = s.ev := by simp [blockScalar]
@[simp] theorem blockScalar_groups (s : State) (w : Wait) : (blockScalar s w).groups = s.groups := by simp [blockScalar]
@[simp] theorem blockScalar_teams (s : State) (w : Wait) : (blockScalar s w).teams = s.teams := by simp [blockScalar]
@[simp] theorem blockScalar_grids (s : State) (w : Wait) : (blockScalar s w).grids = s.grids := by simp [blockScalar]
@[simp] theorem blockScalar_clusters (s : State) (w : Wait) : (blockScalar s w).clusters = s.clusters := by simp [blockScalar]
@[simp] theorem blockScalar_ends (s : State) (w : Wait) : (blockScalar s w).ends = s.ends := by simp [blockScalar]
@[simp] theorem blockScalar_awaits (s : State) (w : Wait) : (blockScalar s w).awaits = s.awaits := by simp [blockScalar]
@[simp] theorem blockScalar_zeros (s : State) (w : Wait) : (blockScalar s w).zeros = s.zeros := by simp [blockScalar]
@[simp] theorem blockScalar_cores (s : State) (w : Wait) : (blockScalar s w).cores = s.cores := by simp [blockScalar]
@[simp] theorem blockScalar_ctxs (s : State) (w : Wait) : (blockScalar s w).ctxs = s.ctxs := by simp [blockScalar]
@[simp] theorem blockScalar_saved (s : State) (w : Wait) : (blockScalar s w).saved = s.saved := by simp [blockScalar]
@[simp] theorem blockScalar_queues (s : State) (w : Wait) : (blockScalar s w).queues = s.queues := by simp [blockScalar]
@[simp] theorem blockScalar_mem (s : State) (w : Wait) : (blockScalar s w).mem = s.mem := by simp [blockScalar]
@[simp] theorem blockScalar_records (s : State) (w : Wait) : (blockScalar s w).records = s.records := by simp [blockScalar]
@[simp] theorem blockScalar_poison (s : State) (w : Wait) : (blockScalar s w).poison = s.poison := by simp [blockScalar]
@[simp] theorem blockScalar_waiters (s : State) (w : Wait) : (blockScalar s w).waiters = s.waiters := by simp [blockScalar]
@[simp] theorem blockScalar_stores (s : State) (w : Wait) : (blockScalar s w).stores = s.stores := by simp [blockScalar]
@[simp] theorem blockScalar_props (s : State) (w : Wait) : (blockScalar s w).props = s.props := by simp [blockScalar]
@[simp] theorem blockScalar_copies (s : State) (w : Wait) : (blockScalar s w).copies = s.copies := by simp [blockScalar]
@[simp] theorem blockScalar_dtlb (s : State) (w : Wait) : (blockScalar s w).dtlb = s.dtlb := by simp [blockScalar]
@[simp] theorem blockScalar_ops (s : State) (w : Wait) : (blockScalar s w).ops = s.ops := by simp [blockScalar]
@[simp] theorem blockScalar_xreqs (s : State) (w : Wait) : (blockScalar s w).xreqs = s.xreqs := by simp [blockScalar]
@[simp] theorem blockScalar_comms (s : State) (w : Wait) : (blockScalar s w).comms = s.comms := by simp [blockScalar]
@[simp] theorem blockScalar_errors (s : State) (w : Wait) : (blockScalar s w).errors = s.errors := by simp [blockScalar]
@[simp] theorem blockScalar_faults (s : State) (w : Wait) : (blockScalar s w).faults = s.faults := by simp [blockScalar]
@[simp] theorem blockScalar_log (s : State) (w : Wait) : (blockScalar s w).log = s.log := by simp [blockScalar]
@[simp] theorem blockScalar_ints (s : State) (w : Wait) : (blockScalar s w).ints = s.ints := by simp [blockScalar]
@[simp] theorem blockScalar_replies (s : State) (w : Wait) : (blockScalar s w).replies = s.replies := by simp [blockScalar]
@[simp] theorem blockScalar_unreach (s : State) (w : Wait) : (blockScalar s w).unreach = s.unreach := by simp [blockScalar]
@[simp] theorem blockScalar_links (s : State) (w : Wait) : (blockScalar s w).links = s.links := by simp [blockScalar]
@[simp] theorem blockScalar_device (s : State) (w : Wait) : (blockScalar s w).device = s.device := by simp [blockScalar]
@[simp] theorem blockScalar_clock (s : State) (w : Wait) : (blockScalar s w).clock = s.clock := by simp [blockScalar]
@[simp] theorem blockScalar_next (s : State) (w : Wait) : (blockScalar s w).next = s.next := by simp [blockScalar]
@[simp] theorem blockScalar_frees (s : State) (w : Wait) : (blockScalar s w).frees = s.frees := by simp [blockScalar]
@[simp] theorem blockScalar_agenda (s : State) (w : Wait) : (blockScalar s w).agenda = s.agenda := by simp [blockScalar]
@[simp] theorem blockScalar_parkt (s : State) (w : Wait) : (blockScalar s w).parkt = s.parkt := by simp [blockScalar]
@[simp] theorem blockScalar_age (s : State) (w : Wait) : (blockScalar s w).age = s.age := by simp [blockScalar]
@[simp] theorem blockScalar_booted (s : State) (w : Wait) : (blockScalar s w).booted = s.booted := by simp [blockScalar]
@[simp] theorem blockScalar_fail (s : State) (w : Wait) : (blockScalar s w).fail = s.fail := by simp [blockScalar]
@[simp] theorem blockScalar_svn (s : State) (w : Wait) : (blockScalar s w).svn = s.svn := by simp [blockScalar]
@[simp] theorem blockScalar_fuse (s : State) (w : Wait) : (blockScalar s w).fuse = s.fuse := by simp [blockScalar]
@[simp] theorem blockScalar_store (s : State) (w : Wait) : (blockScalar s w).store = s.store := by simp [blockScalar]
@[simp] theorem blockScalar_offer (s : State) (w : Wait) : (blockScalar s w).offer = s.offer := by simp [blockScalar]
@[simp] theorem blockScalar_measure (s : State) (w : Wait) : (blockScalar s w).measure = s.measure := by simp [blockScalar]
@[simp] theorem blockScalar_steps (s : State) (w : Wait) : (blockScalar s w).steps = s.steps := by simp [blockScalar]
@[simp] theorem blockScalar_hot (s : State) (w : Wait) : (blockScalar s w).hot = s.hot := by simp [blockScalar]
@[simp] theorem blockScalar_qlast (s : State) (w : Wait) : (blockScalar s w).qlast = s.qlast := by simp [blockScalar]
@[simp] theorem blockScalar_busy (s : State) (w : Wait) : (blockScalar s w).busy = s.busy := by simp [blockScalar]
@[simp] theorem blockScalar_know (s : State) (w : Wait) : (blockScalar s w).know = s.know := by simp [blockScalar]

@[simp] theorem blockScalar_g_gid (s : State) (w : Wait) : (blockScalar s w).g.gid = s.g.gid := by simp [blockScalar]
@[simp] theorem blockScalar_g_ctx (s : State) (w : Wait) : (blockScalar s w).g.ctx = s.g.ctx := by simp [blockScalar]
@[simp] theorem blockScalar_g_core (s : State) (w : Wait) : (blockScalar s w).g.core = s.g.core := by simp [blockScalar]
@[simp] theorem blockScalar_g_team (s : State) (w : Wait) : (blockScalar s w).g.team = s.g.team := by simp [blockScalar]
@[simp] theorem blockScalar_g_index (s : State) (w : Wait) : (blockScalar s w).g.index = s.g.index := by simp [blockScalar]
@[simp] theorem blockScalar_g_run (s : State) (w : Wait) : (blockScalar s w).g.run = s.g.run := by simp [blockScalar]
@[simp] theorem blockScalar_g_spc (s : State) (w : Wait) : (blockScalar s w).g.spc = s.g.spc := by simp [blockScalar]
@[simp] theorem blockScalar_g_priv (s : State) (w : Wait) : (blockScalar s w).g.priv = s.g.priv := by simp [blockScalar]
@[simp] theorem blockScalar_g_sregs (s : State) (w : Wait) : (blockScalar s w).g.sregs = s.g.sregs := by simp [blockScalar]
@[simp] theorem blockScalar_g_vregs (s : State) (w : Wait) : (blockScalar s w).g.vregs = s.g.vregs := by simp [blockScalar]
@[simp] theorem blockScalar_g_vtags (s : State) (w : Wait) : (blockScalar s w).g.vtags = s.g.vtags := by simp [blockScalar]
@[simp] theorem blockScalar_g_kregs (s : State) (w : Wait) : (blockScalar s w).g.kregs = s.g.kregs := by simp [blockScalar]
@[simp] theorem blockScalar_g_tregs (s : State) (w : Wait) : (blockScalar s w).g.tregs = s.g.tregs := by simp [blockScalar]
@[simp] theorem blockScalar_g_ttags (s : State) (w : Wait) : (blockScalar s w).g.ttags = s.g.ttags := by simp [blockScalar]
@[simp] theorem blockScalar_g_blocks (s : State) (w : Wait) : (blockScalar s w).g.blocks = s.g.blocks := by simp [blockScalar]
@[simp] theorem blockScalar_g_tiles (s : State) (w : Wait) : (blockScalar s w).g.tiles = s.g.tiles := by simp [blockScalar]
@[simp] theorem blockScalar_g_handles (s : State) (w : Wait) : (blockScalar s w).g.handles = s.g.handles := by simp [blockScalar]
@[simp] theorem blockScalar_g_splits (s : State) (w : Wait) : (blockScalar s w).g.splits = s.g.splits := by simp [blockScalar]
@[simp] theorem blockScalar_g_overflow (s : State) (w : Wait) : (blockScalar s w).g.overflow = s.g.overflow := by simp [blockScalar]
@[simp] theorem blockScalar_g_slot (s : State) (w : Wait) : (blockScalar s w).g.slot = s.g.slot := by simp [blockScalar]
@[simp] theorem blockScalar_g_call (s : State) (w : Wait) : (blockScalar s w).g.call = s.g.call := by simp [blockScalar]
@[simp] theorem blockScalar_g_calls (s : State) (w : Wait) : (blockScalar s w).g.calls = s.g.calls := by simp [blockScalar]
@[simp] theorem blockScalar_g_ren (s : State) (w : Wait) : (blockScalar s w).g.ren = s.g.ren := by simp [blockScalar]
@[simp] theorem blockScalar_g_renOld (s : State) (w : Wait) : (blockScalar s w).g.renOld = s.g.renOld := by simp [blockScalar]
@[simp] theorem blockScalar_g_meld (s : State) (w : Wait) : (blockScalar s w).g.meld = s.g.meld := by simp [blockScalar]
@[simp] theorem blockScalar_g_landings (s : State) (w : Wait) : (blockScalar s w).g.landings = s.g.landings := by simp [blockScalar]
@[simp] theorem blockScalar_g_counters (s : State) (w : Wait) : (blockScalar s w).g.counters = s.g.counters := by simp [blockScalar]
@[simp] theorem blockScalar_g_latches (s : State) (w : Wait) : (blockScalar s w).g.latches = s.g.latches := by simp [blockScalar]
@[simp] theorem blockScalar_g_unacked (s : State) (w : Wait) : (blockScalar s w).g.unacked = s.g.unacked := by simp [blockScalar]
@[simp] theorem blockScalar_g_stamp (s : State) (w : Wait) : (blockScalar s w).g.stamp = s.g.stamp := by simp [blockScalar]
@[simp] theorem blockScalar_g_depth (s : State) (w : Wait) : (blockScalar s w).g.depth = s.g.depth := by simp [blockScalar]
@[simp] theorem blockScalar_g_saves (s : State) (w : Wait) : (blockScalar s w).g.saves = s.g.saves := by simp [blockScalar]
@[simp] theorem blockScalar_g_role (s : State) (w : Wait) : (blockScalar s w).g.role = s.g.role := by simp [blockScalar]
@[simp] theorem blockScalar_g_tilew (s : State) (w : Wait) : (blockScalar s w).g.tilew = s.g.tilew := by simp [blockScalar]
@[simp] theorem blockScalar_g_fmode (s : State) (w : Wait) : (blockScalar s w).g.fmode = s.g.fmode := by simp [blockScalar]
@[simp] theorem blockScalar_g_flags (s : State) (w : Wait) : (blockScalar s w).g.flags = s.g.flags := by simp [blockScalar]
@[simp] theorem blockScalar_g_seedlo (s : State) (w : Wait) : (blockScalar s w).g.seedlo = s.g.seedlo := by simp [blockScalar]
@[simp] theorem blockScalar_g_seedhi (s : State) (w : Wait) : (blockScalar s w).g.seedhi = s.g.seedhi := by simp [blockScalar]
@[simp] theorem blockScalar_g_cseq (s : State) (w : Wait) : (blockScalar s w).g.cseq = s.g.cseq := by simp [blockScalar]
@[simp] theorem blockScalar_g_lanebase (s : State) (w : Wait) : (blockScalar s w).g.lanebase = s.g.lanebase := by simp [blockScalar]
@[simp] theorem blockScalar_g_events (s : State) (w : Wait) : (blockScalar s w).g.events = s.g.events := by simp [blockScalar]
@[simp] theorem blockScalar_g_gframe (s : State) (w : Wait) : (blockScalar s w).g.gframe = s.g.gframe := by simp [blockScalar]
@[simp] theorem blockScalar_g_tasks (s : State) (w : Wait) : (blockScalar s w).g.tasks = s.g.tasks := by simp [blockScalar]
@[simp] theorem blockScalar_g_wframes (s : State) (w : Wait) : (blockScalar s w).g.wframes = s.g.wframes := by simp [blockScalar]
@[simp] theorem blockScalar_g_entryVa (s : State) (w : Wait) : (blockScalar s w).g.entryVa = s.g.entryVa := by simp [blockScalar]
@[simp] theorem blockScalar_g_parkable (s : State) (w : Wait) : (blockScalar s w).g.parkable = s.g.parkable := by simp [blockScalar]
@[simp] theorem blockScalar_g_arrived (s : State) (w : Wait) : (blockScalar s w).g.arrived = s.g.arrived := by simp [blockScalar]
@[simp] theorem blockScalar_g_carrived (s : State) (w : Wait) : (blockScalar s w).g.carrived = s.g.carrived := by simp [blockScalar]
@[simp] theorem blockScalar_g_phase (s : State) (w : Wait) : (blockScalar s w).g.phase = s.g.phase := by simp [blockScalar]
@[simp] theorem blockScalar_g_cphase (s : State) (w : Wait) : (blockScalar s w).g.cphase = s.g.cphase := by simp [blockScalar]
@[simp] theorem blockScalar_g_named (s : State) (w : Wait) : (blockScalar s w).g.named = s.g.named := by simp [blockScalar]
@[simp] theorem blockScalar_g_deliver (s : State) (w : Wait) : (blockScalar s w).g.deliver = s.g.deliver := by simp [blockScalar]
@[simp] theorem blockScalar_g_mapping (s : State) (w : Wait) : (blockScalar s w).g.mapping = s.g.mapping := by simp [blockScalar]
@[simp] theorem blockScalar_g_declined (s : State) (w : Wait) : (blockScalar s w).g.declined = s.g.declined := by simp [blockScalar]
@[simp] theorem blockScalar_g_seat (s : State) (w : Wait) : (blockScalar s w).g.seat = s.g.seat := by simp [blockScalar]
@[simp] theorem blockScalar_g_lastRun (s : State) (w : Wait) : (blockScalar s w).g.lastRun = s.g.lastRun := by simp [blockScalar]
@[simp] theorem blockScalar_g_yielded (s : State) (w : Wait) : (blockScalar s w).g.yielded = s.g.yielded := by simp [blockScalar]
@[simp] theorem blockScalar_g_lastLane (s : State) (w : Wait) : (blockScalar s w).g.lastLane = s.g.lastLane := by simp [blockScalar]
@[simp] theorem blockScalar_g_leftover (s : State) (w : Wait) : (blockScalar s w).g.leftover = s.g.leftover := by simp [blockScalar]
@[simp] theorem blockScalar_g_poison (s : State) (w : Wait) : (blockScalar s w).g.poison = s.g.poison := by simp [blockScalar]
@[simp] theorem blockScalar_g_due (s : State) (w : Wait) : (blockScalar s w).g.due = s.g.due := by simp [blockScalar]
@[simp] theorem blockScalar_g_dueAt (s : State) (w : Wait) : (blockScalar s w).g.dueAt = s.g.dueAt := by simp [blockScalar]

@[simp] theorem blockScalar_g_wait (s : State) (w : Wait) : (blockScalar s w).g.wait = some w := by simp [blockScalar]

@[simp] theorem blockSplit_ent (s : State) (w : Wait) : (blockSplit s w).ent = s.ent := by simp [blockSplit]
@[simp] theorem blockSplit_ev (s : State) (w : Wait) : (blockSplit s w).ev = s.ev := by simp [blockSplit]
@[simp] theorem blockSplit_groups (s : State) (w : Wait) : (blockSplit s w).groups = s.groups := by simp [blockSplit]
@[simp] theorem blockSplit_teams (s : State) (w : Wait) : (blockSplit s w).teams = s.teams := by simp [blockSplit]
@[simp] theorem blockSplit_grids (s : State) (w : Wait) : (blockSplit s w).grids = s.grids := by simp [blockSplit]
@[simp] theorem blockSplit_clusters (s : State) (w : Wait) : (blockSplit s w).clusters = s.clusters := by simp [blockSplit]
@[simp] theorem blockSplit_ends (s : State) (w : Wait) : (blockSplit s w).ends = s.ends := by simp [blockSplit]
@[simp] theorem blockSplit_awaits (s : State) (w : Wait) : (blockSplit s w).awaits = s.awaits := by simp [blockSplit]
@[simp] theorem blockSplit_zeros (s : State) (w : Wait) : (blockSplit s w).zeros = s.zeros := by simp [blockSplit]
@[simp] theorem blockSplit_cores (s : State) (w : Wait) : (blockSplit s w).cores = s.cores := by simp [blockSplit]
@[simp] theorem blockSplit_ctxs (s : State) (w : Wait) : (blockSplit s w).ctxs = s.ctxs := by simp [blockSplit]
@[simp] theorem blockSplit_saved (s : State) (w : Wait) : (blockSplit s w).saved = s.saved := by simp [blockSplit]
@[simp] theorem blockSplit_queues (s : State) (w : Wait) : (blockSplit s w).queues = s.queues := by simp [blockSplit]
@[simp] theorem blockSplit_mem (s : State) (w : Wait) : (blockSplit s w).mem = s.mem := by simp [blockSplit]
@[simp] theorem blockSplit_records (s : State) (w : Wait) : (blockSplit s w).records = s.records := by simp [blockSplit]
@[simp] theorem blockSplit_poison (s : State) (w : Wait) : (blockSplit s w).poison = s.poison := by simp [blockSplit]
@[simp] theorem blockSplit_waiters (s : State) (w : Wait) : (blockSplit s w).waiters = s.waiters := by simp [blockSplit]
@[simp] theorem blockSplit_stores (s : State) (w : Wait) : (blockSplit s w).stores = s.stores := by simp [blockSplit]
@[simp] theorem blockSplit_props (s : State) (w : Wait) : (blockSplit s w).props = s.props := by simp [blockSplit]
@[simp] theorem blockSplit_copies (s : State) (w : Wait) : (blockSplit s w).copies = s.copies := by simp [blockSplit]
@[simp] theorem blockSplit_dtlb (s : State) (w : Wait) : (blockSplit s w).dtlb = s.dtlb := by simp [blockSplit]
@[simp] theorem blockSplit_ops (s : State) (w : Wait) : (blockSplit s w).ops = s.ops := by simp [blockSplit]
@[simp] theorem blockSplit_xreqs (s : State) (w : Wait) : (blockSplit s w).xreqs = s.xreqs := by simp [blockSplit]
@[simp] theorem blockSplit_comms (s : State) (w : Wait) : (blockSplit s w).comms = s.comms := by simp [blockSplit]
@[simp] theorem blockSplit_errors (s : State) (w : Wait) : (blockSplit s w).errors = s.errors := by simp [blockSplit]
@[simp] theorem blockSplit_faults (s : State) (w : Wait) : (blockSplit s w).faults = s.faults := by simp [blockSplit]
@[simp] theorem blockSplit_log (s : State) (w : Wait) : (blockSplit s w).log = s.log := by simp [blockSplit]
@[simp] theorem blockSplit_ints (s : State) (w : Wait) : (blockSplit s w).ints = s.ints := by simp [blockSplit]
@[simp] theorem blockSplit_replies (s : State) (w : Wait) : (blockSplit s w).replies = s.replies := by simp [blockSplit]
@[simp] theorem blockSplit_unreach (s : State) (w : Wait) : (blockSplit s w).unreach = s.unreach := by simp [blockSplit]
@[simp] theorem blockSplit_links (s : State) (w : Wait) : (blockSplit s w).links = s.links := by simp [blockSplit]
@[simp] theorem blockSplit_device (s : State) (w : Wait) : (blockSplit s w).device = s.device := by simp [blockSplit]
@[simp] theorem blockSplit_clock (s : State) (w : Wait) : (blockSplit s w).clock = s.clock := by simp [blockSplit]
@[simp] theorem blockSplit_next (s : State) (w : Wait) : (blockSplit s w).next = s.next := by simp [blockSplit]
@[simp] theorem blockSplit_frees (s : State) (w : Wait) : (blockSplit s w).frees = s.frees := by simp [blockSplit]
@[simp] theorem blockSplit_agenda (s : State) (w : Wait) : (blockSplit s w).agenda = s.agenda := by simp [blockSplit]
@[simp] theorem blockSplit_parkt (s : State) (w : Wait) : (blockSplit s w).parkt = s.parkt := by simp [blockSplit]
@[simp] theorem blockSplit_age (s : State) (w : Wait) : (blockSplit s w).age = s.age := by simp [blockSplit]
@[simp] theorem blockSplit_booted (s : State) (w : Wait) : (blockSplit s w).booted = s.booted := by simp [blockSplit]
@[simp] theorem blockSplit_fail (s : State) (w : Wait) : (blockSplit s w).fail = s.fail := by simp [blockSplit]
@[simp] theorem blockSplit_svn (s : State) (w : Wait) : (blockSplit s w).svn = s.svn := by simp [blockSplit]
@[simp] theorem blockSplit_fuse (s : State) (w : Wait) : (blockSplit s w).fuse = s.fuse := by simp [blockSplit]
@[simp] theorem blockSplit_store (s : State) (w : Wait) : (blockSplit s w).store = s.store := by simp [blockSplit]
@[simp] theorem blockSplit_offer (s : State) (w : Wait) : (blockSplit s w).offer = s.offer := by simp [blockSplit]
@[simp] theorem blockSplit_measure (s : State) (w : Wait) : (blockSplit s w).measure = s.measure := by simp [blockSplit]
@[simp] theorem blockSplit_steps (s : State) (w : Wait) : (blockSplit s w).steps = s.steps := by simp [blockSplit]
@[simp] theorem blockSplit_hot (s : State) (w : Wait) : (blockSplit s w).hot = s.hot := by simp [blockSplit]
@[simp] theorem blockSplit_qlast (s : State) (w : Wait) : (blockSplit s w).qlast = s.qlast := by simp [blockSplit]
@[simp] theorem blockSplit_busy (s : State) (w : Wait) : (blockSplit s w).busy = s.busy := by simp [blockSplit]
@[simp] theorem blockSplit_know (s : State) (w : Wait) : (blockSplit s w).know = s.know := by simp [blockSplit]

@[simp] theorem blockSplit_g_gid (s : State) (w : Wait) : (blockSplit s w).g.gid = s.g.gid := by simp [blockSplit, setSplit]
@[simp] theorem blockSplit_g_ctx (s : State) (w : Wait) : (blockSplit s w).g.ctx = s.g.ctx := by simp [blockSplit, setSplit]
@[simp] theorem blockSplit_g_core (s : State) (w : Wait) : (blockSplit s w).g.core = s.g.core := by simp [blockSplit, setSplit]
@[simp] theorem blockSplit_g_team (s : State) (w : Wait) : (blockSplit s w).g.team = s.g.team := by simp [blockSplit, setSplit]
@[simp] theorem blockSplit_g_index (s : State) (w : Wait) : (blockSplit s w).g.index = s.g.index := by simp [blockSplit, setSplit]
@[simp] theorem blockSplit_g_run (s : State) (w : Wait) : (blockSplit s w).g.run = s.g.run := by simp [blockSplit, setSplit]
@[simp] theorem blockSplit_g_spc (s : State) (w : Wait) : (blockSplit s w).g.spc = s.g.spc := by simp [blockSplit, setSplit]
@[simp] theorem blockSplit_g_priv (s : State) (w : Wait) : (blockSplit s w).g.priv = s.g.priv := by simp [blockSplit, setSplit]
@[simp] theorem blockSplit_g_sregs (s : State) (w : Wait) : (blockSplit s w).g.sregs = s.g.sregs := by simp [blockSplit, setSplit]
@[simp] theorem blockSplit_g_vregs (s : State) (w : Wait) : (blockSplit s w).g.vregs = s.g.vregs := by simp [blockSplit, setSplit]
@[simp] theorem blockSplit_g_vtags (s : State) (w : Wait) : (blockSplit s w).g.vtags = s.g.vtags := by simp [blockSplit, setSplit]
@[simp] theorem blockSplit_g_kregs (s : State) (w : Wait) : (blockSplit s w).g.kregs = s.g.kregs := by simp [blockSplit, setSplit]
@[simp] theorem blockSplit_g_tregs (s : State) (w : Wait) : (blockSplit s w).g.tregs = s.g.tregs := by simp [blockSplit, setSplit]
@[simp] theorem blockSplit_g_ttags (s : State) (w : Wait) : (blockSplit s w).g.ttags = s.g.ttags := by simp [blockSplit, setSplit]
@[simp] theorem blockSplit_g_blocks (s : State) (w : Wait) : (blockSplit s w).g.blocks = s.g.blocks := by simp [blockSplit, setSplit]
@[simp] theorem blockSplit_g_tiles (s : State) (w : Wait) : (blockSplit s w).g.tiles = s.g.tiles := by simp [blockSplit, setSplit]
@[simp] theorem blockSplit_g_handles (s : State) (w : Wait) : (blockSplit s w).g.handles = s.g.handles := by simp [blockSplit, setSplit]
@[simp] theorem blockSplit_g_overflow (s : State) (w : Wait) : (blockSplit s w).g.overflow = s.g.overflow := by simp [blockSplit, setSplit]
@[simp] theorem blockSplit_g_slot (s : State) (w : Wait) : (blockSplit s w).g.slot = s.g.slot := by simp [blockSplit, setSplit]
@[simp] theorem blockSplit_g_call (s : State) (w : Wait) : (blockSplit s w).g.call = s.g.call := by simp [blockSplit, setSplit]
@[simp] theorem blockSplit_g_calls (s : State) (w : Wait) : (blockSplit s w).g.calls = s.g.calls := by simp [blockSplit, setSplit]
@[simp] theorem blockSplit_g_ren (s : State) (w : Wait) : (blockSplit s w).g.ren = s.g.ren := by simp [blockSplit, setSplit]
@[simp] theorem blockSplit_g_renOld (s : State) (w : Wait) : (blockSplit s w).g.renOld = s.g.renOld := by simp [blockSplit, setSplit]
@[simp] theorem blockSplit_g_meld (s : State) (w : Wait) : (blockSplit s w).g.meld = s.g.meld := by simp [blockSplit, setSplit]
@[simp] theorem blockSplit_g_landings (s : State) (w : Wait) : (blockSplit s w).g.landings = s.g.landings := by simp [blockSplit, setSplit]
@[simp] theorem blockSplit_g_counters (s : State) (w : Wait) : (blockSplit s w).g.counters = s.g.counters := by simp [blockSplit, setSplit]
@[simp] theorem blockSplit_g_latches (s : State) (w : Wait) : (blockSplit s w).g.latches = s.g.latches := by simp [blockSplit, setSplit]
@[simp] theorem blockSplit_g_unacked (s : State) (w : Wait) : (blockSplit s w).g.unacked = s.g.unacked := by simp [blockSplit, setSplit]
@[simp] theorem blockSplit_g_stamp (s : State) (w : Wait) : (blockSplit s w).g.stamp = s.g.stamp := by simp [blockSplit, setSplit]
@[simp] theorem blockSplit_g_depth (s : State) (w : Wait) : (blockSplit s w).g.depth = s.g.depth := by simp [blockSplit, setSplit]
@[simp] theorem blockSplit_g_saves (s : State) (w : Wait) : (blockSplit s w).g.saves = s.g.saves := by simp [blockSplit, setSplit]
@[simp] theorem blockSplit_g_role (s : State) (w : Wait) : (blockSplit s w).g.role = s.g.role := by simp [blockSplit, setSplit]
@[simp] theorem blockSplit_g_tilew (s : State) (w : Wait) : (blockSplit s w).g.tilew = s.g.tilew := by simp [blockSplit, setSplit]
@[simp] theorem blockSplit_g_fmode (s : State) (w : Wait) : (blockSplit s w).g.fmode = s.g.fmode := by simp [blockSplit, setSplit]
@[simp] theorem blockSplit_g_flags (s : State) (w : Wait) : (blockSplit s w).g.flags = s.g.flags := by simp [blockSplit, setSplit]
@[simp] theorem blockSplit_g_seedlo (s : State) (w : Wait) : (blockSplit s w).g.seedlo = s.g.seedlo := by simp [blockSplit, setSplit]
@[simp] theorem blockSplit_g_seedhi (s : State) (w : Wait) : (blockSplit s w).g.seedhi = s.g.seedhi := by simp [blockSplit, setSplit]
@[simp] theorem blockSplit_g_cseq (s : State) (w : Wait) : (blockSplit s w).g.cseq = s.g.cseq := by simp [blockSplit, setSplit]
@[simp] theorem blockSplit_g_lanebase (s : State) (w : Wait) : (blockSplit s w).g.lanebase = s.g.lanebase := by simp [blockSplit, setSplit]
@[simp] theorem blockSplit_g_events (s : State) (w : Wait) : (blockSplit s w).g.events = s.g.events := by simp [blockSplit, setSplit]
@[simp] theorem blockSplit_g_gframe (s : State) (w : Wait) : (blockSplit s w).g.gframe = s.g.gframe := by simp [blockSplit, setSplit]
@[simp] theorem blockSplit_g_tasks (s : State) (w : Wait) : (blockSplit s w).g.tasks = s.g.tasks := by simp [blockSplit, setSplit]
@[simp] theorem blockSplit_g_wframes (s : State) (w : Wait) : (blockSplit s w).g.wframes = s.g.wframes := by simp [blockSplit, setSplit]
@[simp] theorem blockSplit_g_entryVa (s : State) (w : Wait) : (blockSplit s w).g.entryVa = s.g.entryVa := by simp [blockSplit, setSplit]
@[simp] theorem blockSplit_g_wait (s : State) (w : Wait) : (blockSplit s w).g.wait = s.g.wait := by simp [blockSplit, setSplit]
@[simp] theorem blockSplit_g_since (s : State) (w : Wait) : (blockSplit s w).g.since = s.g.since := by simp [blockSplit, setSplit]
@[simp] theorem blockSplit_g_parkable (s : State) (w : Wait) : (blockSplit s w).g.parkable = s.g.parkable := by simp [blockSplit, setSplit]
@[simp] theorem blockSplit_g_arrived (s : State) (w : Wait) : (blockSplit s w).g.arrived = s.g.arrived := by simp [blockSplit, setSplit]
@[simp] theorem blockSplit_g_carrived (s : State) (w : Wait) : (blockSplit s w).g.carrived = s.g.carrived := by simp [blockSplit, setSplit]
@[simp] theorem blockSplit_g_phase (s : State) (w : Wait) : (blockSplit s w).g.phase = s.g.phase := by simp [blockSplit, setSplit]
@[simp] theorem blockSplit_g_cphase (s : State) (w : Wait) : (blockSplit s w).g.cphase = s.g.cphase := by simp [blockSplit, setSplit]
@[simp] theorem blockSplit_g_named (s : State) (w : Wait) : (blockSplit s w).g.named = s.g.named := by simp [blockSplit, setSplit]
@[simp] theorem blockSplit_g_deliver (s : State) (w : Wait) : (blockSplit s w).g.deliver = s.g.deliver := by simp [blockSplit, setSplit]
@[simp] theorem blockSplit_g_mapping (s : State) (w : Wait) : (blockSplit s w).g.mapping = s.g.mapping := by simp [blockSplit, setSplit]
@[simp] theorem blockSplit_g_declined (s : State) (w : Wait) : (blockSplit s w).g.declined = s.g.declined := by simp [blockSplit, setSplit]
@[simp] theorem blockSplit_g_seat (s : State) (w : Wait) : (blockSplit s w).g.seat = s.g.seat := by simp [blockSplit, setSplit]
@[simp] theorem blockSplit_g_lastRun (s : State) (w : Wait) : (blockSplit s w).g.lastRun = s.g.lastRun := by simp [blockSplit, setSplit]
@[simp] theorem blockSplit_g_yielded (s : State) (w : Wait) : (blockSplit s w).g.yielded = s.g.yielded := by simp [blockSplit, setSplit]
@[simp] theorem blockSplit_g_lastLane (s : State) (w : Wait) : (blockSplit s w).g.lastLane = s.g.lastLane := by simp [blockSplit, setSplit]
@[simp] theorem blockSplit_g_leftover (s : State) (w : Wait) : (blockSplit s w).g.leftover = s.g.leftover := by simp [blockSplit, setSplit]
@[simp] theorem blockSplit_g_poison (s : State) (w : Wait) : (blockSplit s w).g.poison = s.g.poison := by simp [blockSplit, setSplit]
@[simp] theorem blockSplit_g_due (s : State) (w : Wait) : (blockSplit s w).g.due = s.g.due := by simp [blockSplit, setSplit]
@[simp] theorem blockSplit_g_dueAt (s : State) (w : Wait) : (blockSplit s w).g.dueAt = s.g.dueAt := by simp [blockSplit, setSplit]

/-! ### A group: vector registers, masks, tiles, handles, splits -/

@[simp] theorem writeV_gid (g : Group) (r l : Nat) (v : W32) : (writeV g r l v).gid = g.gid := rfl
@[simp] theorem writeV_ctx (g : Group) (r l : Nat) (v : W32) : (writeV g r l v).ctx = g.ctx := rfl
@[simp] theorem writeV_core (g : Group) (r l : Nat) (v : W32) : (writeV g r l v).core = g.core := rfl
@[simp] theorem writeV_team (g : Group) (r l : Nat) (v : W32) : (writeV g r l v).team = g.team := rfl
@[simp] theorem writeV_index (g : Group) (r l : Nat) (v : W32) : (writeV g r l v).index = g.index := rfl
@[simp] theorem writeV_run (g : Group) (r l : Nat) (v : W32) : (writeV g r l v).run = g.run := rfl
@[simp] theorem writeV_spc (g : Group) (r l : Nat) (v : W32) : (writeV g r l v).spc = g.spc := rfl
@[simp] theorem writeV_priv (g : Group) (r l : Nat) (v : W32) : (writeV g r l v).priv = g.priv := rfl
@[simp] theorem writeV_sregs (g : Group) (r l : Nat) (v : W32) : (writeV g r l v).sregs = g.sregs := rfl
@[simp] theorem writeV_vtags (g : Group) (r l : Nat) (v : W32) : (writeV g r l v).vtags = g.vtags := rfl
@[simp] theorem writeV_kregs (g : Group) (r l : Nat) (v : W32) : (writeV g r l v).kregs = g.kregs := rfl
@[simp] theorem writeV_tregs (g : Group) (r l : Nat) (v : W32) : (writeV g r l v).tregs = g.tregs := rfl
@[simp] theorem writeV_ttags (g : Group) (r l : Nat) (v : W32) : (writeV g r l v).ttags = g.ttags := rfl
@[simp] theorem writeV_blocks (g : Group) (r l : Nat) (v : W32) : (writeV g r l v).blocks = g.blocks := rfl
@[simp] theorem writeV_tiles (g : Group) (r l : Nat) (v : W32) : (writeV g r l v).tiles = g.tiles := rfl
@[simp] theorem writeV_handles (g : Group) (r l : Nat) (v : W32) : (writeV g r l v).handles = g.handles := rfl
@[simp] theorem writeV_splits (g : Group) (r l : Nat) (v : W32) : (writeV g r l v).splits = g.splits := rfl
@[simp] theorem writeV_overflow (g : Group) (r l : Nat) (v : W32) : (writeV g r l v).overflow = g.overflow := rfl
@[simp] theorem writeV_slot (g : Group) (r l : Nat) (v : W32) : (writeV g r l v).slot = g.slot := rfl
@[simp] theorem writeV_calls (g : Group) (r l : Nat) (v : W32) : (writeV g r l v).calls = g.calls := rfl
@[simp] theorem writeV_ren (g : Group) (r l : Nat) (v : W32) : (writeV g r l v).ren = g.ren := rfl
@[simp] theorem writeV_renOld (g : Group) (r l : Nat) (v : W32) : (writeV g r l v).renOld = g.renOld := rfl
@[simp] theorem writeV_meld (g : Group) (r l : Nat) (v : W32) : (writeV g r l v).meld = g.meld := rfl
@[simp] theorem writeV_landings (g : Group) (r l : Nat) (v : W32) : (writeV g r l v).landings = g.landings := rfl
@[simp] theorem writeV_counters (g : Group) (r l : Nat) (v : W32) : (writeV g r l v).counters = g.counters := rfl
@[simp] theorem writeV_latches (g : Group) (r l : Nat) (v : W32) : (writeV g r l v).latches = g.latches := rfl
@[simp] theorem writeV_unacked (g : Group) (r l : Nat) (v : W32) : (writeV g r l v).unacked = g.unacked := rfl
@[simp] theorem writeV_stamp (g : Group) (r l : Nat) (v : W32) : (writeV g r l v).stamp = g.stamp := rfl
@[simp] theorem writeV_depth (g : Group) (r l : Nat) (v : W32) : (writeV g r l v).depth = g.depth := rfl
@[simp] theorem writeV_saves (g : Group) (r l : Nat) (v : W32) : (writeV g r l v).saves = g.saves := rfl
@[simp] theorem writeV_role (g : Group) (r l : Nat) (v : W32) : (writeV g r l v).role = g.role := rfl
@[simp] theorem writeV_tilew (g : Group) (r l : Nat) (v : W32) : (writeV g r l v).tilew = g.tilew := rfl
@[simp] theorem writeV_fmode (g : Group) (r l : Nat) (v : W32) : (writeV g r l v).fmode = g.fmode := rfl
@[simp] theorem writeV_flags (g : Group) (r l : Nat) (v : W32) : (writeV g r l v).flags = g.flags := rfl
@[simp] theorem writeV_seedlo (g : Group) (r l : Nat) (v : W32) : (writeV g r l v).seedlo = g.seedlo := rfl
@[simp] theorem writeV_seedhi (g : Group) (r l : Nat) (v : W32) : (writeV g r l v).seedhi = g.seedhi := rfl
@[simp] theorem writeV_cseq (g : Group) (r l : Nat) (v : W32) : (writeV g r l v).cseq = g.cseq := rfl
@[simp] theorem writeV_lanebase (g : Group) (r l : Nat) (v : W32) : (writeV g r l v).lanebase = g.lanebase := rfl
@[simp] theorem writeV_events (g : Group) (r l : Nat) (v : W32) : (writeV g r l v).events = g.events := rfl
@[simp] theorem writeV_gframe (g : Group) (r l : Nat) (v : W32) : (writeV g r l v).gframe = g.gframe := rfl
@[simp] theorem writeV_tasks (g : Group) (r l : Nat) (v : W32) : (writeV g r l v).tasks = g.tasks := rfl
@[simp] theorem writeV_wframes (g : Group) (r l : Nat) (v : W32) : (writeV g r l v).wframes = g.wframes := rfl
@[simp] theorem writeV_entryVa (g : Group) (r l : Nat) (v : W32) : (writeV g r l v).entryVa = g.entryVa := rfl
@[simp] theorem writeV_wait (g : Group) (r l : Nat) (v : W32) : (writeV g r l v).wait = g.wait := rfl
@[simp] theorem writeV_since (g : Group) (r l : Nat) (v : W32) : (writeV g r l v).since = g.since := rfl
@[simp] theorem writeV_parkable (g : Group) (r l : Nat) (v : W32) : (writeV g r l v).parkable = g.parkable := rfl
@[simp] theorem writeV_arrived (g : Group) (r l : Nat) (v : W32) : (writeV g r l v).arrived = g.arrived := rfl
@[simp] theorem writeV_carrived (g : Group) (r l : Nat) (v : W32) : (writeV g r l v).carrived = g.carrived := rfl
@[simp] theorem writeV_phase (g : Group) (r l : Nat) (v : W32) : (writeV g r l v).phase = g.phase := rfl
@[simp] theorem writeV_cphase (g : Group) (r l : Nat) (v : W32) : (writeV g r l v).cphase = g.cphase := rfl
@[simp] theorem writeV_named (g : Group) (r l : Nat) (v : W32) : (writeV g r l v).named = g.named := rfl
@[simp] theorem writeV_deliver (g : Group) (r l : Nat) (v : W32) : (writeV g r l v).deliver = g.deliver := rfl
@[simp] theorem writeV_mapping (g : Group) (r l : Nat) (v : W32) : (writeV g r l v).mapping = g.mapping := rfl
@[simp] theorem writeV_declined (g : Group) (r l : Nat) (v : W32) : (writeV g r l v).declined = g.declined := rfl
@[simp] theorem writeV_seat (g : Group) (r l : Nat) (v : W32) : (writeV g r l v).seat = g.seat := rfl
@[simp] theorem writeV_lastRun (g : Group) (r l : Nat) (v : W32) : (writeV g r l v).lastRun = g.lastRun := rfl
@[simp] theorem writeV_yielded (g : Group) (r l : Nat) (v : W32) : (writeV g r l v).yielded = g.yielded := rfl
@[simp] theorem writeV_lastLane (g : Group) (r l : Nat) (v : W32) : (writeV g r l v).lastLane = g.lastLane := rfl
@[simp] theorem writeV_leftover (g : Group) (r l : Nat) (v : W32) : (writeV g r l v).leftover = g.leftover := rfl
@[simp] theorem writeV_due (g : Group) (r l : Nat) (v : W32) : (writeV g r l v).due = g.due := rfl
@[simp] theorem writeV_dueAt (g : Group) (r l : Nat) (v : W32) : (writeV g r l v).dueAt = g.dueAt := rfl

@[simp] theorem setTagV_gid (g : Group) (r : Nat) (t : BitVec 4) : (setTagV g r t).gid = g.gid := rfl
@[simp] theorem setTagV_ctx (g : Group) (r : Nat) (t : BitVec 4) : (setTagV g r t).ctx = g.ctx := rfl
@[simp] theorem setTagV_core (g : Group) (r : Nat) (t : BitVec 4) : (setTagV g r t).core = g.core := rfl
@[simp] theorem setTagV_team (g : Group) (r : Nat) (t : BitVec 4) : (setTagV g r t).team = g.team := rfl
@[simp] theorem setTagV_index (g : Group) (r : Nat) (t : BitVec 4) : (setTagV g r t).index = g.index := rfl
@[simp] theorem setTagV_run (g : Group) (r : Nat) (t : BitVec 4) : (setTagV g r t).run = g.run := rfl
@[simp] theorem setTagV_spc (g : Group) (r : Nat) (t : BitVec 4) : (setTagV g r t).spc = g.spc := rfl
@[simp] theorem setTagV_priv (g : Group) (r : Nat) (t : BitVec 4) : (setTagV g r t).priv = g.priv := rfl
@[simp] theorem setTagV_sregs (g : Group) (r : Nat) (t : BitVec 4) : (setTagV g r t).sregs = g.sregs := rfl
@[simp] theorem setTagV_vregs (g : Group) (r : Nat) (t : BitVec 4) : (setTagV g r t).vregs = g.vregs := rfl
@[simp] theorem setTagV_kregs (g : Group) (r : Nat) (t : BitVec 4) : (setTagV g r t).kregs = g.kregs := rfl
@[simp] theorem setTagV_tregs (g : Group) (r : Nat) (t : BitVec 4) : (setTagV g r t).tregs = g.tregs := rfl
@[simp] theorem setTagV_ttags (g : Group) (r : Nat) (t : BitVec 4) : (setTagV g r t).ttags = g.ttags := rfl
@[simp] theorem setTagV_blocks (g : Group) (r : Nat) (t : BitVec 4) : (setTagV g r t).blocks = g.blocks := rfl
@[simp] theorem setTagV_tiles (g : Group) (r : Nat) (t : BitVec 4) : (setTagV g r t).tiles = g.tiles := rfl
@[simp] theorem setTagV_handles (g : Group) (r : Nat) (t : BitVec 4) : (setTagV g r t).handles = g.handles := rfl
@[simp] theorem setTagV_splits (g : Group) (r : Nat) (t : BitVec 4) : (setTagV g r t).splits = g.splits := rfl
@[simp] theorem setTagV_overflow (g : Group) (r : Nat) (t : BitVec 4) : (setTagV g r t).overflow = g.overflow := rfl
@[simp] theorem setTagV_slot (g : Group) (r : Nat) (t : BitVec 4) : (setTagV g r t).slot = g.slot := rfl
@[simp] theorem setTagV_call (g : Group) (r : Nat) (t : BitVec 4) : (setTagV g r t).call = g.call := rfl
@[simp] theorem setTagV_calls (g : Group) (r : Nat) (t : BitVec 4) : (setTagV g r t).calls = g.calls := rfl
@[simp] theorem setTagV_ren (g : Group) (r : Nat) (t : BitVec 4) : (setTagV g r t).ren = g.ren := rfl
@[simp] theorem setTagV_renOld (g : Group) (r : Nat) (t : BitVec 4) : (setTagV g r t).renOld = g.renOld := rfl
@[simp] theorem setTagV_meld (g : Group) (r : Nat) (t : BitVec 4) : (setTagV g r t).meld = g.meld := rfl
@[simp] theorem setTagV_landings (g : Group) (r : Nat) (t : BitVec 4) : (setTagV g r t).landings = g.landings := rfl
@[simp] theorem setTagV_counters (g : Group) (r : Nat) (t : BitVec 4) : (setTagV g r t).counters = g.counters := rfl
@[simp] theorem setTagV_latches (g : Group) (r : Nat) (t : BitVec 4) : (setTagV g r t).latches = g.latches := rfl
@[simp] theorem setTagV_unacked (g : Group) (r : Nat) (t : BitVec 4) : (setTagV g r t).unacked = g.unacked := rfl
@[simp] theorem setTagV_stamp (g : Group) (r : Nat) (t : BitVec 4) : (setTagV g r t).stamp = g.stamp := rfl
@[simp] theorem setTagV_depth (g : Group) (r : Nat) (t : BitVec 4) : (setTagV g r t).depth = g.depth := rfl
@[simp] theorem setTagV_saves (g : Group) (r : Nat) (t : BitVec 4) : (setTagV g r t).saves = g.saves := rfl
@[simp] theorem setTagV_role (g : Group) (r : Nat) (t : BitVec 4) : (setTagV g r t).role = g.role := rfl
@[simp] theorem setTagV_tilew (g : Group) (r : Nat) (t : BitVec 4) : (setTagV g r t).tilew = g.tilew := rfl
@[simp] theorem setTagV_fmode (g : Group) (r : Nat) (t : BitVec 4) : (setTagV g r t).fmode = g.fmode := rfl
@[simp] theorem setTagV_flags (g : Group) (r : Nat) (t : BitVec 4) : (setTagV g r t).flags = g.flags := rfl
@[simp] theorem setTagV_seedlo (g : Group) (r : Nat) (t : BitVec 4) : (setTagV g r t).seedlo = g.seedlo := rfl
@[simp] theorem setTagV_seedhi (g : Group) (r : Nat) (t : BitVec 4) : (setTagV g r t).seedhi = g.seedhi := rfl
@[simp] theorem setTagV_cseq (g : Group) (r : Nat) (t : BitVec 4) : (setTagV g r t).cseq = g.cseq := rfl
@[simp] theorem setTagV_lanebase (g : Group) (r : Nat) (t : BitVec 4) : (setTagV g r t).lanebase = g.lanebase := rfl
@[simp] theorem setTagV_events (g : Group) (r : Nat) (t : BitVec 4) : (setTagV g r t).events = g.events := rfl
@[simp] theorem setTagV_gframe (g : Group) (r : Nat) (t : BitVec 4) : (setTagV g r t).gframe = g.gframe := rfl
@[simp] theorem setTagV_tasks (g : Group) (r : Nat) (t : BitVec 4) : (setTagV g r t).tasks = g.tasks := rfl
@[simp] theorem setTagV_wframes (g : Group) (r : Nat) (t : BitVec 4) : (setTagV g r t).wframes = g.wframes := rfl
@[simp] theorem setTagV_entryVa (g : Group) (r : Nat) (t : BitVec 4) : (setTagV g r t).entryVa = g.entryVa := rfl
@[simp] theorem setTagV_wait (g : Group) (r : Nat) (t : BitVec 4) : (setTagV g r t).wait = g.wait := rfl
@[simp] theorem setTagV_since (g : Group) (r : Nat) (t : BitVec 4) : (setTagV g r t).since = g.since := rfl
@[simp] theorem setTagV_parkable (g : Group) (r : Nat) (t : BitVec 4) : (setTagV g r t).parkable = g.parkable := rfl
@[simp] theorem setTagV_arrived (g : Group) (r : Nat) (t : BitVec 4) : (setTagV g r t).arrived = g.arrived := rfl
@[simp] theorem setTagV_carrived (g : Group) (r : Nat) (t : BitVec 4) : (setTagV g r t).carrived = g.carrived := rfl
@[simp] theorem setTagV_phase (g : Group) (r : Nat) (t : BitVec 4) : (setTagV g r t).phase = g.phase := rfl
@[simp] theorem setTagV_cphase (g : Group) (r : Nat) (t : BitVec 4) : (setTagV g r t).cphase = g.cphase := rfl
@[simp] theorem setTagV_named (g : Group) (r : Nat) (t : BitVec 4) : (setTagV g r t).named = g.named := rfl
@[simp] theorem setTagV_deliver (g : Group) (r : Nat) (t : BitVec 4) : (setTagV g r t).deliver = g.deliver := rfl
@[simp] theorem setTagV_mapping (g : Group) (r : Nat) (t : BitVec 4) : (setTagV g r t).mapping = g.mapping := rfl
@[simp] theorem setTagV_declined (g : Group) (r : Nat) (t : BitVec 4) : (setTagV g r t).declined = g.declined := rfl
@[simp] theorem setTagV_seat (g : Group) (r : Nat) (t : BitVec 4) : (setTagV g r t).seat = g.seat := rfl
@[simp] theorem setTagV_lastRun (g : Group) (r : Nat) (t : BitVec 4) : (setTagV g r t).lastRun = g.lastRun := rfl
@[simp] theorem setTagV_yielded (g : Group) (r : Nat) (t : BitVec 4) : (setTagV g r t).yielded = g.yielded := rfl
@[simp] theorem setTagV_lastLane (g : Group) (r : Nat) (t : BitVec 4) : (setTagV g r t).lastLane = g.lastLane := rfl
@[simp] theorem setTagV_leftover (g : Group) (r : Nat) (t : BitVec 4) : (setTagV g r t).leftover = g.leftover := rfl
@[simp] theorem setTagV_poison (g : Group) (r : Nat) (t : BitVec 4) : (setTagV g r t).poison = g.poison := rfl
@[simp] theorem setTagV_due (g : Group) (r : Nat) (t : BitVec 4) : (setTagV g r t).due = g.due := rfl
@[simp] theorem setTagV_dueAt (g : Group) (r : Nat) (t : BitVec 4) : (setTagV g r t).dueAt = g.dueAt := rfl

@[simp] theorem writeK_gid (g : Group) (k : Nat) (v : W32) : (writeK g k v).gid = g.gid := by unfold writeK; split <;> rfl
@[simp] theorem writeK_ctx (g : Group) (k : Nat) (v : W32) : (writeK g k v).ctx = g.ctx := by unfold writeK; split <;> rfl
@[simp] theorem writeK_core (g : Group) (k : Nat) (v : W32) : (writeK g k v).core = g.core := by unfold writeK; split <;> rfl
@[simp] theorem writeK_team (g : Group) (k : Nat) (v : W32) : (writeK g k v).team = g.team := by unfold writeK; split <;> rfl
@[simp] theorem writeK_index (g : Group) (k : Nat) (v : W32) : (writeK g k v).index = g.index := by unfold writeK; split <;> rfl
@[simp] theorem writeK_run (g : Group) (k : Nat) (v : W32) : (writeK g k v).run = g.run := by unfold writeK; split <;> rfl
@[simp] theorem writeK_spc (g : Group) (k : Nat) (v : W32) : (writeK g k v).spc = g.spc := by unfold writeK; split <;> rfl
@[simp] theorem writeK_priv (g : Group) (k : Nat) (v : W32) : (writeK g k v).priv = g.priv := by unfold writeK; split <;> rfl
@[simp] theorem writeK_sregs (g : Group) (k : Nat) (v : W32) : (writeK g k v).sregs = g.sregs := by unfold writeK; split <;> rfl
@[simp] theorem writeK_vregs (g : Group) (k : Nat) (v : W32) : (writeK g k v).vregs = g.vregs := by unfold writeK; split <;> rfl
@[simp] theorem writeK_vtags (g : Group) (k : Nat) (v : W32) : (writeK g k v).vtags = g.vtags := by unfold writeK; split <;> rfl
@[simp] theorem writeK_tregs (g : Group) (k : Nat) (v : W32) : (writeK g k v).tregs = g.tregs := by unfold writeK; split <;> rfl
@[simp] theorem writeK_ttags (g : Group) (k : Nat) (v : W32) : (writeK g k v).ttags = g.ttags := by unfold writeK; split <;> rfl
@[simp] theorem writeK_blocks (g : Group) (k : Nat) (v : W32) : (writeK g k v).blocks = g.blocks := by unfold writeK; split <;> rfl
@[simp] theorem writeK_tiles (g : Group) (k : Nat) (v : W32) : (writeK g k v).tiles = g.tiles := by unfold writeK; split <;> rfl
@[simp] theorem writeK_handles (g : Group) (k : Nat) (v : W32) : (writeK g k v).handles = g.handles := by unfold writeK; split <;> rfl
@[simp] theorem writeK_splits (g : Group) (k : Nat) (v : W32) : (writeK g k v).splits = g.splits := by unfold writeK; split <;> rfl
@[simp] theorem writeK_overflow (g : Group) (k : Nat) (v : W32) : (writeK g k v).overflow = g.overflow := by unfold writeK; split <;> rfl
@[simp] theorem writeK_slot (g : Group) (k : Nat) (v : W32) : (writeK g k v).slot = g.slot := by unfold writeK; split <;> rfl
@[simp] theorem writeK_call (g : Group) (k : Nat) (v : W32) : (writeK g k v).call = g.call := by unfold writeK; split <;> rfl
@[simp] theorem writeK_calls (g : Group) (k : Nat) (v : W32) : (writeK g k v).calls = g.calls := by unfold writeK; split <;> rfl
@[simp] theorem writeK_ren (g : Group) (k : Nat) (v : W32) : (writeK g k v).ren = g.ren := by unfold writeK; split <;> rfl
@[simp] theorem writeK_renOld (g : Group) (k : Nat) (v : W32) : (writeK g k v).renOld = g.renOld := by unfold writeK; split <;> rfl
@[simp] theorem writeK_meld (g : Group) (k : Nat) (v : W32) : (writeK g k v).meld = g.meld := by unfold writeK; split <;> rfl
@[simp] theorem writeK_landings (g : Group) (k : Nat) (v : W32) : (writeK g k v).landings = g.landings := by unfold writeK; split <;> rfl
@[simp] theorem writeK_counters (g : Group) (k : Nat) (v : W32) : (writeK g k v).counters = g.counters := by unfold writeK; split <;> rfl
@[simp] theorem writeK_latches (g : Group) (k : Nat) (v : W32) : (writeK g k v).latches = g.latches := by unfold writeK; split <;> rfl
@[simp] theorem writeK_unacked (g : Group) (k : Nat) (v : W32) : (writeK g k v).unacked = g.unacked := by unfold writeK; split <;> rfl
@[simp] theorem writeK_stamp (g : Group) (k : Nat) (v : W32) : (writeK g k v).stamp = g.stamp := by unfold writeK; split <;> rfl
@[simp] theorem writeK_depth (g : Group) (k : Nat) (v : W32) : (writeK g k v).depth = g.depth := by unfold writeK; split <;> rfl
@[simp] theorem writeK_saves (g : Group) (k : Nat) (v : W32) : (writeK g k v).saves = g.saves := by unfold writeK; split <;> rfl
@[simp] theorem writeK_role (g : Group) (k : Nat) (v : W32) : (writeK g k v).role = g.role := by unfold writeK; split <;> rfl
@[simp] theorem writeK_tilew (g : Group) (k : Nat) (v : W32) : (writeK g k v).tilew = g.tilew := by unfold writeK; split <;> rfl
@[simp] theorem writeK_fmode (g : Group) (k : Nat) (v : W32) : (writeK g k v).fmode = g.fmode := by unfold writeK; split <;> rfl
@[simp] theorem writeK_flags (g : Group) (k : Nat) (v : W32) : (writeK g k v).flags = g.flags := by unfold writeK; split <;> rfl
@[simp] theorem writeK_seedlo (g : Group) (k : Nat) (v : W32) : (writeK g k v).seedlo = g.seedlo := by unfold writeK; split <;> rfl
@[simp] theorem writeK_seedhi (g : Group) (k : Nat) (v : W32) : (writeK g k v).seedhi = g.seedhi := by unfold writeK; split <;> rfl
@[simp] theorem writeK_cseq (g : Group) (k : Nat) (v : W32) : (writeK g k v).cseq = g.cseq := by unfold writeK; split <;> rfl
@[simp] theorem writeK_lanebase (g : Group) (k : Nat) (v : W32) : (writeK g k v).lanebase = g.lanebase := by unfold writeK; split <;> rfl
@[simp] theorem writeK_events (g : Group) (k : Nat) (v : W32) : (writeK g k v).events = g.events := by unfold writeK; split <;> rfl
@[simp] theorem writeK_gframe (g : Group) (k : Nat) (v : W32) : (writeK g k v).gframe = g.gframe := by unfold writeK; split <;> rfl
@[simp] theorem writeK_tasks (g : Group) (k : Nat) (v : W32) : (writeK g k v).tasks = g.tasks := by unfold writeK; split <;> rfl
@[simp] theorem writeK_wframes (g : Group) (k : Nat) (v : W32) : (writeK g k v).wframes = g.wframes := by unfold writeK; split <;> rfl
@[simp] theorem writeK_entryVa (g : Group) (k : Nat) (v : W32) : (writeK g k v).entryVa = g.entryVa := by unfold writeK; split <;> rfl
@[simp] theorem writeK_wait (g : Group) (k : Nat) (v : W32) : (writeK g k v).wait = g.wait := by unfold writeK; split <;> rfl
@[simp] theorem writeK_since (g : Group) (k : Nat) (v : W32) : (writeK g k v).since = g.since := by unfold writeK; split <;> rfl
@[simp] theorem writeK_parkable (g : Group) (k : Nat) (v : W32) : (writeK g k v).parkable = g.parkable := by unfold writeK; split <;> rfl
@[simp] theorem writeK_arrived (g : Group) (k : Nat) (v : W32) : (writeK g k v).arrived = g.arrived := by unfold writeK; split <;> rfl
@[simp] theorem writeK_carrived (g : Group) (k : Nat) (v : W32) : (writeK g k v).carrived = g.carrived := by unfold writeK; split <;> rfl
@[simp] theorem writeK_phase (g : Group) (k : Nat) (v : W32) : (writeK g k v).phase = g.phase := by unfold writeK; split <;> rfl
@[simp] theorem writeK_cphase (g : Group) (k : Nat) (v : W32) : (writeK g k v).cphase = g.cphase := by unfold writeK; split <;> rfl
@[simp] theorem writeK_named (g : Group) (k : Nat) (v : W32) : (writeK g k v).named = g.named := by unfold writeK; split <;> rfl
@[simp] theorem writeK_deliver (g : Group) (k : Nat) (v : W32) : (writeK g k v).deliver = g.deliver := by unfold writeK; split <;> rfl
@[simp] theorem writeK_mapping (g : Group) (k : Nat) (v : W32) : (writeK g k v).mapping = g.mapping := by unfold writeK; split <;> rfl
@[simp] theorem writeK_declined (g : Group) (k : Nat) (v : W32) : (writeK g k v).declined = g.declined := by unfold writeK; split <;> rfl
@[simp] theorem writeK_seat (g : Group) (k : Nat) (v : W32) : (writeK g k v).seat = g.seat := by unfold writeK; split <;> rfl
@[simp] theorem writeK_lastRun (g : Group) (k : Nat) (v : W32) : (writeK g k v).lastRun = g.lastRun := by unfold writeK; split <;> rfl
@[simp] theorem writeK_yielded (g : Group) (k : Nat) (v : W32) : (writeK g k v).yielded = g.yielded := by unfold writeK; split <;> rfl
@[simp] theorem writeK_lastLane (g : Group) (k : Nat) (v : W32) : (writeK g k v).lastLane = g.lastLane := by unfold writeK; split <;> rfl
@[simp] theorem writeK_leftover (g : Group) (k : Nat) (v : W32) : (writeK g k v).leftover = g.leftover := by unfold writeK; split <;> rfl
@[simp] theorem writeK_poison (g : Group) (k : Nat) (v : W32) : (writeK g k v).poison = g.poison := by unfold writeK; split <;> rfl
@[simp] theorem writeK_due (g : Group) (k : Nat) (v : W32) : (writeK g k v).due = g.due := by unfold writeK; split <;> rfl
@[simp] theorem writeK_dueAt (g : Group) (k : Nat) (v : W32) : (writeK g k v).dueAt = g.dueAt := by unfold writeK; split <;> rfl

@[simp] theorem writeT_gid (g : Group) (t row col : Nat) (v : W32) : (writeT g t row col v).gid = g.gid := rfl
@[simp] theorem writeT_ctx (g : Group) (t row col : Nat) (v : W32) : (writeT g t row col v).ctx = g.ctx := rfl
@[simp] theorem writeT_core (g : Group) (t row col : Nat) (v : W32) : (writeT g t row col v).core = g.core := rfl
@[simp] theorem writeT_team (g : Group) (t row col : Nat) (v : W32) : (writeT g t row col v).team = g.team := rfl
@[simp] theorem writeT_index (g : Group) (t row col : Nat) (v : W32) : (writeT g t row col v).index = g.index := rfl
@[simp] theorem writeT_run (g : Group) (t row col : Nat) (v : W32) : (writeT g t row col v).run = g.run := rfl
@[simp] theorem writeT_spc (g : Group) (t row col : Nat) (v : W32) : (writeT g t row col v).spc = g.spc := rfl
@[simp] theorem writeT_priv (g : Group) (t row col : Nat) (v : W32) : (writeT g t row col v).priv = g.priv := rfl
@[simp] theorem writeT_sregs (g : Group) (t row col : Nat) (v : W32) : (writeT g t row col v).sregs = g.sregs := rfl
@[simp] theorem writeT_vregs (g : Group) (t row col : Nat) (v : W32) : (writeT g t row col v).vregs = g.vregs := rfl
@[simp] theorem writeT_vtags (g : Group) (t row col : Nat) (v : W32) : (writeT g t row col v).vtags = g.vtags := rfl
@[simp] theorem writeT_kregs (g : Group) (t row col : Nat) (v : W32) : (writeT g t row col v).kregs = g.kregs := rfl
@[simp] theorem writeT_ttags (g : Group) (t row col : Nat) (v : W32) : (writeT g t row col v).ttags = g.ttags := rfl
@[simp] theorem writeT_blocks (g : Group) (t row col : Nat) (v : W32) : (writeT g t row col v).blocks = g.blocks := rfl
@[simp] theorem writeT_tiles (g : Group) (t row col : Nat) (v : W32) : (writeT g t row col v).tiles = g.tiles := rfl
@[simp] theorem writeT_handles (g : Group) (t row col : Nat) (v : W32) : (writeT g t row col v).handles = g.handles := rfl
@[simp] theorem writeT_splits (g : Group) (t row col : Nat) (v : W32) : (writeT g t row col v).splits = g.splits := rfl
@[simp] theorem writeT_overflow (g : Group) (t row col : Nat) (v : W32) : (writeT g t row col v).overflow = g.overflow := rfl
@[simp] theorem writeT_slot (g : Group) (t row col : Nat) (v : W32) : (writeT g t row col v).slot = g.slot := rfl
@[simp] theorem writeT_call (g : Group) (t row col : Nat) (v : W32) : (writeT g t row col v).call = g.call := rfl
@[simp] theorem writeT_calls (g : Group) (t row col : Nat) (v : W32) : (writeT g t row col v).calls = g.calls := rfl
@[simp] theorem writeT_ren (g : Group) (t row col : Nat) (v : W32) : (writeT g t row col v).ren = g.ren := rfl
@[simp] theorem writeT_renOld (g : Group) (t row col : Nat) (v : W32) : (writeT g t row col v).renOld = g.renOld := rfl
@[simp] theorem writeT_meld (g : Group) (t row col : Nat) (v : W32) : (writeT g t row col v).meld = g.meld := rfl
@[simp] theorem writeT_landings (g : Group) (t row col : Nat) (v : W32) : (writeT g t row col v).landings = g.landings := rfl
@[simp] theorem writeT_counters (g : Group) (t row col : Nat) (v : W32) : (writeT g t row col v).counters = g.counters := rfl
@[simp] theorem writeT_latches (g : Group) (t row col : Nat) (v : W32) : (writeT g t row col v).latches = g.latches := rfl
@[simp] theorem writeT_unacked (g : Group) (t row col : Nat) (v : W32) : (writeT g t row col v).unacked = g.unacked := rfl
@[simp] theorem writeT_stamp (g : Group) (t row col : Nat) (v : W32) : (writeT g t row col v).stamp = g.stamp := rfl
@[simp] theorem writeT_depth (g : Group) (t row col : Nat) (v : W32) : (writeT g t row col v).depth = g.depth := rfl
@[simp] theorem writeT_saves (g : Group) (t row col : Nat) (v : W32) : (writeT g t row col v).saves = g.saves := rfl
@[simp] theorem writeT_role (g : Group) (t row col : Nat) (v : W32) : (writeT g t row col v).role = g.role := rfl
@[simp] theorem writeT_tilew (g : Group) (t row col : Nat) (v : W32) : (writeT g t row col v).tilew = g.tilew := rfl
@[simp] theorem writeT_fmode (g : Group) (t row col : Nat) (v : W32) : (writeT g t row col v).fmode = g.fmode := rfl
@[simp] theorem writeT_flags (g : Group) (t row col : Nat) (v : W32) : (writeT g t row col v).flags = g.flags := rfl
@[simp] theorem writeT_seedlo (g : Group) (t row col : Nat) (v : W32) : (writeT g t row col v).seedlo = g.seedlo := rfl
@[simp] theorem writeT_seedhi (g : Group) (t row col : Nat) (v : W32) : (writeT g t row col v).seedhi = g.seedhi := rfl
@[simp] theorem writeT_cseq (g : Group) (t row col : Nat) (v : W32) : (writeT g t row col v).cseq = g.cseq := rfl
@[simp] theorem writeT_lanebase (g : Group) (t row col : Nat) (v : W32) : (writeT g t row col v).lanebase = g.lanebase := rfl
@[simp] theorem writeT_events (g : Group) (t row col : Nat) (v : W32) : (writeT g t row col v).events = g.events := rfl
@[simp] theorem writeT_gframe (g : Group) (t row col : Nat) (v : W32) : (writeT g t row col v).gframe = g.gframe := rfl
@[simp] theorem writeT_tasks (g : Group) (t row col : Nat) (v : W32) : (writeT g t row col v).tasks = g.tasks := rfl
@[simp] theorem writeT_wframes (g : Group) (t row col : Nat) (v : W32) : (writeT g t row col v).wframes = g.wframes := rfl
@[simp] theorem writeT_entryVa (g : Group) (t row col : Nat) (v : W32) : (writeT g t row col v).entryVa = g.entryVa := rfl
@[simp] theorem writeT_wait (g : Group) (t row col : Nat) (v : W32) : (writeT g t row col v).wait = g.wait := rfl
@[simp] theorem writeT_since (g : Group) (t row col : Nat) (v : W32) : (writeT g t row col v).since = g.since := rfl
@[simp] theorem writeT_parkable (g : Group) (t row col : Nat) (v : W32) : (writeT g t row col v).parkable = g.parkable := rfl
@[simp] theorem writeT_arrived (g : Group) (t row col : Nat) (v : W32) : (writeT g t row col v).arrived = g.arrived := rfl
@[simp] theorem writeT_carrived (g : Group) (t row col : Nat) (v : W32) : (writeT g t row col v).carrived = g.carrived := rfl
@[simp] theorem writeT_phase (g : Group) (t row col : Nat) (v : W32) : (writeT g t row col v).phase = g.phase := rfl
@[simp] theorem writeT_cphase (g : Group) (t row col : Nat) (v : W32) : (writeT g t row col v).cphase = g.cphase := rfl
@[simp] theorem writeT_named (g : Group) (t row col : Nat) (v : W32) : (writeT g t row col v).named = g.named := rfl
@[simp] theorem writeT_deliver (g : Group) (t row col : Nat) (v : W32) : (writeT g t row col v).deliver = g.deliver := rfl
@[simp] theorem writeT_mapping (g : Group) (t row col : Nat) (v : W32) : (writeT g t row col v).mapping = g.mapping := rfl
@[simp] theorem writeT_declined (g : Group) (t row col : Nat) (v : W32) : (writeT g t row col v).declined = g.declined := rfl
@[simp] theorem writeT_seat (g : Group) (t row col : Nat) (v : W32) : (writeT g t row col v).seat = g.seat := rfl
@[simp] theorem writeT_lastRun (g : Group) (t row col : Nat) (v : W32) : (writeT g t row col v).lastRun = g.lastRun := rfl
@[simp] theorem writeT_yielded (g : Group) (t row col : Nat) (v : W32) : (writeT g t row col v).yielded = g.yielded := rfl
@[simp] theorem writeT_lastLane (g : Group) (t row col : Nat) (v : W32) : (writeT g t row col v).lastLane = g.lastLane := rfl
@[simp] theorem writeT_leftover (g : Group) (t row col : Nat) (v : W32) : (writeT g t row col v).leftover = g.leftover := rfl
@[simp] theorem writeT_due (g : Group) (t row col : Nat) (v : W32) : (writeT g t row col v).due = g.due := rfl
@[simp] theorem writeT_dueAt (g : Group) (t row col : Nat) (v : W32) : (writeT g t row col v).dueAt = g.dueAt := rfl

@[simp] theorem setTagT_gid (g : Group) (t : Nat) (v : BitVec 4) : (setTagT g t v).gid = g.gid := rfl
@[simp] theorem setTagT_ctx (g : Group) (t : Nat) (v : BitVec 4) : (setTagT g t v).ctx = g.ctx := rfl
@[simp] theorem setTagT_core (g : Group) (t : Nat) (v : BitVec 4) : (setTagT g t v).core = g.core := rfl
@[simp] theorem setTagT_team (g : Group) (t : Nat) (v : BitVec 4) : (setTagT g t v).team = g.team := rfl
@[simp] theorem setTagT_index (g : Group) (t : Nat) (v : BitVec 4) : (setTagT g t v).index = g.index := rfl
@[simp] theorem setTagT_run (g : Group) (t : Nat) (v : BitVec 4) : (setTagT g t v).run = g.run := rfl
@[simp] theorem setTagT_spc (g : Group) (t : Nat) (v : BitVec 4) : (setTagT g t v).spc = g.spc := rfl
@[simp] theorem setTagT_priv (g : Group) (t : Nat) (v : BitVec 4) : (setTagT g t v).priv = g.priv := rfl
@[simp] theorem setTagT_sregs (g : Group) (t : Nat) (v : BitVec 4) : (setTagT g t v).sregs = g.sregs := rfl
@[simp] theorem setTagT_vregs (g : Group) (t : Nat) (v : BitVec 4) : (setTagT g t v).vregs = g.vregs := rfl
@[simp] theorem setTagT_vtags (g : Group) (t : Nat) (v : BitVec 4) : (setTagT g t v).vtags = g.vtags := rfl
@[simp] theorem setTagT_kregs (g : Group) (t : Nat) (v : BitVec 4) : (setTagT g t v).kregs = g.kregs := rfl
@[simp] theorem setTagT_tregs (g : Group) (t : Nat) (v : BitVec 4) : (setTagT g t v).tregs = g.tregs := rfl
@[simp] theorem setTagT_blocks (g : Group) (t : Nat) (v : BitVec 4) : (setTagT g t v).blocks = g.blocks := rfl
@[simp] theorem setTagT_tiles (g : Group) (t : Nat) (v : BitVec 4) : (setTagT g t v).tiles = g.tiles := rfl
@[simp] theorem setTagT_handles (g : Group) (t : Nat) (v : BitVec 4) : (setTagT g t v).handles = g.handles := rfl
@[simp] theorem setTagT_splits (g : Group) (t : Nat) (v : BitVec 4) : (setTagT g t v).splits = g.splits := rfl
@[simp] theorem setTagT_overflow (g : Group) (t : Nat) (v : BitVec 4) : (setTagT g t v).overflow = g.overflow := rfl
@[simp] theorem setTagT_slot (g : Group) (t : Nat) (v : BitVec 4) : (setTagT g t v).slot = g.slot := rfl
@[simp] theorem setTagT_call (g : Group) (t : Nat) (v : BitVec 4) : (setTagT g t v).call = g.call := rfl
@[simp] theorem setTagT_calls (g : Group) (t : Nat) (v : BitVec 4) : (setTagT g t v).calls = g.calls := rfl
@[simp] theorem setTagT_ren (g : Group) (t : Nat) (v : BitVec 4) : (setTagT g t v).ren = g.ren := rfl
@[simp] theorem setTagT_renOld (g : Group) (t : Nat) (v : BitVec 4) : (setTagT g t v).renOld = g.renOld := rfl
@[simp] theorem setTagT_meld (g : Group) (t : Nat) (v : BitVec 4) : (setTagT g t v).meld = g.meld := rfl
@[simp] theorem setTagT_landings (g : Group) (t : Nat) (v : BitVec 4) : (setTagT g t v).landings = g.landings := rfl
@[simp] theorem setTagT_counters (g : Group) (t : Nat) (v : BitVec 4) : (setTagT g t v).counters = g.counters := rfl
@[simp] theorem setTagT_latches (g : Group) (t : Nat) (v : BitVec 4) : (setTagT g t v).latches = g.latches := rfl
@[simp] theorem setTagT_unacked (g : Group) (t : Nat) (v : BitVec 4) : (setTagT g t v).unacked = g.unacked := rfl
@[simp] theorem setTagT_stamp (g : Group) (t : Nat) (v : BitVec 4) : (setTagT g t v).stamp = g.stamp := rfl
@[simp] theorem setTagT_depth (g : Group) (t : Nat) (v : BitVec 4) : (setTagT g t v).depth = g.depth := rfl
@[simp] theorem setTagT_saves (g : Group) (t : Nat) (v : BitVec 4) : (setTagT g t v).saves = g.saves := rfl
@[simp] theorem setTagT_role (g : Group) (t : Nat) (v : BitVec 4) : (setTagT g t v).role = g.role := rfl
@[simp] theorem setTagT_tilew (g : Group) (t : Nat) (v : BitVec 4) : (setTagT g t v).tilew = g.tilew := rfl
@[simp] theorem setTagT_fmode (g : Group) (t : Nat) (v : BitVec 4) : (setTagT g t v).fmode = g.fmode := rfl
@[simp] theorem setTagT_flags (g : Group) (t : Nat) (v : BitVec 4) : (setTagT g t v).flags = g.flags := rfl
@[simp] theorem setTagT_seedlo (g : Group) (t : Nat) (v : BitVec 4) : (setTagT g t v).seedlo = g.seedlo := rfl
@[simp] theorem setTagT_seedhi (g : Group) (t : Nat) (v : BitVec 4) : (setTagT g t v).seedhi = g.seedhi := rfl
@[simp] theorem setTagT_cseq (g : Group) (t : Nat) (v : BitVec 4) : (setTagT g t v).cseq = g.cseq := rfl
@[simp] theorem setTagT_lanebase (g : Group) (t : Nat) (v : BitVec 4) : (setTagT g t v).lanebase = g.lanebase := rfl
@[simp] theorem setTagT_events (g : Group) (t : Nat) (v : BitVec 4) : (setTagT g t v).events = g.events := rfl
@[simp] theorem setTagT_gframe (g : Group) (t : Nat) (v : BitVec 4) : (setTagT g t v).gframe = g.gframe := rfl
@[simp] theorem setTagT_tasks (g : Group) (t : Nat) (v : BitVec 4) : (setTagT g t v).tasks = g.tasks := rfl
@[simp] theorem setTagT_wframes (g : Group) (t : Nat) (v : BitVec 4) : (setTagT g t v).wframes = g.wframes := rfl
@[simp] theorem setTagT_entryVa (g : Group) (t : Nat) (v : BitVec 4) : (setTagT g t v).entryVa = g.entryVa := rfl
@[simp] theorem setTagT_wait (g : Group) (t : Nat) (v : BitVec 4) : (setTagT g t v).wait = g.wait := rfl
@[simp] theorem setTagT_since (g : Group) (t : Nat) (v : BitVec 4) : (setTagT g t v).since = g.since := rfl
@[simp] theorem setTagT_parkable (g : Group) (t : Nat) (v : BitVec 4) : (setTagT g t v).parkable = g.parkable := rfl
@[simp] theorem setTagT_arrived (g : Group) (t : Nat) (v : BitVec 4) : (setTagT g t v).arrived = g.arrived := rfl
@[simp] theorem setTagT_carrived (g : Group) (t : Nat) (v : BitVec 4) : (setTagT g t v).carrived = g.carrived := rfl
@[simp] theorem setTagT_phase (g : Group) (t : Nat) (v : BitVec 4) : (setTagT g t v).phase = g.phase := rfl
@[simp] theorem setTagT_cphase (g : Group) (t : Nat) (v : BitVec 4) : (setTagT g t v).cphase = g.cphase := rfl
@[simp] theorem setTagT_named (g : Group) (t : Nat) (v : BitVec 4) : (setTagT g t v).named = g.named := rfl
@[simp] theorem setTagT_deliver (g : Group) (t : Nat) (v : BitVec 4) : (setTagT g t v).deliver = g.deliver := rfl
@[simp] theorem setTagT_mapping (g : Group) (t : Nat) (v : BitVec 4) : (setTagT g t v).mapping = g.mapping := rfl
@[simp] theorem setTagT_declined (g : Group) (t : Nat) (v : BitVec 4) : (setTagT g t v).declined = g.declined := rfl
@[simp] theorem setTagT_seat (g : Group) (t : Nat) (v : BitVec 4) : (setTagT g t v).seat = g.seat := rfl
@[simp] theorem setTagT_lastRun (g : Group) (t : Nat) (v : BitVec 4) : (setTagT g t v).lastRun = g.lastRun := rfl
@[simp] theorem setTagT_yielded (g : Group) (t : Nat) (v : BitVec 4) : (setTagT g t v).yielded = g.yielded := rfl
@[simp] theorem setTagT_lastLane (g : Group) (t : Nat) (v : BitVec 4) : (setTagT g t v).lastLane = g.lastLane := rfl
@[simp] theorem setTagT_leftover (g : Group) (t : Nat) (v : BitVec 4) : (setTagT g t v).leftover = g.leftover := rfl
@[simp] theorem setTagT_poison (g : Group) (t : Nat) (v : BitVec 4) : (setTagT g t v).poison = g.poison := rfl
@[simp] theorem setTagT_due (g : Group) (t : Nat) (v : BitVec 4) : (setTagT g t v).due = g.due := rfl
@[simp] theorem setTagT_dueAt (g : Group) (t : Nat) (v : BitVec 4) : (setTagT g t v).dueAt = g.dueAt := rfl

@[simp] theorem writeH_gid (g : Group) (h : Nat) (v : HandleState) : (writeH g h v).gid = g.gid := by unfold writeH; split <;> rfl
@[simp] theorem writeH_ctx (g : Group) (h : Nat) (v : HandleState) : (writeH g h v).ctx = g.ctx := by unfold writeH; split <;> rfl
@[simp] theorem writeH_core (g : Group) (h : Nat) (v : HandleState) : (writeH g h v).core = g.core := by unfold writeH; split <;> rfl
@[simp] theorem writeH_team (g : Group) (h : Nat) (v : HandleState) : (writeH g h v).team = g.team := by unfold writeH; split <;> rfl
@[simp] theorem writeH_index (g : Group) (h : Nat) (v : HandleState) : (writeH g h v).index = g.index := by unfold writeH; split <;> rfl
@[simp] theorem writeH_run (g : Group) (h : Nat) (v : HandleState) : (writeH g h v).run = g.run := by unfold writeH; split <;> rfl
@[simp] theorem writeH_spc (g : Group) (h : Nat) (v : HandleState) : (writeH g h v).spc = g.spc := by unfold writeH; split <;> rfl
@[simp] theorem writeH_priv (g : Group) (h : Nat) (v : HandleState) : (writeH g h v).priv = g.priv := by unfold writeH; split <;> rfl
@[simp] theorem writeH_sregs (g : Group) (h : Nat) (v : HandleState) : (writeH g h v).sregs = g.sregs := by unfold writeH; split <;> rfl
@[simp] theorem writeH_vregs (g : Group) (h : Nat) (v : HandleState) : (writeH g h v).vregs = g.vregs := by unfold writeH; split <;> rfl
@[simp] theorem writeH_vtags (g : Group) (h : Nat) (v : HandleState) : (writeH g h v).vtags = g.vtags := by unfold writeH; split <;> rfl
@[simp] theorem writeH_kregs (g : Group) (h : Nat) (v : HandleState) : (writeH g h v).kregs = g.kregs := by unfold writeH; split <;> rfl
@[simp] theorem writeH_tregs (g : Group) (h : Nat) (v : HandleState) : (writeH g h v).tregs = g.tregs := by unfold writeH; split <;> rfl
@[simp] theorem writeH_ttags (g : Group) (h : Nat) (v : HandleState) : (writeH g h v).ttags = g.ttags := by unfold writeH; split <;> rfl
@[simp] theorem writeH_blocks (g : Group) (h : Nat) (v : HandleState) : (writeH g h v).blocks = g.blocks := by unfold writeH; split <;> rfl
@[simp] theorem writeH_tiles (g : Group) (h : Nat) (v : HandleState) : (writeH g h v).tiles = g.tiles := by unfold writeH; split <;> rfl
@[simp] theorem writeH_splits (g : Group) (h : Nat) (v : HandleState) : (writeH g h v).splits = g.splits := by unfold writeH; split <;> rfl
@[simp] theorem writeH_overflow (g : Group) (h : Nat) (v : HandleState) : (writeH g h v).overflow = g.overflow := by unfold writeH; split <;> rfl
@[simp] theorem writeH_slot (g : Group) (h : Nat) (v : HandleState) : (writeH g h v).slot = g.slot := by unfold writeH; split <;> rfl
@[simp] theorem writeH_call (g : Group) (h : Nat) (v : HandleState) : (writeH g h v).call = g.call := by unfold writeH; split <;> rfl
@[simp] theorem writeH_calls (g : Group) (h : Nat) (v : HandleState) : (writeH g h v).calls = g.calls := by unfold writeH; split <;> rfl
@[simp] theorem writeH_ren (g : Group) (h : Nat) (v : HandleState) : (writeH g h v).ren = g.ren := by unfold writeH; split <;> rfl
@[simp] theorem writeH_renOld (g : Group) (h : Nat) (v : HandleState) : (writeH g h v).renOld = g.renOld := by unfold writeH; split <;> rfl
@[simp] theorem writeH_meld (g : Group) (h : Nat) (v : HandleState) : (writeH g h v).meld = g.meld := by unfold writeH; split <;> rfl
@[simp] theorem writeH_landings (g : Group) (h : Nat) (v : HandleState) : (writeH g h v).landings = g.landings := by unfold writeH; split <;> rfl
@[simp] theorem writeH_counters (g : Group) (h : Nat) (v : HandleState) : (writeH g h v).counters = g.counters := by unfold writeH; split <;> rfl
@[simp] theorem writeH_latches (g : Group) (h : Nat) (v : HandleState) : (writeH g h v).latches = g.latches := by unfold writeH; split <;> rfl
@[simp] theorem writeH_unacked (g : Group) (h : Nat) (v : HandleState) : (writeH g h v).unacked = g.unacked := by unfold writeH; split <;> rfl
@[simp] theorem writeH_stamp (g : Group) (h : Nat) (v : HandleState) : (writeH g h v).stamp = g.stamp := by unfold writeH; split <;> rfl
@[simp] theorem writeH_depth (g : Group) (h : Nat) (v : HandleState) : (writeH g h v).depth = g.depth := by unfold writeH; split <;> rfl
@[simp] theorem writeH_saves (g : Group) (h : Nat) (v : HandleState) : (writeH g h v).saves = g.saves := by unfold writeH; split <;> rfl
@[simp] theorem writeH_role (g : Group) (h : Nat) (v : HandleState) : (writeH g h v).role = g.role := by unfold writeH; split <;> rfl
@[simp] theorem writeH_tilew (g : Group) (h : Nat) (v : HandleState) : (writeH g h v).tilew = g.tilew := by unfold writeH; split <;> rfl
@[simp] theorem writeH_fmode (g : Group) (h : Nat) (v : HandleState) : (writeH g h v).fmode = g.fmode := by unfold writeH; split <;> rfl
@[simp] theorem writeH_flags (g : Group) (h : Nat) (v : HandleState) : (writeH g h v).flags = g.flags := by unfold writeH; split <;> rfl
@[simp] theorem writeH_seedlo (g : Group) (h : Nat) (v : HandleState) : (writeH g h v).seedlo = g.seedlo := by unfold writeH; split <;> rfl
@[simp] theorem writeH_seedhi (g : Group) (h : Nat) (v : HandleState) : (writeH g h v).seedhi = g.seedhi := by unfold writeH; split <;> rfl
@[simp] theorem writeH_cseq (g : Group) (h : Nat) (v : HandleState) : (writeH g h v).cseq = g.cseq := by unfold writeH; split <;> rfl
@[simp] theorem writeH_lanebase (g : Group) (h : Nat) (v : HandleState) : (writeH g h v).lanebase = g.lanebase := by unfold writeH; split <;> rfl
@[simp] theorem writeH_events (g : Group) (h : Nat) (v : HandleState) : (writeH g h v).events = g.events := by unfold writeH; split <;> rfl
@[simp] theorem writeH_gframe (g : Group) (h : Nat) (v : HandleState) : (writeH g h v).gframe = g.gframe := by unfold writeH; split <;> rfl
@[simp] theorem writeH_tasks (g : Group) (h : Nat) (v : HandleState) : (writeH g h v).tasks = g.tasks := by unfold writeH; split <;> rfl
@[simp] theorem writeH_wframes (g : Group) (h : Nat) (v : HandleState) : (writeH g h v).wframes = g.wframes := by unfold writeH; split <;> rfl
@[simp] theorem writeH_entryVa (g : Group) (h : Nat) (v : HandleState) : (writeH g h v).entryVa = g.entryVa := by unfold writeH; split <;> rfl
@[simp] theorem writeH_wait (g : Group) (h : Nat) (v : HandleState) : (writeH g h v).wait = g.wait := by unfold writeH; split <;> rfl
@[simp] theorem writeH_since (g : Group) (h : Nat) (v : HandleState) : (writeH g h v).since = g.since := by unfold writeH; split <;> rfl
@[simp] theorem writeH_parkable (g : Group) (h : Nat) (v : HandleState) : (writeH g h v).parkable = g.parkable := by unfold writeH; split <;> rfl
@[simp] theorem writeH_arrived (g : Group) (h : Nat) (v : HandleState) : (writeH g h v).arrived = g.arrived := by unfold writeH; split <;> rfl
@[simp] theorem writeH_carrived (g : Group) (h : Nat) (v : HandleState) : (writeH g h v).carrived = g.carrived := by unfold writeH; split <;> rfl
@[simp] theorem writeH_phase (g : Group) (h : Nat) (v : HandleState) : (writeH g h v).phase = g.phase := by unfold writeH; split <;> rfl
@[simp] theorem writeH_cphase (g : Group) (h : Nat) (v : HandleState) : (writeH g h v).cphase = g.cphase := by unfold writeH; split <;> rfl
@[simp] theorem writeH_named (g : Group) (h : Nat) (v : HandleState) : (writeH g h v).named = g.named := by unfold writeH; split <;> rfl
@[simp] theorem writeH_deliver (g : Group) (h : Nat) (v : HandleState) : (writeH g h v).deliver = g.deliver := by unfold writeH; split <;> rfl
@[simp] theorem writeH_mapping (g : Group) (h : Nat) (v : HandleState) : (writeH g h v).mapping = g.mapping := by unfold writeH; split <;> rfl
@[simp] theorem writeH_declined (g : Group) (h : Nat) (v : HandleState) : (writeH g h v).declined = g.declined := by unfold writeH; split <;> rfl
@[simp] theorem writeH_seat (g : Group) (h : Nat) (v : HandleState) : (writeH g h v).seat = g.seat := by unfold writeH; split <;> rfl
@[simp] theorem writeH_lastRun (g : Group) (h : Nat) (v : HandleState) : (writeH g h v).lastRun = g.lastRun := by unfold writeH; split <;> rfl
@[simp] theorem writeH_yielded (g : Group) (h : Nat) (v : HandleState) : (writeH g h v).yielded = g.yielded := by unfold writeH; split <;> rfl
@[simp] theorem writeH_lastLane (g : Group) (h : Nat) (v : HandleState) : (writeH g h v).lastLane = g.lastLane := by unfold writeH; split <;> rfl
@[simp] theorem writeH_leftover (g : Group) (h : Nat) (v : HandleState) : (writeH g h v).leftover = g.leftover := by unfold writeH; split <;> rfl
@[simp] theorem writeH_poison (g : Group) (h : Nat) (v : HandleState) : (writeH g h v).poison = g.poison := by unfold writeH; split <;> rfl
@[simp] theorem writeH_due (g : Group) (h : Nat) (v : HandleState) : (writeH g h v).due = g.due := by unfold writeH; split <;> rfl
@[simp] theorem writeH_dueAt (g : Group) (h : Nat) (v : HandleState) : (writeH g h v).dueAt = g.dueAt := by unfold writeH; split <;> rfl

@[simp] theorem setSplit_gid (g : Group) (e : Nat) (x : Split) : (setSplit g e x).gid = g.gid := rfl
@[simp] theorem setSplit_ctx (g : Group) (e : Nat) (x : Split) : (setSplit g e x).ctx = g.ctx := rfl
@[simp] theorem setSplit_core (g : Group) (e : Nat) (x : Split) : (setSplit g e x).core = g.core := rfl
@[simp] theorem setSplit_team (g : Group) (e : Nat) (x : Split) : (setSplit g e x).team = g.team := rfl
@[simp] theorem setSplit_index (g : Group) (e : Nat) (x : Split) : (setSplit g e x).index = g.index := rfl
@[simp] theorem setSplit_run (g : Group) (e : Nat) (x : Split) : (setSplit g e x).run = g.run := rfl
@[simp] theorem setSplit_spc (g : Group) (e : Nat) (x : Split) : (setSplit g e x).spc = g.spc := rfl
@[simp] theorem setSplit_priv (g : Group) (e : Nat) (x : Split) : (setSplit g e x).priv = g.priv := rfl
@[simp] theorem setSplit_sregs (g : Group) (e : Nat) (x : Split) : (setSplit g e x).sregs = g.sregs := rfl
@[simp] theorem setSplit_vregs (g : Group) (e : Nat) (x : Split) : (setSplit g e x).vregs = g.vregs := rfl
@[simp] theorem setSplit_vtags (g : Group) (e : Nat) (x : Split) : (setSplit g e x).vtags = g.vtags := rfl
@[simp] theorem setSplit_kregs (g : Group) (e : Nat) (x : Split) : (setSplit g e x).kregs = g.kregs := rfl
@[simp] theorem setSplit_tregs (g : Group) (e : Nat) (x : Split) : (setSplit g e x).tregs = g.tregs := rfl
@[simp] theorem setSplit_ttags (g : Group) (e : Nat) (x : Split) : (setSplit g e x).ttags = g.ttags := rfl
@[simp] theorem setSplit_blocks (g : Group) (e : Nat) (x : Split) : (setSplit g e x).blocks = g.blocks := rfl
@[simp] theorem setSplit_tiles (g : Group) (e : Nat) (x : Split) : (setSplit g e x).tiles = g.tiles := rfl
@[simp] theorem setSplit_handles (g : Group) (e : Nat) (x : Split) : (setSplit g e x).handles = g.handles := rfl
@[simp] theorem setSplit_overflow (g : Group) (e : Nat) (x : Split) : (setSplit g e x).overflow = g.overflow := rfl
@[simp] theorem setSplit_slot (g : Group) (e : Nat) (x : Split) : (setSplit g e x).slot = g.slot := rfl
@[simp] theorem setSplit_call (g : Group) (e : Nat) (x : Split) : (setSplit g e x).call = g.call := rfl
@[simp] theorem setSplit_calls (g : Group) (e : Nat) (x : Split) : (setSplit g e x).calls = g.calls := rfl
@[simp] theorem setSplit_ren (g : Group) (e : Nat) (x : Split) : (setSplit g e x).ren = g.ren := rfl
@[simp] theorem setSplit_renOld (g : Group) (e : Nat) (x : Split) : (setSplit g e x).renOld = g.renOld := rfl
@[simp] theorem setSplit_meld (g : Group) (e : Nat) (x : Split) : (setSplit g e x).meld = g.meld := rfl
@[simp] theorem setSplit_landings (g : Group) (e : Nat) (x : Split) : (setSplit g e x).landings = g.landings := rfl
@[simp] theorem setSplit_counters (g : Group) (e : Nat) (x : Split) : (setSplit g e x).counters = g.counters := rfl
@[simp] theorem setSplit_latches (g : Group) (e : Nat) (x : Split) : (setSplit g e x).latches = g.latches := rfl
@[simp] theorem setSplit_unacked (g : Group) (e : Nat) (x : Split) : (setSplit g e x).unacked = g.unacked := rfl
@[simp] theorem setSplit_stamp (g : Group) (e : Nat) (x : Split) : (setSplit g e x).stamp = g.stamp := rfl
@[simp] theorem setSplit_depth (g : Group) (e : Nat) (x : Split) : (setSplit g e x).depth = g.depth := rfl
@[simp] theorem setSplit_saves (g : Group) (e : Nat) (x : Split) : (setSplit g e x).saves = g.saves := rfl
@[simp] theorem setSplit_role (g : Group) (e : Nat) (x : Split) : (setSplit g e x).role = g.role := rfl
@[simp] theorem setSplit_tilew (g : Group) (e : Nat) (x : Split) : (setSplit g e x).tilew = g.tilew := rfl
@[simp] theorem setSplit_fmode (g : Group) (e : Nat) (x : Split) : (setSplit g e x).fmode = g.fmode := rfl
@[simp] theorem setSplit_flags (g : Group) (e : Nat) (x : Split) : (setSplit g e x).flags = g.flags := rfl
@[simp] theorem setSplit_seedlo (g : Group) (e : Nat) (x : Split) : (setSplit g e x).seedlo = g.seedlo := rfl
@[simp] theorem setSplit_seedhi (g : Group) (e : Nat) (x : Split) : (setSplit g e x).seedhi = g.seedhi := rfl
@[simp] theorem setSplit_cseq (g : Group) (e : Nat) (x : Split) : (setSplit g e x).cseq = g.cseq := rfl
@[simp] theorem setSplit_lanebase (g : Group) (e : Nat) (x : Split) : (setSplit g e x).lanebase = g.lanebase := rfl
@[simp] theorem setSplit_events (g : Group) (e : Nat) (x : Split) : (setSplit g e x).events = g.events := rfl
@[simp] theorem setSplit_gframe (g : Group) (e : Nat) (x : Split) : (setSplit g e x).gframe = g.gframe := rfl
@[simp] theorem setSplit_tasks (g : Group) (e : Nat) (x : Split) : (setSplit g e x).tasks = g.tasks := rfl
@[simp] theorem setSplit_wframes (g : Group) (e : Nat) (x : Split) : (setSplit g e x).wframes = g.wframes := rfl
@[simp] theorem setSplit_entryVa (g : Group) (e : Nat) (x : Split) : (setSplit g e x).entryVa = g.entryVa := rfl
@[simp] theorem setSplit_wait (g : Group) (e : Nat) (x : Split) : (setSplit g e x).wait = g.wait := rfl
@[simp] theorem setSplit_since (g : Group) (e : Nat) (x : Split) : (setSplit g e x).since = g.since := rfl
@[simp] theorem setSplit_parkable (g : Group) (e : Nat) (x : Split) : (setSplit g e x).parkable = g.parkable := rfl
@[simp] theorem setSplit_arrived (g : Group) (e : Nat) (x : Split) : (setSplit g e x).arrived = g.arrived := rfl
@[simp] theorem setSplit_carrived (g : Group) (e : Nat) (x : Split) : (setSplit g e x).carrived = g.carrived := rfl
@[simp] theorem setSplit_phase (g : Group) (e : Nat) (x : Split) : (setSplit g e x).phase = g.phase := rfl
@[simp] theorem setSplit_cphase (g : Group) (e : Nat) (x : Split) : (setSplit g e x).cphase = g.cphase := rfl
@[simp] theorem setSplit_named (g : Group) (e : Nat) (x : Split) : (setSplit g e x).named = g.named := rfl
@[simp] theorem setSplit_deliver (g : Group) (e : Nat) (x : Split) : (setSplit g e x).deliver = g.deliver := rfl
@[simp] theorem setSplit_mapping (g : Group) (e : Nat) (x : Split) : (setSplit g e x).mapping = g.mapping := rfl
@[simp] theorem setSplit_declined (g : Group) (e : Nat) (x : Split) : (setSplit g e x).declined = g.declined := rfl
@[simp] theorem setSplit_seat (g : Group) (e : Nat) (x : Split) : (setSplit g e x).seat = g.seat := rfl
@[simp] theorem setSplit_lastRun (g : Group) (e : Nat) (x : Split) : (setSplit g e x).lastRun = g.lastRun := rfl
@[simp] theorem setSplit_yielded (g : Group) (e : Nat) (x : Split) : (setSplit g e x).yielded = g.yielded := rfl
@[simp] theorem setSplit_lastLane (g : Group) (e : Nat) (x : Split) : (setSplit g e x).lastLane = g.lastLane := rfl
@[simp] theorem setSplit_leftover (g : Group) (e : Nat) (x : Split) : (setSplit g e x).leftover = g.leftover := rfl
@[simp] theorem setSplit_poison (g : Group) (e : Nat) (x : Split) : (setSplit g e x).poison = g.poison := rfl
@[simp] theorem setSplit_due (g : Group) (e : Nat) (x : Split) : (setSplit g e x).due = g.due := rfl
@[simp] theorem setSplit_dueAt (g : Group) (e : Nat) (x : Split) : (setSplit g e x).dueAt = g.dueAt := rfl

/-- A fold of steps that leave a projection alone leaves it alone. -/
theorem foldl_proj {σ β γ : Type} (p : σ → γ) (f : σ → β → σ) (hf : ∀ s b, p (f s b) = p s) (l : List β) (s : σ) :
    p (l.foldl f s) = p s := by
  induction l generalizing s with
  | nil => rfl
  | cons b l ih => rw [List.foldl_cons, ih, hf]

/-- Elements written one by one. -/
theorem foldl_writeV {γ : Type} (p : Group → γ) (h : ∀ g r l v, p (writeV g r l v) = p g) (g : Group) (r : Nat)
    (vs : List (Nat × W32)) : p (vs.foldl (fun acc q => writeV acc r q.1 q.2) g) = p g :=
  foldl_proj p _ (fun g (q : Nat × W32) => h g r q.1 q.2) _ _

/-! ### A group: a register written whole, a result under its key -/

@[simp] theorem writeReg_gid (g : Group) (r : Nat) (t : BitVec 4) (vs : List (Nat × W32)) : (writeReg g r t vs).gid = g.gid := by
  rw [writeReg, setTagV_gid]; exact foldl_writeV Group.gid (fun _ _ _ _ => rfl) _ _ _
@[simp] theorem writeReg_ctx (g : Group) (r : Nat) (t : BitVec 4) (vs : List (Nat × W32)) : (writeReg g r t vs).ctx = g.ctx := by
  rw [writeReg, setTagV_ctx]; exact foldl_writeV Group.ctx (fun _ _ _ _ => rfl) _ _ _
@[simp] theorem writeReg_core (g : Group) (r : Nat) (t : BitVec 4) (vs : List (Nat × W32)) : (writeReg g r t vs).core = g.core := by
  rw [writeReg, setTagV_core]; exact foldl_writeV Group.core (fun _ _ _ _ => rfl) _ _ _
@[simp] theorem writeReg_team (g : Group) (r : Nat) (t : BitVec 4) (vs : List (Nat × W32)) : (writeReg g r t vs).team = g.team := by
  rw [writeReg, setTagV_team]; exact foldl_writeV Group.team (fun _ _ _ _ => rfl) _ _ _
@[simp] theorem writeReg_index (g : Group) (r : Nat) (t : BitVec 4) (vs : List (Nat × W32)) : (writeReg g r t vs).index = g.index := by
  rw [writeReg, setTagV_index]; exact foldl_writeV Group.index (fun _ _ _ _ => rfl) _ _ _
@[simp] theorem writeReg_run (g : Group) (r : Nat) (t : BitVec 4) (vs : List (Nat × W32)) : (writeReg g r t vs).run = g.run := by
  rw [writeReg, setTagV_run]; exact foldl_writeV Group.run (fun _ _ _ _ => rfl) _ _ _
@[simp] theorem writeReg_spc (g : Group) (r : Nat) (t : BitVec 4) (vs : List (Nat × W32)) : (writeReg g r t vs).spc = g.spc := by
  rw [writeReg, setTagV_spc]; exact foldl_writeV Group.spc (fun _ _ _ _ => rfl) _ _ _
@[simp] theorem writeReg_priv (g : Group) (r : Nat) (t : BitVec 4) (vs : List (Nat × W32)) : (writeReg g r t vs).priv = g.priv := by
  rw [writeReg, setTagV_priv]; exact foldl_writeV Group.priv (fun _ _ _ _ => rfl) _ _ _
@[simp] theorem writeReg_sregs (g : Group) (r : Nat) (t : BitVec 4) (vs : List (Nat × W32)) : (writeReg g r t vs).sregs = g.sregs := by
  rw [writeReg, setTagV_sregs]; exact foldl_writeV Group.sregs (fun _ _ _ _ => rfl) _ _ _
@[simp] theorem writeReg_kregs (g : Group) (r : Nat) (t : BitVec 4) (vs : List (Nat × W32)) : (writeReg g r t vs).kregs = g.kregs := by
  rw [writeReg, setTagV_kregs]; exact foldl_writeV Group.kregs (fun _ _ _ _ => rfl) _ _ _
@[simp] theorem writeReg_tregs (g : Group) (r : Nat) (t : BitVec 4) (vs : List (Nat × W32)) : (writeReg g r t vs).tregs = g.tregs := by
  rw [writeReg, setTagV_tregs]; exact foldl_writeV Group.tregs (fun _ _ _ _ => rfl) _ _ _
@[simp] theorem writeReg_ttags (g : Group) (r : Nat) (t : BitVec 4) (vs : List (Nat × W32)) : (writeReg g r t vs).ttags = g.ttags := by
  rw [writeReg, setTagV_ttags]; exact foldl_writeV Group.ttags (fun _ _ _ _ => rfl) _ _ _
@[simp] theorem writeReg_blocks (g : Group) (r : Nat) (t : BitVec 4) (vs : List (Nat × W32)) : (writeReg g r t vs).blocks = g.blocks := by
  rw [writeReg, setTagV_blocks]; exact foldl_writeV Group.blocks (fun _ _ _ _ => rfl) _ _ _
@[simp] theorem writeReg_tiles (g : Group) (r : Nat) (t : BitVec 4) (vs : List (Nat × W32)) : (writeReg g r t vs).tiles = g.tiles := by
  rw [writeReg, setTagV_tiles]; exact foldl_writeV Group.tiles (fun _ _ _ _ => rfl) _ _ _
@[simp] theorem writeReg_handles (g : Group) (r : Nat) (t : BitVec 4) (vs : List (Nat × W32)) : (writeReg g r t vs).handles = g.handles := by
  rw [writeReg, setTagV_handles]; exact foldl_writeV Group.handles (fun _ _ _ _ => rfl) _ _ _
@[simp] theorem writeReg_splits (g : Group) (r : Nat) (t : BitVec 4) (vs : List (Nat × W32)) : (writeReg g r t vs).splits = g.splits := by
  rw [writeReg, setTagV_splits]; exact foldl_writeV Group.splits (fun _ _ _ _ => rfl) _ _ _
@[simp] theorem writeReg_overflow (g : Group) (r : Nat) (t : BitVec 4) (vs : List (Nat × W32)) : (writeReg g r t vs).overflow = g.overflow := by
  rw [writeReg, setTagV_overflow]; exact foldl_writeV Group.overflow (fun _ _ _ _ => rfl) _ _ _
@[simp] theorem writeReg_slot (g : Group) (r : Nat) (t : BitVec 4) (vs : List (Nat × W32)) : (writeReg g r t vs).slot = g.slot := by
  rw [writeReg, setTagV_slot]; exact foldl_writeV Group.slot (fun _ _ _ _ => rfl) _ _ _
@[simp] theorem writeReg_calls (g : Group) (r : Nat) (t : BitVec 4) (vs : List (Nat × W32)) : (writeReg g r t vs).calls = g.calls := by
  rw [writeReg, setTagV_calls]; exact foldl_writeV Group.calls (fun _ _ _ _ => rfl) _ _ _
@[simp] theorem writeReg_ren (g : Group) (r : Nat) (t : BitVec 4) (vs : List (Nat × W32)) : (writeReg g r t vs).ren = g.ren := by
  rw [writeReg, setTagV_ren]; exact foldl_writeV Group.ren (fun _ _ _ _ => rfl) _ _ _
@[simp] theorem writeReg_renOld (g : Group) (r : Nat) (t : BitVec 4) (vs : List (Nat × W32)) : (writeReg g r t vs).renOld = g.renOld := by
  rw [writeReg, setTagV_renOld]; exact foldl_writeV Group.renOld (fun _ _ _ _ => rfl) _ _ _
@[simp] theorem writeReg_meld (g : Group) (r : Nat) (t : BitVec 4) (vs : List (Nat × W32)) : (writeReg g r t vs).meld = g.meld := by
  rw [writeReg, setTagV_meld]; exact foldl_writeV Group.meld (fun _ _ _ _ => rfl) _ _ _
@[simp] theorem writeReg_landings (g : Group) (r : Nat) (t : BitVec 4) (vs : List (Nat × W32)) : (writeReg g r t vs).landings = g.landings := by
  rw [writeReg, setTagV_landings]; exact foldl_writeV Group.landings (fun _ _ _ _ => rfl) _ _ _
@[simp] theorem writeReg_counters (g : Group) (r : Nat) (t : BitVec 4) (vs : List (Nat × W32)) : (writeReg g r t vs).counters = g.counters := by
  rw [writeReg, setTagV_counters]; exact foldl_writeV Group.counters (fun _ _ _ _ => rfl) _ _ _
@[simp] theorem writeReg_latches (g : Group) (r : Nat) (t : BitVec 4) (vs : List (Nat × W32)) : (writeReg g r t vs).latches = g.latches := by
  rw [writeReg, setTagV_latches]; exact foldl_writeV Group.latches (fun _ _ _ _ => rfl) _ _ _
@[simp] theorem writeReg_unacked (g : Group) (r : Nat) (t : BitVec 4) (vs : List (Nat × W32)) : (writeReg g r t vs).unacked = g.unacked := by
  rw [writeReg, setTagV_unacked]; exact foldl_writeV Group.unacked (fun _ _ _ _ => rfl) _ _ _
@[simp] theorem writeReg_stamp (g : Group) (r : Nat) (t : BitVec 4) (vs : List (Nat × W32)) : (writeReg g r t vs).stamp = g.stamp := by
  rw [writeReg, setTagV_stamp]; exact foldl_writeV Group.stamp (fun _ _ _ _ => rfl) _ _ _
@[simp] theorem writeReg_depth (g : Group) (r : Nat) (t : BitVec 4) (vs : List (Nat × W32)) : (writeReg g r t vs).depth = g.depth := by
  rw [writeReg, setTagV_depth]; exact foldl_writeV Group.depth (fun _ _ _ _ => rfl) _ _ _
@[simp] theorem writeReg_saves (g : Group) (r : Nat) (t : BitVec 4) (vs : List (Nat × W32)) : (writeReg g r t vs).saves = g.saves := by
  rw [writeReg, setTagV_saves]; exact foldl_writeV Group.saves (fun _ _ _ _ => rfl) _ _ _
@[simp] theorem writeReg_role (g : Group) (r : Nat) (t : BitVec 4) (vs : List (Nat × W32)) : (writeReg g r t vs).role = g.role := by
  rw [writeReg, setTagV_role]; exact foldl_writeV Group.role (fun _ _ _ _ => rfl) _ _ _
@[simp] theorem writeReg_tilew (g : Group) (r : Nat) (t : BitVec 4) (vs : List (Nat × W32)) : (writeReg g r t vs).tilew = g.tilew := by
  rw [writeReg, setTagV_tilew]; exact foldl_writeV Group.tilew (fun _ _ _ _ => rfl) _ _ _
@[simp] theorem writeReg_fmode (g : Group) (r : Nat) (t : BitVec 4) (vs : List (Nat × W32)) : (writeReg g r t vs).fmode = g.fmode := by
  rw [writeReg, setTagV_fmode]; exact foldl_writeV Group.fmode (fun _ _ _ _ => rfl) _ _ _
@[simp] theorem writeReg_flags (g : Group) (r : Nat) (t : BitVec 4) (vs : List (Nat × W32)) : (writeReg g r t vs).flags = g.flags := by
  rw [writeReg, setTagV_flags]; exact foldl_writeV Group.flags (fun _ _ _ _ => rfl) _ _ _
@[simp] theorem writeReg_seedlo (g : Group) (r : Nat) (t : BitVec 4) (vs : List (Nat × W32)) : (writeReg g r t vs).seedlo = g.seedlo := by
  rw [writeReg, setTagV_seedlo]; exact foldl_writeV Group.seedlo (fun _ _ _ _ => rfl) _ _ _
@[simp] theorem writeReg_seedhi (g : Group) (r : Nat) (t : BitVec 4) (vs : List (Nat × W32)) : (writeReg g r t vs).seedhi = g.seedhi := by
  rw [writeReg, setTagV_seedhi]; exact foldl_writeV Group.seedhi (fun _ _ _ _ => rfl) _ _ _
@[simp] theorem writeReg_cseq (g : Group) (r : Nat) (t : BitVec 4) (vs : List (Nat × W32)) : (writeReg g r t vs).cseq = g.cseq := by
  rw [writeReg, setTagV_cseq]; exact foldl_writeV Group.cseq (fun _ _ _ _ => rfl) _ _ _
@[simp] theorem writeReg_lanebase (g : Group) (r : Nat) (t : BitVec 4) (vs : List (Nat × W32)) : (writeReg g r t vs).lanebase = g.lanebase := by
  rw [writeReg, setTagV_lanebase]; exact foldl_writeV Group.lanebase (fun _ _ _ _ => rfl) _ _ _
@[simp] theorem writeReg_events (g : Group) (r : Nat) (t : BitVec 4) (vs : List (Nat × W32)) : (writeReg g r t vs).events = g.events := by
  rw [writeReg, setTagV_events]; exact foldl_writeV Group.events (fun _ _ _ _ => rfl) _ _ _
@[simp] theorem writeReg_gframe (g : Group) (r : Nat) (t : BitVec 4) (vs : List (Nat × W32)) : (writeReg g r t vs).gframe = g.gframe := by
  rw [writeReg, setTagV_gframe]; exact foldl_writeV Group.gframe (fun _ _ _ _ => rfl) _ _ _
@[simp] theorem writeReg_tasks (g : Group) (r : Nat) (t : BitVec 4) (vs : List (Nat × W32)) : (writeReg g r t vs).tasks = g.tasks := by
  rw [writeReg, setTagV_tasks]; exact foldl_writeV Group.tasks (fun _ _ _ _ => rfl) _ _ _
@[simp] theorem writeReg_wframes (g : Group) (r : Nat) (t : BitVec 4) (vs : List (Nat × W32)) : (writeReg g r t vs).wframes = g.wframes := by
  rw [writeReg, setTagV_wframes]; exact foldl_writeV Group.wframes (fun _ _ _ _ => rfl) _ _ _
@[simp] theorem writeReg_entryVa (g : Group) (r : Nat) (t : BitVec 4) (vs : List (Nat × W32)) : (writeReg g r t vs).entryVa = g.entryVa := by
  rw [writeReg, setTagV_entryVa]; exact foldl_writeV Group.entryVa (fun _ _ _ _ => rfl) _ _ _
@[simp] theorem writeReg_wait (g : Group) (r : Nat) (t : BitVec 4) (vs : List (Nat × W32)) : (writeReg g r t vs).wait = g.wait := by
  rw [writeReg, setTagV_wait]; exact foldl_writeV Group.wait (fun _ _ _ _ => rfl) _ _ _
@[simp] theorem writeReg_since (g : Group) (r : Nat) (t : BitVec 4) (vs : List (Nat × W32)) : (writeReg g r t vs).since = g.since := by
  rw [writeReg, setTagV_since]; exact foldl_writeV Group.since (fun _ _ _ _ => rfl) _ _ _
@[simp] theorem writeReg_parkable (g : Group) (r : Nat) (t : BitVec 4) (vs : List (Nat × W32)) : (writeReg g r t vs).parkable = g.parkable := by
  rw [writeReg, setTagV_parkable]; exact foldl_writeV Group.parkable (fun _ _ _ _ => rfl) _ _ _
@[simp] theorem writeReg_arrived (g : Group) (r : Nat) (t : BitVec 4) (vs : List (Nat × W32)) : (writeReg g r t vs).arrived = g.arrived := by
  rw [writeReg, setTagV_arrived]; exact foldl_writeV Group.arrived (fun _ _ _ _ => rfl) _ _ _
@[simp] theorem writeReg_carrived (g : Group) (r : Nat) (t : BitVec 4) (vs : List (Nat × W32)) : (writeReg g r t vs).carrived = g.carrived := by
  rw [writeReg, setTagV_carrived]; exact foldl_writeV Group.carrived (fun _ _ _ _ => rfl) _ _ _
@[simp] theorem writeReg_phase (g : Group) (r : Nat) (t : BitVec 4) (vs : List (Nat × W32)) : (writeReg g r t vs).phase = g.phase := by
  rw [writeReg, setTagV_phase]; exact foldl_writeV Group.phase (fun _ _ _ _ => rfl) _ _ _
@[simp] theorem writeReg_cphase (g : Group) (r : Nat) (t : BitVec 4) (vs : List (Nat × W32)) : (writeReg g r t vs).cphase = g.cphase := by
  rw [writeReg, setTagV_cphase]; exact foldl_writeV Group.cphase (fun _ _ _ _ => rfl) _ _ _
@[simp] theorem writeReg_named (g : Group) (r : Nat) (t : BitVec 4) (vs : List (Nat × W32)) : (writeReg g r t vs).named = g.named := by
  rw [writeReg, setTagV_named]; exact foldl_writeV Group.named (fun _ _ _ _ => rfl) _ _ _
@[simp] theorem writeReg_deliver (g : Group) (r : Nat) (t : BitVec 4) (vs : List (Nat × W32)) : (writeReg g r t vs).deliver = g.deliver := by
  rw [writeReg, setTagV_deliver]; exact foldl_writeV Group.deliver (fun _ _ _ _ => rfl) _ _ _
@[simp] theorem writeReg_mapping (g : Group) (r : Nat) (t : BitVec 4) (vs : List (Nat × W32)) : (writeReg g r t vs).mapping = g.mapping := by
  rw [writeReg, setTagV_mapping]; exact foldl_writeV Group.mapping (fun _ _ _ _ => rfl) _ _ _
@[simp] theorem writeReg_declined (g : Group) (r : Nat) (t : BitVec 4) (vs : List (Nat × W32)) : (writeReg g r t vs).declined = g.declined := by
  rw [writeReg, setTagV_declined]; exact foldl_writeV Group.declined (fun _ _ _ _ => rfl) _ _ _
@[simp] theorem writeReg_seat (g : Group) (r : Nat) (t : BitVec 4) (vs : List (Nat × W32)) : (writeReg g r t vs).seat = g.seat := by
  rw [writeReg, setTagV_seat]; exact foldl_writeV Group.seat (fun _ _ _ _ => rfl) _ _ _
@[simp] theorem writeReg_lastRun (g : Group) (r : Nat) (t : BitVec 4) (vs : List (Nat × W32)) : (writeReg g r t vs).lastRun = g.lastRun := by
  rw [writeReg, setTagV_lastRun]; exact foldl_writeV Group.lastRun (fun _ _ _ _ => rfl) _ _ _
@[simp] theorem writeReg_yielded (g : Group) (r : Nat) (t : BitVec 4) (vs : List (Nat × W32)) : (writeReg g r t vs).yielded = g.yielded := by
  rw [writeReg, setTagV_yielded]; exact foldl_writeV Group.yielded (fun _ _ _ _ => rfl) _ _ _
@[simp] theorem writeReg_lastLane (g : Group) (r : Nat) (t : BitVec 4) (vs : List (Nat × W32)) : (writeReg g r t vs).lastLane = g.lastLane := by
  rw [writeReg, setTagV_lastLane]; exact foldl_writeV Group.lastLane (fun _ _ _ _ => rfl) _ _ _
@[simp] theorem writeReg_leftover (g : Group) (r : Nat) (t : BitVec 4) (vs : List (Nat × W32)) : (writeReg g r t vs).leftover = g.leftover := by
  rw [writeReg, setTagV_leftover]; exact foldl_writeV Group.leftover (fun _ _ _ _ => rfl) _ _ _
@[simp] theorem writeReg_due (g : Group) (r : Nat) (t : BitVec 4) (vs : List (Nat × W32)) : (writeReg g r t vs).due = g.due := by
  rw [writeReg, setTagV_due]; exact foldl_writeV Group.due (fun _ _ _ _ => rfl) _ _ _
@[simp] theorem writeReg_dueAt (g : Group) (r : Nat) (t : BitVec 4) (vs : List (Nat × W32)) : (writeReg g r t vs).dueAt = g.dueAt := by
  rw [writeReg, setTagV_dueAt]; exact foldl_writeV Group.dueAt (fun _ _ _ _ => rfl) _ _ _

@[simp] theorem laneWriteS_gid (g : Group) (r : Nat) (v split : W32) : (laneWriteS g r v split).gid = g.gid := by unfold laneWriteS; split <;> rfl
@[simp] theorem laneWriteS_ctx (g : Group) (r : Nat) (v split : W32) : (laneWriteS g r v split).ctx = g.ctx := by unfold laneWriteS; split <;> rfl
@[simp] theorem laneWriteS_core (g : Group) (r : Nat) (v split : W32) : (laneWriteS g r v split).core = g.core := by unfold laneWriteS; split <;> rfl
@[simp] theorem laneWriteS_team (g : Group) (r : Nat) (v split : W32) : (laneWriteS g r v split).team = g.team := by unfold laneWriteS; split <;> rfl
@[simp] theorem laneWriteS_index (g : Group) (r : Nat) (v split : W32) : (laneWriteS g r v split).index = g.index := by unfold laneWriteS; split <;> rfl
@[simp] theorem laneWriteS_run (g : Group) (r : Nat) (v split : W32) : (laneWriteS g r v split).run = g.run := by unfold laneWriteS; split <;> rfl
@[simp] theorem laneWriteS_spc (g : Group) (r : Nat) (v split : W32) : (laneWriteS g r v split).spc = g.spc := by unfold laneWriteS; split <;> rfl
@[simp] theorem laneWriteS_priv (g : Group) (r : Nat) (v split : W32) : (laneWriteS g r v split).priv = g.priv := by unfold laneWriteS; split <;> rfl
@[simp] theorem laneWriteS_vregs (g : Group) (r : Nat) (v split : W32) : (laneWriteS g r v split).vregs = g.vregs := by unfold laneWriteS; split <;> rfl
@[simp] theorem laneWriteS_vtags (g : Group) (r : Nat) (v split : W32) : (laneWriteS g r v split).vtags = g.vtags := by unfold laneWriteS; split <;> rfl
@[simp] theorem laneWriteS_kregs (g : Group) (r : Nat) (v split : W32) : (laneWriteS g r v split).kregs = g.kregs := by unfold laneWriteS; split <;> rfl
@[simp] theorem laneWriteS_tregs (g : Group) (r : Nat) (v split : W32) : (laneWriteS g r v split).tregs = g.tregs := by unfold laneWriteS; split <;> rfl
@[simp] theorem laneWriteS_ttags (g : Group) (r : Nat) (v split : W32) : (laneWriteS g r v split).ttags = g.ttags := by unfold laneWriteS; split <;> rfl
@[simp] theorem laneWriteS_blocks (g : Group) (r : Nat) (v split : W32) : (laneWriteS g r v split).blocks = g.blocks := by unfold laneWriteS; split <;> rfl
@[simp] theorem laneWriteS_tiles (g : Group) (r : Nat) (v split : W32) : (laneWriteS g r v split).tiles = g.tiles := by unfold laneWriteS; split <;> rfl
@[simp] theorem laneWriteS_handles (g : Group) (r : Nat) (v split : W32) : (laneWriteS g r v split).handles = g.handles := by unfold laneWriteS; split <;> rfl
@[simp] theorem laneWriteS_splits (g : Group) (r : Nat) (v split : W32) : (laneWriteS g r v split).splits = g.splits := by unfold laneWriteS; split <;> rfl
@[simp] theorem laneWriteS_overflow (g : Group) (r : Nat) (v split : W32) : (laneWriteS g r v split).overflow = g.overflow := by unfold laneWriteS; split <;> rfl
@[simp] theorem laneWriteS_slot (g : Group) (r : Nat) (v split : W32) : (laneWriteS g r v split).slot = g.slot := by unfold laneWriteS; split <;> rfl
@[simp] theorem laneWriteS_calls (g : Group) (r : Nat) (v split : W32) : (laneWriteS g r v split).calls = g.calls := by unfold laneWriteS; split <;> rfl
@[simp] theorem laneWriteS_ren (g : Group) (r : Nat) (v split : W32) : (laneWriteS g r v split).ren = g.ren := by unfold laneWriteS; split <;> rfl
@[simp] theorem laneWriteS_renOld (g : Group) (r : Nat) (v split : W32) : (laneWriteS g r v split).renOld = g.renOld := by unfold laneWriteS; split <;> rfl
@[simp] theorem laneWriteS_meld (g : Group) (r : Nat) (v split : W32) : (laneWriteS g r v split).meld = g.meld := by unfold laneWriteS; split <;> rfl
@[simp] theorem laneWriteS_landings (g : Group) (r : Nat) (v split : W32) : (laneWriteS g r v split).landings = g.landings := by unfold laneWriteS; split <;> rfl
@[simp] theorem laneWriteS_counters (g : Group) (r : Nat) (v split : W32) : (laneWriteS g r v split).counters = g.counters := by unfold laneWriteS; split <;> rfl
@[simp] theorem laneWriteS_latches (g : Group) (r : Nat) (v split : W32) : (laneWriteS g r v split).latches = g.latches := by unfold laneWriteS; split <;> rfl
@[simp] theorem laneWriteS_unacked (g : Group) (r : Nat) (v split : W32) : (laneWriteS g r v split).unacked = g.unacked := by unfold laneWriteS; split <;> rfl
@[simp] theorem laneWriteS_stamp (g : Group) (r : Nat) (v split : W32) : (laneWriteS g r v split).stamp = g.stamp := by unfold laneWriteS; split <;> rfl
@[simp] theorem laneWriteS_depth (g : Group) (r : Nat) (v split : W32) : (laneWriteS g r v split).depth = g.depth := by unfold laneWriteS; split <;> rfl
@[simp] theorem laneWriteS_saves (g : Group) (r : Nat) (v split : W32) : (laneWriteS g r v split).saves = g.saves := by unfold laneWriteS; split <;> rfl
@[simp] theorem laneWriteS_role (g : Group) (r : Nat) (v split : W32) : (laneWriteS g r v split).role = g.role := by unfold laneWriteS; split <;> rfl
@[simp] theorem laneWriteS_tilew (g : Group) (r : Nat) (v split : W32) : (laneWriteS g r v split).tilew = g.tilew := by unfold laneWriteS; split <;> rfl
@[simp] theorem laneWriteS_fmode (g : Group) (r : Nat) (v split : W32) : (laneWriteS g r v split).fmode = g.fmode := by unfold laneWriteS; split <;> rfl
@[simp] theorem laneWriteS_flags (g : Group) (r : Nat) (v split : W32) : (laneWriteS g r v split).flags = g.flags := by unfold laneWriteS; split <;> rfl
@[simp] theorem laneWriteS_seedlo (g : Group) (r : Nat) (v split : W32) : (laneWriteS g r v split).seedlo = g.seedlo := by unfold laneWriteS; split <;> rfl
@[simp] theorem laneWriteS_seedhi (g : Group) (r : Nat) (v split : W32) : (laneWriteS g r v split).seedhi = g.seedhi := by unfold laneWriteS; split <;> rfl
@[simp] theorem laneWriteS_cseq (g : Group) (r : Nat) (v split : W32) : (laneWriteS g r v split).cseq = g.cseq := by unfold laneWriteS; split <;> rfl
@[simp] theorem laneWriteS_lanebase (g : Group) (r : Nat) (v split : W32) : (laneWriteS g r v split).lanebase = g.lanebase := by unfold laneWriteS; split <;> rfl
@[simp] theorem laneWriteS_events (g : Group) (r : Nat) (v split : W32) : (laneWriteS g r v split).events = g.events := by unfold laneWriteS; split <;> rfl
@[simp] theorem laneWriteS_gframe (g : Group) (r : Nat) (v split : W32) : (laneWriteS g r v split).gframe = g.gframe := by unfold laneWriteS; split <;> rfl
@[simp] theorem laneWriteS_tasks (g : Group) (r : Nat) (v split : W32) : (laneWriteS g r v split).tasks = g.tasks := by unfold laneWriteS; split <;> rfl
@[simp] theorem laneWriteS_wframes (g : Group) (r : Nat) (v split : W32) : (laneWriteS g r v split).wframes = g.wframes := by unfold laneWriteS; split <;> rfl
@[simp] theorem laneWriteS_entryVa (g : Group) (r : Nat) (v split : W32) : (laneWriteS g r v split).entryVa = g.entryVa := by unfold laneWriteS; split <;> rfl
@[simp] theorem laneWriteS_wait (g : Group) (r : Nat) (v split : W32) : (laneWriteS g r v split).wait = g.wait := by unfold laneWriteS; split <;> rfl
@[simp] theorem laneWriteS_since (g : Group) (r : Nat) (v split : W32) : (laneWriteS g r v split).since = g.since := by unfold laneWriteS; split <;> rfl
@[simp] theorem laneWriteS_parkable (g : Group) (r : Nat) (v split : W32) : (laneWriteS g r v split).parkable = g.parkable := by unfold laneWriteS; split <;> rfl
@[simp] theorem laneWriteS_arrived (g : Group) (r : Nat) (v split : W32) : (laneWriteS g r v split).arrived = g.arrived := by unfold laneWriteS; split <;> rfl
@[simp] theorem laneWriteS_carrived (g : Group) (r : Nat) (v split : W32) : (laneWriteS g r v split).carrived = g.carrived := by unfold laneWriteS; split <;> rfl
@[simp] theorem laneWriteS_phase (g : Group) (r : Nat) (v split : W32) : (laneWriteS g r v split).phase = g.phase := by unfold laneWriteS; split <;> rfl
@[simp] theorem laneWriteS_cphase (g : Group) (r : Nat) (v split : W32) : (laneWriteS g r v split).cphase = g.cphase := by unfold laneWriteS; split <;> rfl
@[simp] theorem laneWriteS_named (g : Group) (r : Nat) (v split : W32) : (laneWriteS g r v split).named = g.named := by unfold laneWriteS; split <;> rfl
@[simp] theorem laneWriteS_deliver (g : Group) (r : Nat) (v split : W32) : (laneWriteS g r v split).deliver = g.deliver := by unfold laneWriteS; split <;> rfl
@[simp] theorem laneWriteS_mapping (g : Group) (r : Nat) (v split : W32) : (laneWriteS g r v split).mapping = g.mapping := by unfold laneWriteS; split <;> rfl
@[simp] theorem laneWriteS_declined (g : Group) (r : Nat) (v split : W32) : (laneWriteS g r v split).declined = g.declined := by unfold laneWriteS; split <;> rfl
@[simp] theorem laneWriteS_seat (g : Group) (r : Nat) (v split : W32) : (laneWriteS g r v split).seat = g.seat := by unfold laneWriteS; split <;> rfl
@[simp] theorem laneWriteS_lastRun (g : Group) (r : Nat) (v split : W32) : (laneWriteS g r v split).lastRun = g.lastRun := by unfold laneWriteS; split <;> rfl
@[simp] theorem laneWriteS_yielded (g : Group) (r : Nat) (v split : W32) : (laneWriteS g r v split).yielded = g.yielded := by unfold laneWriteS; split <;> rfl
@[simp] theorem laneWriteS_lastLane (g : Group) (r : Nat) (v split : W32) : (laneWriteS g r v split).lastLane = g.lastLane := by unfold laneWriteS; split <;> rfl
@[simp] theorem laneWriteS_leftover (g : Group) (r : Nat) (v split : W32) : (laneWriteS g r v split).leftover = g.leftover := by unfold laneWriteS; split <;> rfl
@[simp] theorem laneWriteS_due (g : Group) (r : Nat) (v split : W32) : (laneWriteS g r v split).due = g.due := by unfold laneWriteS; split <;> rfl
@[simp] theorem laneWriteS_dueAt (g : Group) (r : Nat) (v split : W32) : (laneWriteS g r v split).dueAt = g.dueAt := by unfold laneWriteS; split <;> rfl

@[simp] theorem writeKeyBy_gid (sp : Nat → W32) (g : Group) (r : Nat) (t : BitVec 4) (vs : List (Nat × W32)) : (writeKeyBy sp g r t vs).gid = g.gid := by
  unfold writeKeyBy; split
  · simp
  · split <;> simp
@[simp] theorem writeKeyBy_ctx (sp : Nat → W32) (g : Group) (r : Nat) (t : BitVec 4) (vs : List (Nat × W32)) : (writeKeyBy sp g r t vs).ctx = g.ctx := by
  unfold writeKeyBy; split
  · simp
  · split <;> simp
@[simp] theorem writeKeyBy_core (sp : Nat → W32) (g : Group) (r : Nat) (t : BitVec 4) (vs : List (Nat × W32)) : (writeKeyBy sp g r t vs).core = g.core := by
  unfold writeKeyBy; split
  · simp
  · split <;> simp
@[simp] theorem writeKeyBy_team (sp : Nat → W32) (g : Group) (r : Nat) (t : BitVec 4) (vs : List (Nat × W32)) : (writeKeyBy sp g r t vs).team = g.team := by
  unfold writeKeyBy; split
  · simp
  · split <;> simp
@[simp] theorem writeKeyBy_index (sp : Nat → W32) (g : Group) (r : Nat) (t : BitVec 4) (vs : List (Nat × W32)) : (writeKeyBy sp g r t vs).index = g.index := by
  unfold writeKeyBy; split
  · simp
  · split <;> simp
@[simp] theorem writeKeyBy_run (sp : Nat → W32) (g : Group) (r : Nat) (t : BitVec 4) (vs : List (Nat × W32)) : (writeKeyBy sp g r t vs).run = g.run := by
  unfold writeKeyBy; split
  · simp
  · split <;> simp
@[simp] theorem writeKeyBy_spc (sp : Nat → W32) (g : Group) (r : Nat) (t : BitVec 4) (vs : List (Nat × W32)) : (writeKeyBy sp g r t vs).spc = g.spc := by
  unfold writeKeyBy; split
  · simp
  · split <;> simp
@[simp] theorem writeKeyBy_priv (sp : Nat → W32) (g : Group) (r : Nat) (t : BitVec 4) (vs : List (Nat × W32)) : (writeKeyBy sp g r t vs).priv = g.priv := by
  unfold writeKeyBy; split
  · simp
  · split <;> simp
@[simp] theorem writeKeyBy_kregs (sp : Nat → W32) (g : Group) (r : Nat) (t : BitVec 4) (vs : List (Nat × W32)) : (writeKeyBy sp g r t vs).kregs = g.kregs := by
  unfold writeKeyBy; split
  · simp
  · split <;> simp
@[simp] theorem writeKeyBy_tregs (sp : Nat → W32) (g : Group) (r : Nat) (t : BitVec 4) (vs : List (Nat × W32)) : (writeKeyBy sp g r t vs).tregs = g.tregs := by
  unfold writeKeyBy; split
  · simp
  · split <;> simp
@[simp] theorem writeKeyBy_ttags (sp : Nat → W32) (g : Group) (r : Nat) (t : BitVec 4) (vs : List (Nat × W32)) : (writeKeyBy sp g r t vs).ttags = g.ttags := by
  unfold writeKeyBy; split
  · simp
  · split <;> simp
@[simp] theorem writeKeyBy_blocks (sp : Nat → W32) (g : Group) (r : Nat) (t : BitVec 4) (vs : List (Nat × W32)) : (writeKeyBy sp g r t vs).blocks = g.blocks := by
  unfold writeKeyBy; split
  · simp
  · split <;> simp
@[simp] theorem writeKeyBy_tiles (sp : Nat → W32) (g : Group) (r : Nat) (t : BitVec 4) (vs : List (Nat × W32)) : (writeKeyBy sp g r t vs).tiles = g.tiles := by
  unfold writeKeyBy; split
  · simp
  · split <;> simp
@[simp] theorem writeKeyBy_handles (sp : Nat → W32) (g : Group) (r : Nat) (t : BitVec 4) (vs : List (Nat × W32)) : (writeKeyBy sp g r t vs).handles = g.handles := by
  unfold writeKeyBy; split
  · simp
  · split <;> simp
@[simp] theorem writeKeyBy_splits (sp : Nat → W32) (g : Group) (r : Nat) (t : BitVec 4) (vs : List (Nat × W32)) : (writeKeyBy sp g r t vs).splits = g.splits := by
  unfold writeKeyBy; split
  · simp
  · split <;> simp
@[simp] theorem writeKeyBy_overflow (sp : Nat → W32) (g : Group) (r : Nat) (t : BitVec 4) (vs : List (Nat × W32)) : (writeKeyBy sp g r t vs).overflow = g.overflow := by
  unfold writeKeyBy; split
  · simp
  · split <;> simp
@[simp] theorem writeKeyBy_slot (sp : Nat → W32) (g : Group) (r : Nat) (t : BitVec 4) (vs : List (Nat × W32)) : (writeKeyBy sp g r t vs).slot = g.slot := by
  unfold writeKeyBy; split
  · simp
  · split <;> simp
@[simp] theorem writeKeyBy_calls (sp : Nat → W32) (g : Group) (r : Nat) (t : BitVec 4) (vs : List (Nat × W32)) : (writeKeyBy sp g r t vs).calls = g.calls := by
  unfold writeKeyBy; split
  · simp
  · split <;> simp
@[simp] theorem writeKeyBy_ren (sp : Nat → W32) (g : Group) (r : Nat) (t : BitVec 4) (vs : List (Nat × W32)) : (writeKeyBy sp g r t vs).ren = g.ren := by
  unfold writeKeyBy; split
  · simp
  · split <;> simp
@[simp] theorem writeKeyBy_renOld (sp : Nat → W32) (g : Group) (r : Nat) (t : BitVec 4) (vs : List (Nat × W32)) : (writeKeyBy sp g r t vs).renOld = g.renOld := by
  unfold writeKeyBy; split
  · simp
  · split <;> simp
@[simp] theorem writeKeyBy_meld (sp : Nat → W32) (g : Group) (r : Nat) (t : BitVec 4) (vs : List (Nat × W32)) : (writeKeyBy sp g r t vs).meld = g.meld := by
  unfold writeKeyBy; split
  · simp
  · split <;> simp
@[simp] theorem writeKeyBy_landings (sp : Nat → W32) (g : Group) (r : Nat) (t : BitVec 4) (vs : List (Nat × W32)) : (writeKeyBy sp g r t vs).landings = g.landings := by
  unfold writeKeyBy; split
  · simp
  · split <;> simp
@[simp] theorem writeKeyBy_counters (sp : Nat → W32) (g : Group) (r : Nat) (t : BitVec 4) (vs : List (Nat × W32)) : (writeKeyBy sp g r t vs).counters = g.counters := by
  unfold writeKeyBy; split
  · simp
  · split <;> simp
@[simp] theorem writeKeyBy_latches (sp : Nat → W32) (g : Group) (r : Nat) (t : BitVec 4) (vs : List (Nat × W32)) : (writeKeyBy sp g r t vs).latches = g.latches := by
  unfold writeKeyBy; split
  · simp
  · split <;> simp
@[simp] theorem writeKeyBy_unacked (sp : Nat → W32) (g : Group) (r : Nat) (t : BitVec 4) (vs : List (Nat × W32)) : (writeKeyBy sp g r t vs).unacked = g.unacked := by
  unfold writeKeyBy; split
  · simp
  · split <;> simp
@[simp] theorem writeKeyBy_stamp (sp : Nat → W32) (g : Group) (r : Nat) (t : BitVec 4) (vs : List (Nat × W32)) : (writeKeyBy sp g r t vs).stamp = g.stamp := by
  unfold writeKeyBy; split
  · simp
  · split <;> simp
@[simp] theorem writeKeyBy_depth (sp : Nat → W32) (g : Group) (r : Nat) (t : BitVec 4) (vs : List (Nat × W32)) : (writeKeyBy sp g r t vs).depth = g.depth := by
  unfold writeKeyBy; split
  · simp
  · split <;> simp
@[simp] theorem writeKeyBy_saves (sp : Nat → W32) (g : Group) (r : Nat) (t : BitVec 4) (vs : List (Nat × W32)) : (writeKeyBy sp g r t vs).saves = g.saves := by
  unfold writeKeyBy; split
  · simp
  · split <;> simp
@[simp] theorem writeKeyBy_role (sp : Nat → W32) (g : Group) (r : Nat) (t : BitVec 4) (vs : List (Nat × W32)) : (writeKeyBy sp g r t vs).role = g.role := by
  unfold writeKeyBy; split
  · simp
  · split <;> simp
@[simp] theorem writeKeyBy_tilew (sp : Nat → W32) (g : Group) (r : Nat) (t : BitVec 4) (vs : List (Nat × W32)) : (writeKeyBy sp g r t vs).tilew = g.tilew := by
  unfold writeKeyBy; split
  · simp
  · split <;> simp
@[simp] theorem writeKeyBy_fmode (sp : Nat → W32) (g : Group) (r : Nat) (t : BitVec 4) (vs : List (Nat × W32)) : (writeKeyBy sp g r t vs).fmode = g.fmode := by
  unfold writeKeyBy; split
  · simp
  · split <;> simp
@[simp] theorem writeKeyBy_flags (sp : Nat → W32) (g : Group) (r : Nat) (t : BitVec 4) (vs : List (Nat × W32)) : (writeKeyBy sp g r t vs).flags = g.flags := by
  unfold writeKeyBy; split
  · simp
  · split <;> simp
@[simp] theorem writeKeyBy_seedlo (sp : Nat → W32) (g : Group) (r : Nat) (t : BitVec 4) (vs : List (Nat × W32)) : (writeKeyBy sp g r t vs).seedlo = g.seedlo := by
  unfold writeKeyBy; split
  · simp
  · split <;> simp
@[simp] theorem writeKeyBy_seedhi (sp : Nat → W32) (g : Group) (r : Nat) (t : BitVec 4) (vs : List (Nat × W32)) : (writeKeyBy sp g r t vs).seedhi = g.seedhi := by
  unfold writeKeyBy; split
  · simp
  · split <;> simp
@[simp] theorem writeKeyBy_cseq (sp : Nat → W32) (g : Group) (r : Nat) (t : BitVec 4) (vs : List (Nat × W32)) : (writeKeyBy sp g r t vs).cseq = g.cseq := by
  unfold writeKeyBy; split
  · simp
  · split <;> simp
@[simp] theorem writeKeyBy_lanebase (sp : Nat → W32) (g : Group) (r : Nat) (t : BitVec 4) (vs : List (Nat × W32)) : (writeKeyBy sp g r t vs).lanebase = g.lanebase := by
  unfold writeKeyBy; split
  · simp
  · split <;> simp
@[simp] theorem writeKeyBy_events (sp : Nat → W32) (g : Group) (r : Nat) (t : BitVec 4) (vs : List (Nat × W32)) : (writeKeyBy sp g r t vs).events = g.events := by
  unfold writeKeyBy; split
  · simp
  · split <;> simp
@[simp] theorem writeKeyBy_gframe (sp : Nat → W32) (g : Group) (r : Nat) (t : BitVec 4) (vs : List (Nat × W32)) : (writeKeyBy sp g r t vs).gframe = g.gframe := by
  unfold writeKeyBy; split
  · simp
  · split <;> simp
@[simp] theorem writeKeyBy_tasks (sp : Nat → W32) (g : Group) (r : Nat) (t : BitVec 4) (vs : List (Nat × W32)) : (writeKeyBy sp g r t vs).tasks = g.tasks := by
  unfold writeKeyBy; split
  · simp
  · split <;> simp
@[simp] theorem writeKeyBy_wframes (sp : Nat → W32) (g : Group) (r : Nat) (t : BitVec 4) (vs : List (Nat × W32)) : (writeKeyBy sp g r t vs).wframes = g.wframes := by
  unfold writeKeyBy; split
  · simp
  · split <;> simp
@[simp] theorem writeKeyBy_entryVa (sp : Nat → W32) (g : Group) (r : Nat) (t : BitVec 4) (vs : List (Nat × W32)) : (writeKeyBy sp g r t vs).entryVa = g.entryVa := by
  unfold writeKeyBy; split
  · simp
  · split <;> simp
@[simp] theorem writeKeyBy_wait (sp : Nat → W32) (g : Group) (r : Nat) (t : BitVec 4) (vs : List (Nat × W32)) : (writeKeyBy sp g r t vs).wait = g.wait := by
  unfold writeKeyBy; split
  · simp
  · split <;> simp
@[simp] theorem writeKeyBy_since (sp : Nat → W32) (g : Group) (r : Nat) (t : BitVec 4) (vs : List (Nat × W32)) : (writeKeyBy sp g r t vs).since = g.since := by
  unfold writeKeyBy; split
  · simp
  · split <;> simp
@[simp] theorem writeKeyBy_parkable (sp : Nat → W32) (g : Group) (r : Nat) (t : BitVec 4) (vs : List (Nat × W32)) : (writeKeyBy sp g r t vs).parkable = g.parkable := by
  unfold writeKeyBy; split
  · simp
  · split <;> simp
@[simp] theorem writeKeyBy_arrived (sp : Nat → W32) (g : Group) (r : Nat) (t : BitVec 4) (vs : List (Nat × W32)) : (writeKeyBy sp g r t vs).arrived = g.arrived := by
  unfold writeKeyBy; split
  · simp
  · split <;> simp
@[simp] theorem writeKeyBy_carrived (sp : Nat → W32) (g : Group) (r : Nat) (t : BitVec 4) (vs : List (Nat × W32)) : (writeKeyBy sp g r t vs).carrived = g.carrived := by
  unfold writeKeyBy; split
  · simp
  · split <;> simp
@[simp] theorem writeKeyBy_phase (sp : Nat → W32) (g : Group) (r : Nat) (t : BitVec 4) (vs : List (Nat × W32)) : (writeKeyBy sp g r t vs).phase = g.phase := by
  unfold writeKeyBy; split
  · simp
  · split <;> simp
@[simp] theorem writeKeyBy_cphase (sp : Nat → W32) (g : Group) (r : Nat) (t : BitVec 4) (vs : List (Nat × W32)) : (writeKeyBy sp g r t vs).cphase = g.cphase := by
  unfold writeKeyBy; split
  · simp
  · split <;> simp
@[simp] theorem writeKeyBy_named (sp : Nat → W32) (g : Group) (r : Nat) (t : BitVec 4) (vs : List (Nat × W32)) : (writeKeyBy sp g r t vs).named = g.named := by
  unfold writeKeyBy; split
  · simp
  · split <;> simp
@[simp] theorem writeKeyBy_deliver (sp : Nat → W32) (g : Group) (r : Nat) (t : BitVec 4) (vs : List (Nat × W32)) : (writeKeyBy sp g r t vs).deliver = g.deliver := by
  unfold writeKeyBy; split
  · simp
  · split <;> simp
@[simp] theorem writeKeyBy_mapping (sp : Nat → W32) (g : Group) (r : Nat) (t : BitVec 4) (vs : List (Nat × W32)) : (writeKeyBy sp g r t vs).mapping = g.mapping := by
  unfold writeKeyBy; split
  · simp
  · split <;> simp
@[simp] theorem writeKeyBy_declined (sp : Nat → W32) (g : Group) (r : Nat) (t : BitVec 4) (vs : List (Nat × W32)) : (writeKeyBy sp g r t vs).declined = g.declined := by
  unfold writeKeyBy; split
  · simp
  · split <;> simp
@[simp] theorem writeKeyBy_seat (sp : Nat → W32) (g : Group) (r : Nat) (t : BitVec 4) (vs : List (Nat × W32)) : (writeKeyBy sp g r t vs).seat = g.seat := by
  unfold writeKeyBy; split
  · simp
  · split <;> simp
@[simp] theorem writeKeyBy_lastRun (sp : Nat → W32) (g : Group) (r : Nat) (t : BitVec 4) (vs : List (Nat × W32)) : (writeKeyBy sp g r t vs).lastRun = g.lastRun := by
  unfold writeKeyBy; split
  · simp
  · split <;> simp
@[simp] theorem writeKeyBy_yielded (sp : Nat → W32) (g : Group) (r : Nat) (t : BitVec 4) (vs : List (Nat × W32)) : (writeKeyBy sp g r t vs).yielded = g.yielded := by
  unfold writeKeyBy; split
  · simp
  · split <;> simp
@[simp] theorem writeKeyBy_lastLane (sp : Nat → W32) (g : Group) (r : Nat) (t : BitVec 4) (vs : List (Nat × W32)) : (writeKeyBy sp g r t vs).lastLane = g.lastLane := by
  unfold writeKeyBy; split
  · simp
  · split <;> simp
@[simp] theorem writeKeyBy_leftover (sp : Nat → W32) (g : Group) (r : Nat) (t : BitVec 4) (vs : List (Nat × W32)) : (writeKeyBy sp g r t vs).leftover = g.leftover := by
  unfold writeKeyBy; split
  · simp
  · split <;> simp
@[simp] theorem writeKeyBy_due (sp : Nat → W32) (g : Group) (r : Nat) (t : BitVec 4) (vs : List (Nat × W32)) : (writeKeyBy sp g r t vs).due = g.due := by
  unfold writeKeyBy; split
  · simp
  · split <;> simp
@[simp] theorem writeKeyBy_dueAt (sp : Nat → W32) (g : Group) (r : Nat) (t : BitVec 4) (vs : List (Nat × W32)) : (writeKeyBy sp g r t vs).dueAt = g.dueAt := by
  unfold writeKeyBy; split
  · simp
  · split <;> simp

@[simp] theorem writeKey_gid (g : Group) (r : Nat) (t : BitVec 4) (vs : List (Nat × W32)) : (writeKey g r t vs).gid = g.gid := writeKeyBy_gid _ g r t vs
@[simp] theorem writeKey_ctx (g : Group) (r : Nat) (t : BitVec 4) (vs : List (Nat × W32)) : (writeKey g r t vs).ctx = g.ctx := writeKeyBy_ctx _ g r t vs
@[simp] theorem writeKey_core (g : Group) (r : Nat) (t : BitVec 4) (vs : List (Nat × W32)) : (writeKey g r t vs).core = g.core := writeKeyBy_core _ g r t vs
@[simp] theorem writeKey_team (g : Group) (r : Nat) (t : BitVec 4) (vs : List (Nat × W32)) : (writeKey g r t vs).team = g.team := writeKeyBy_team _ g r t vs
@[simp] theorem writeKey_index (g : Group) (r : Nat) (t : BitVec 4) (vs : List (Nat × W32)) : (writeKey g r t vs).index = g.index := writeKeyBy_index _ g r t vs
@[simp] theorem writeKey_run (g : Group) (r : Nat) (t : BitVec 4) (vs : List (Nat × W32)) : (writeKey g r t vs).run = g.run := writeKeyBy_run _ g r t vs
@[simp] theorem writeKey_spc (g : Group) (r : Nat) (t : BitVec 4) (vs : List (Nat × W32)) : (writeKey g r t vs).spc = g.spc := writeKeyBy_spc _ g r t vs
@[simp] theorem writeKey_priv (g : Group) (r : Nat) (t : BitVec 4) (vs : List (Nat × W32)) : (writeKey g r t vs).priv = g.priv := writeKeyBy_priv _ g r t vs
@[simp] theorem writeKey_kregs (g : Group) (r : Nat) (t : BitVec 4) (vs : List (Nat × W32)) : (writeKey g r t vs).kregs = g.kregs := writeKeyBy_kregs _ g r t vs
@[simp] theorem writeKey_tregs (g : Group) (r : Nat) (t : BitVec 4) (vs : List (Nat × W32)) : (writeKey g r t vs).tregs = g.tregs := writeKeyBy_tregs _ g r t vs
@[simp] theorem writeKey_ttags (g : Group) (r : Nat) (t : BitVec 4) (vs : List (Nat × W32)) : (writeKey g r t vs).ttags = g.ttags := writeKeyBy_ttags _ g r t vs
@[simp] theorem writeKey_blocks (g : Group) (r : Nat) (t : BitVec 4) (vs : List (Nat × W32)) : (writeKey g r t vs).blocks = g.blocks := writeKeyBy_blocks _ g r t vs
@[simp] theorem writeKey_tiles (g : Group) (r : Nat) (t : BitVec 4) (vs : List (Nat × W32)) : (writeKey g r t vs).tiles = g.tiles := writeKeyBy_tiles _ g r t vs
@[simp] theorem writeKey_handles (g : Group) (r : Nat) (t : BitVec 4) (vs : List (Nat × W32)) : (writeKey g r t vs).handles = g.handles := writeKeyBy_handles _ g r t vs
@[simp] theorem writeKey_splits (g : Group) (r : Nat) (t : BitVec 4) (vs : List (Nat × W32)) : (writeKey g r t vs).splits = g.splits := writeKeyBy_splits _ g r t vs
@[simp] theorem writeKey_overflow (g : Group) (r : Nat) (t : BitVec 4) (vs : List (Nat × W32)) : (writeKey g r t vs).overflow = g.overflow := writeKeyBy_overflow _ g r t vs
@[simp] theorem writeKey_slot (g : Group) (r : Nat) (t : BitVec 4) (vs : List (Nat × W32)) : (writeKey g r t vs).slot = g.slot := writeKeyBy_slot _ g r t vs
@[simp] theorem writeKey_calls (g : Group) (r : Nat) (t : BitVec 4) (vs : List (Nat × W32)) : (writeKey g r t vs).calls = g.calls := writeKeyBy_calls _ g r t vs
@[simp] theorem writeKey_ren (g : Group) (r : Nat) (t : BitVec 4) (vs : List (Nat × W32)) : (writeKey g r t vs).ren = g.ren := writeKeyBy_ren _ g r t vs
@[simp] theorem writeKey_renOld (g : Group) (r : Nat) (t : BitVec 4) (vs : List (Nat × W32)) : (writeKey g r t vs).renOld = g.renOld := writeKeyBy_renOld _ g r t vs
@[simp] theorem writeKey_meld (g : Group) (r : Nat) (t : BitVec 4) (vs : List (Nat × W32)) : (writeKey g r t vs).meld = g.meld := writeKeyBy_meld _ g r t vs
@[simp] theorem writeKey_landings (g : Group) (r : Nat) (t : BitVec 4) (vs : List (Nat × W32)) : (writeKey g r t vs).landings = g.landings := writeKeyBy_landings _ g r t vs
@[simp] theorem writeKey_counters (g : Group) (r : Nat) (t : BitVec 4) (vs : List (Nat × W32)) : (writeKey g r t vs).counters = g.counters := writeKeyBy_counters _ g r t vs
@[simp] theorem writeKey_latches (g : Group) (r : Nat) (t : BitVec 4) (vs : List (Nat × W32)) : (writeKey g r t vs).latches = g.latches := writeKeyBy_latches _ g r t vs
@[simp] theorem writeKey_unacked (g : Group) (r : Nat) (t : BitVec 4) (vs : List (Nat × W32)) : (writeKey g r t vs).unacked = g.unacked := writeKeyBy_unacked _ g r t vs
@[simp] theorem writeKey_stamp (g : Group) (r : Nat) (t : BitVec 4) (vs : List (Nat × W32)) : (writeKey g r t vs).stamp = g.stamp := writeKeyBy_stamp _ g r t vs
@[simp] theorem writeKey_depth (g : Group) (r : Nat) (t : BitVec 4) (vs : List (Nat × W32)) : (writeKey g r t vs).depth = g.depth := writeKeyBy_depth _ g r t vs
@[simp] theorem writeKey_saves (g : Group) (r : Nat) (t : BitVec 4) (vs : List (Nat × W32)) : (writeKey g r t vs).saves = g.saves := writeKeyBy_saves _ g r t vs
@[simp] theorem writeKey_role (g : Group) (r : Nat) (t : BitVec 4) (vs : List (Nat × W32)) : (writeKey g r t vs).role = g.role := writeKeyBy_role _ g r t vs
@[simp] theorem writeKey_tilew (g : Group) (r : Nat) (t : BitVec 4) (vs : List (Nat × W32)) : (writeKey g r t vs).tilew = g.tilew := writeKeyBy_tilew _ g r t vs
@[simp] theorem writeKey_fmode (g : Group) (r : Nat) (t : BitVec 4) (vs : List (Nat × W32)) : (writeKey g r t vs).fmode = g.fmode := writeKeyBy_fmode _ g r t vs
@[simp] theorem writeKey_flags (g : Group) (r : Nat) (t : BitVec 4) (vs : List (Nat × W32)) : (writeKey g r t vs).flags = g.flags := writeKeyBy_flags _ g r t vs
@[simp] theorem writeKey_seedlo (g : Group) (r : Nat) (t : BitVec 4) (vs : List (Nat × W32)) : (writeKey g r t vs).seedlo = g.seedlo := writeKeyBy_seedlo _ g r t vs
@[simp] theorem writeKey_seedhi (g : Group) (r : Nat) (t : BitVec 4) (vs : List (Nat × W32)) : (writeKey g r t vs).seedhi = g.seedhi := writeKeyBy_seedhi _ g r t vs
@[simp] theorem writeKey_cseq (g : Group) (r : Nat) (t : BitVec 4) (vs : List (Nat × W32)) : (writeKey g r t vs).cseq = g.cseq := writeKeyBy_cseq _ g r t vs
@[simp] theorem writeKey_lanebase (g : Group) (r : Nat) (t : BitVec 4) (vs : List (Nat × W32)) : (writeKey g r t vs).lanebase = g.lanebase := writeKeyBy_lanebase _ g r t vs
@[simp] theorem writeKey_events (g : Group) (r : Nat) (t : BitVec 4) (vs : List (Nat × W32)) : (writeKey g r t vs).events = g.events := writeKeyBy_events _ g r t vs
@[simp] theorem writeKey_gframe (g : Group) (r : Nat) (t : BitVec 4) (vs : List (Nat × W32)) : (writeKey g r t vs).gframe = g.gframe := writeKeyBy_gframe _ g r t vs
@[simp] theorem writeKey_tasks (g : Group) (r : Nat) (t : BitVec 4) (vs : List (Nat × W32)) : (writeKey g r t vs).tasks = g.tasks := writeKeyBy_tasks _ g r t vs
@[simp] theorem writeKey_wframes (g : Group) (r : Nat) (t : BitVec 4) (vs : List (Nat × W32)) : (writeKey g r t vs).wframes = g.wframes := writeKeyBy_wframes _ g r t vs
@[simp] theorem writeKey_entryVa (g : Group) (r : Nat) (t : BitVec 4) (vs : List (Nat × W32)) : (writeKey g r t vs).entryVa = g.entryVa := writeKeyBy_entryVa _ g r t vs
@[simp] theorem writeKey_wait (g : Group) (r : Nat) (t : BitVec 4) (vs : List (Nat × W32)) : (writeKey g r t vs).wait = g.wait := writeKeyBy_wait _ g r t vs
@[simp] theorem writeKey_since (g : Group) (r : Nat) (t : BitVec 4) (vs : List (Nat × W32)) : (writeKey g r t vs).since = g.since := writeKeyBy_since _ g r t vs
@[simp] theorem writeKey_parkable (g : Group) (r : Nat) (t : BitVec 4) (vs : List (Nat × W32)) : (writeKey g r t vs).parkable = g.parkable := writeKeyBy_parkable _ g r t vs
@[simp] theorem writeKey_arrived (g : Group) (r : Nat) (t : BitVec 4) (vs : List (Nat × W32)) : (writeKey g r t vs).arrived = g.arrived := writeKeyBy_arrived _ g r t vs
@[simp] theorem writeKey_carrived (g : Group) (r : Nat) (t : BitVec 4) (vs : List (Nat × W32)) : (writeKey g r t vs).carrived = g.carrived := writeKeyBy_carrived _ g r t vs
@[simp] theorem writeKey_phase (g : Group) (r : Nat) (t : BitVec 4) (vs : List (Nat × W32)) : (writeKey g r t vs).phase = g.phase := writeKeyBy_phase _ g r t vs
@[simp] theorem writeKey_cphase (g : Group) (r : Nat) (t : BitVec 4) (vs : List (Nat × W32)) : (writeKey g r t vs).cphase = g.cphase := writeKeyBy_cphase _ g r t vs
@[simp] theorem writeKey_named (g : Group) (r : Nat) (t : BitVec 4) (vs : List (Nat × W32)) : (writeKey g r t vs).named = g.named := writeKeyBy_named _ g r t vs
@[simp] theorem writeKey_deliver (g : Group) (r : Nat) (t : BitVec 4) (vs : List (Nat × W32)) : (writeKey g r t vs).deliver = g.deliver := writeKeyBy_deliver _ g r t vs
@[simp] theorem writeKey_mapping (g : Group) (r : Nat) (t : BitVec 4) (vs : List (Nat × W32)) : (writeKey g r t vs).mapping = g.mapping := writeKeyBy_mapping _ g r t vs
@[simp] theorem writeKey_declined (g : Group) (r : Nat) (t : BitVec 4) (vs : List (Nat × W32)) : (writeKey g r t vs).declined = g.declined := writeKeyBy_declined _ g r t vs
@[simp] theorem writeKey_seat (g : Group) (r : Nat) (t : BitVec 4) (vs : List (Nat × W32)) : (writeKey g r t vs).seat = g.seat := writeKeyBy_seat _ g r t vs
@[simp] theorem writeKey_lastRun (g : Group) (r : Nat) (t : BitVec 4) (vs : List (Nat × W32)) : (writeKey g r t vs).lastRun = g.lastRun := writeKeyBy_lastRun _ g r t vs
@[simp] theorem writeKey_yielded (g : Group) (r : Nat) (t : BitVec 4) (vs : List (Nat × W32)) : (writeKey g r t vs).yielded = g.yielded := writeKeyBy_yielded _ g r t vs
@[simp] theorem writeKey_lastLane (g : Group) (r : Nat) (t : BitVec 4) (vs : List (Nat × W32)) : (writeKey g r t vs).lastLane = g.lastLane := writeKeyBy_lastLane _ g r t vs
@[simp] theorem writeKey_leftover (g : Group) (r : Nat) (t : BitVec 4) (vs : List (Nat × W32)) : (writeKey g r t vs).leftover = g.leftover := writeKeyBy_leftover _ g r t vs
@[simp] theorem writeKey_due (g : Group) (r : Nat) (t : BitVec 4) (vs : List (Nat × W32)) : (writeKey g r t vs).due = g.due := writeKeyBy_due _ g r t vs
@[simp] theorem writeKey_dueAt (g : Group) (r : Nat) (t : BitVec 4) (vs : List (Nat × W32)) : (writeKey g r t vs).dueAt = g.dueAt := writeKeyBy_dueAt _ g r t vs

/-- What `writeKey` writes one by one. -/
theorem foldl_writeKey {γ : Type} (p : Group → γ) (h : ∀ g r t vs, p (writeKey g r t vs) = p g) (g : Group)
    (ws : List (Nat × BitVec 4 × List (Nat × W32))) : p (ws.foldl (fun acc w => writeKey acc w.1 w.2.1 w.2.2) g) = p g :=
  foldl_proj p _ (fun g (w : Nat × BitVec 4 × List (Nat × W32)) => h g w.1 w.2.1 w.2.2) _ _

/-! ### Reads after writes -/

/-- A scalar register read after a write: S0 reads as zero, a write to it is discarded. -/
theorem readS_writeS (s : State) (r q : Nat) (v : W64) :
    readS (writeS s r v) q = if q = r then (if r = 0 then 0 else v) else readS s q := by
  by_cases hr : r = 0
  · subst hr; by_cases hq : q = 0 <;> simp [readS, writeS, hq]
  · by_cases hqr : q = r
    · subst hqr
      simp [readS, writeS, hr]
    · have hb : scalarBad q ≠ scalarBad r := fun e => hqr (Nat.add_left_cancel e)
      simp [readS, writeS, hr, hqr, hb, mapGet_mapSet]

/-- S0 reads as zero in every state (01 R12). -/
@[simp] theorem readS_zero (s : State) : readS s 0 = 0 := rfl

/-- A write of S0 changes nothing (01 R12). -/
@[simp] theorem writeS_zero (s : State) (v : W64) : writeS s 0 v = s := rfl

/-- The scalar PC is no scalar register. -/
@[simp] theorem readS_setSpc (s : State) (pc : W64) (q : Nat) : readS (setSpc s pc) q = readS s q := rfl

/-- The scalar PC is no scalar register. -/
@[simp] theorem readS_nextSpc (s : State) (q : Nat) : readS (nextSpc s) q = readS s q := rfl

/-- A mask register read after a write: K0 reads as all ones, a write to it is discarded (01 R17). -/
theorem readK_writeK (g : Group) (k j : Nat) (v : W32) :
    readK (writeK g k v) j = if j = k then (if k = 0 then BitVec.allOnes 32 else v) else readK g j := by
  by_cases hj : j = 0
  · subst hj; by_cases h0 : 0 = k
    · subst h0; simp [readK]
    · simp [readK, h0]
  · by_cases hk : k = 0
    · subst hk; simp [writeK, hj]
    · simp only [readK, hj, if_false, writeK, hk]
      rw [mapGet_mapSet]

/-- A vector element read after a write of one element; lanes are below 32. -/
theorem readV_writeV (g : Group) (r l q m : Nat) (v : W32) (hl : l < 32) (hm : m < 32) :
    readV (writeV g r l v) q m = if q = r ∧ m = l then v else readV g q m := by
  simp only [readV, writeV, mapGet_mapSet]
  by_cases h : q * 32 + m = r * 32 + l
  · rw [if_pos h, if_pos ⟨by omega, by omega⟩]
  · rw [if_neg h, if_neg (fun e => h (by rw [e.1, e.2]))]

/-- A vector register's tag read after it is set. -/
theorem tagV_setTagV (g : Group) (r q : Nat) (t : BitVec 4) : tagV (setTagV g r t) q = if q = r then t else tagV g q :=
  mapGet_mapSet _ _ _ _ _

/-- Setting a tag leaves every element alone. -/
@[simp] theorem readV_setTagV (g : Group) (r q m : Nat) (t : BitVec 4) : readV (setTagV g r t) q m = readV g q m := rfl

/-- Writing an element leaves every tag alone. -/
@[simp] theorem tagV_writeV (g : Group) (r l q : Nat) (v : W32) : tagV (writeV g r l v) q = tagV g q := rfl

/-- A tile word read after a write of one word; rows are below 32 and columns below 128. -/
theorem readT_writeT (g : Group) (t i j u k l : Nat) (v : W32) (hi : i < 32) (hj : j < 128) (hk : k < 32) (hl : l < 128) :
    readT (writeT g t i j v) u k l = if u = t ∧ k = i ∧ l = j then v else readT g u k l := by
  simp only [readT, writeT, mapGet_mapSet, tileKey]
  by_cases h : (u * 32 + k) * 128 + l = (t * 32 + i) * 128 + j
  · rw [if_pos h, if_pos ⟨by omega, by omega, by omega⟩]
  · rw [if_neg h, if_neg (fun e => h (by rw [e.1, e.2.1, e.2.2]))]

/-- A handle read after it is set; H0 is never pending. -/
theorem readH_writeH (g : Group) (h k : Nat) (v : HandleState) :
    readH (writeH g h v) k = if k = h then (if h = 0 then .free else v) else readH g k := by
  by_cases hk : k = 0
  · subst hk; by_cases h0 : 0 = h
    · subst h0; simp [readH]
    · simp [readH, h0]
  · by_cases hh : h = 0
    · subst hh; simp [writeH, hk]
    · simp only [readH, hk, if_false, writeH, hh]
      rw [mapGet_mapSet]

/-- The core read back after it is replaced. -/
@[simp] theorem coreOf_setCore_same (s : State) (c : Core) : coreOf (setCore s c) c.id = c := by
  have h : mapGet (Core.init c.id) c.id (mapInsert c.id c (mapErase c.id s.cores)) = c :=
    mapGet_mapInsert_same _ _ _ _ (listed_mapErase c.id s.cores)
  simp only [coreOf, setCore, h]

/-- A core names itself. -/
@[simp] theorem coreOf_id (s : State) (n : Nat) : (coreOf s n).id = n := rfl

/-- Replacing a core leaves every other core alone. -/
theorem coreOf_setCore_ne (s : State) (c : Core) {n : Nat} (h : n ≠ c.id) : coreOf (setCore s c) n = coreOf s n := by
  simp only [coreOf, setCore]
  rw [mapGet_mapInsert_ne _ h, mapGet_mapErase_ne _ h]

end Sys2Proof.Machine
end

