-- ==== Sys2Proof/Laws/Memory.lean ====
section
/-! SUPPORT. The laws of physical memory: reading after writing, the frame of a write, and that every memory operation
keeps the canonical form `memoryWf`. -/

namespace Sys2Proof.Machine

/-! ### Writing bytes -/

/-- Writing bytes keeps the canonical form. -/
theorem memoryWf_memWrite (m : List Host.Cell) (pa : Nat) (bs : List Byte) (h : memoryWf m = true) :
    memoryWf (memWrite m pa bs) = true := by
  induction bs generalizing m pa with
  | nil => exact h
  | cons b bs ih => exact ih _ _ (mapWf_mapSet _ _ _ _ h)

/-- A byte read after a write of bytes: the byte written there, or what was there before. -/
theorem mapGet_memWrite (m : List Host.Cell) (pa a : Nat) (bs : List Byte) :
    mapGet memDefault a (memWrite m pa bs) =
      if pa ≤ a ∧ a < pa + bs.length then bs.getD (a - pa) 0 else mapGet memDefault a m := by
  induction bs generalizing m pa with
  | nil => rw [if_neg (by simp only [List.length_nil]; omega)]; rfl
  | cons b bs ih =>
    rw [memWrite, ih, mapGet_mapSet]
    by_cases h : pa + 1 ≤ a ∧ a < pa + 1 + bs.length
    · rw [if_pos h, if_pos ⟨by omega, by simp only [List.length_cons]; omega⟩]
      obtain ⟨k, hk⟩ : ∃ k, a - pa = k + 1 := ⟨a - pa - 1, by omega⟩
      rw [hk, show a - (pa + 1) = k by omega]; rfl
    · rw [if_neg h]
      by_cases ha : a = pa
      · subst ha; simp
      · rw [if_neg ha, if_neg (by simp only [List.length_cons]; omega)]

/-- Replicas take writes without a change of memory. -/
@[simp] theorem takeProps_mem (s : State) (p : Propagation → Bool) : (takeProps s p).mem = s.mem := by
  unfold takeProps; split <;> rfl

/-- What a write does to memory, whichever replicas then lag. -/
theorem performSeen_mem (s : State) (seen : List Nat) (gid pa : Nat) (data : List Byte) (lag : Bool) :
    (performSeen s seen gid pa data lag).mem = memWrite s.mem pa data := by
  cases lag <;> simp [performSeen]

/-- A write of bytes reads back. -/
theorem readByte_performWrite (s : State) (gid pa a : Nat) (data : List Byte) (lag : Bool) :
    readByte (performWrite s gid pa data lag) a =
      if pa ≤ a ∧ a < pa + data.length then data.getD (a - pa) 0 else readByte s a := by
  have : (performWrite s gid pa data lag).mem = memWrite s.mem pa data := performSeen_mem _ _ _ _ _ _
  rw [readByte, this]; exact mapGet_memWrite _ _ _ _

/-- A write leaves every byte outside it alone. -/
theorem readByte_performWrite_outside (s : State) (gid pa a : Nat) (data : List Byte) (lag : Bool)
    (h : ¬ (pa ≤ a ∧ a < pa + data.length)) : readByte (performWrite s gid pa data lag) a = readByte s a := by
  rw [readByte_performWrite, if_neg h]

/-- A word written reads back from the same place. -/
theorem readBytes_performWrite_same (s : State) (gid pa : Nat) (data : List Byte) (lag : Bool) :
    readBytes (performWrite s gid pa data lag) pa data.length = data := by
  apply List.ext_getElem
  · simp [readBytes]
  · intro i h₁ h₂
    simp only [readBytes, List.getElem_map, List.getElem_range, readByte_performWrite]
    rw [if_pos ⟨by omega, by omega⟩, show pa + i - pa = i by omega]
    simp [List.getD, h₂]

/-! ### Numbers and bytes -/

/-- A number laid out in bytes has that many. -/
@[simp] theorem leBytes_length (n v : Nat) : (leBytes n v).length = n := by
  induction n generalizing v with
  | zero => rfl
  | succ n ih => simp [leBytes, ih]

/-- A number survives its bytes, up to what they can hold. -/
theorem leNat_leBytes (n v : Nat) : leNat (leBytes n v) = v % 256 ^ n := by
  induction n generalizing v with
  | zero => simp [leBytes, leNat, Nat.mod_one]
  | succ n ih =>
    rw [leBytes, leNat, ih, BitVec.toNat_ofNat, Nat.pow_succ' (n := n), Nat.mod_mul]

/-- A 64-bit word survives its bytes. -/
@[simp] theorem word64_bytes64 (w : W64) : word64 (bytes64 w) = w := by
  simp [word64, bytes64, leNat_leBytes, Nat.mod_eq_of_lt w.isLt]

/-- A 32-bit word survives its bytes. -/
@[simp] theorem word32_bytes32 (w : W32) : word32 (bytes32 w) = w := by
  simp [word32, bytes32, leNat_leBytes, Nat.mod_eq_of_lt w.isLt]

/-! ### Operations that leave memory alone -/

@[simp] theorem modGroup_mem (s : State) (gid : Nat) (f : Group → Group) : (modGroup s gid f).mem = s.mem := by
  unfold modGroup; split <;> rfl
@[simp] theorem modGroup_stores (s : State) (gid : Nat) (f : Group → Group) : (modGroup s gid f).stores = s.stores := by
  unfold modGroup; split <;> rfl
@[simp] theorem focus_mem (s : State) (gid : Nat) : (focus s gid).mem = s.mem := by
  unfold focus; split
  · rfl
  · split <;> rfl
@[simp] theorem putView_mem (s : State) (ctx : Nat) (c : Core) : (putView s ctx c).mem = s.mem := by
  unfold putView; split <;> rfl
@[simp] theorem applyProps_mem (s : State) (m : List (Propagation × Bool)) : (applyProps s m).mem = s.mem := rfl
@[simp] theorem flushProps_mem (s : State) (gid : Nat) : (flushProps s gid).mem = s.mem := by
  simp [flushProps]
@[simp] theorem missIn_mem (s : State) (gid pa : Nat) (f : Line → List Nat) : (missIn s gid pa f).mem = s.mem := by
  unfold missIn
  split
  · rfl
  · dsimp only; split <;> rfl
@[simp] theorem lowerUnacked_mem (s : State) (gid : Nat) : (lowerUnacked s gid).mem = s.mem := by simp [lowerUnacked]
@[simp] theorem countFor_mem (gid : Nat) (acc : State × BitVec 8 × Bool) (cls : Nat) :
    (countFor gid acc cls).1.mem = acc.1.mem := by
  unfold countFor
  split
  · rfl
  · dsimp only; repeat' split
    all_goals simp

/-- A fold of steps that leave memory alone leaves it alone. -/
theorem foldl_mem {β : Type} (f : State → β → State) (hf : ∀ s b, (f s b).mem = s.mem) (l : List β) (s : State) :
    (l.foldl f s).mem = s.mem := by
  induction l generalizing s with
  | nil => rfl
  | cons b l ih => rw [List.foldl_cons, ih, hf]

@[simp] theorem noteOlder_mem (s : State) (st : PendStore) (pa : Nat) (data : List Byte) :
    (noteOlder s st pa data).mem = s.mem := by
  unfold noteOlder
  dsimp only
  rw [foldl_mem _ (fun _ _ => missIn_mem _ _ _ _), foldl_mem _ (fun _ _ => missIn_mem _ _ _ _)]

/-- The same for a fold that carries more than the state. -/
theorem foldl_mem_fst {β γ : Type} (f : State × γ → β → State × γ) (hf : ∀ p b, (f p b).1.mem = p.1.mem) (l : List β)
    (p : State × γ) : (l.foldl f p).1.mem = p.1.mem := by
  induction l generalizing p with
  | nil => rfl
  | cons b l ih => rw [List.foldl_cons, ih, hf]

@[simp] theorem lateEvents_mem (s : State) (gid : Nat) (ia : W64) (fl : BitVec 8) : (lateEvents s gid ia fl).mem = s.mem := by
  unfold lateEvents
  dsimp only
  split <;> simp [foldl_mem_fst _ (countFor_mem gid)]

@[simp] theorem lateFlags_mem (s : State) (st : PendStore) (fl : BitVec 8) : (lateFlags s st fl).mem = s.mem := by
  unfold lateFlags
  split <;> simp

/-! ### Every memory operation keeps the canonical form -/

/-- A state whose memory is in canonical form. -/
abbrev MemOk (s : State) : Prop := memoryWf s.mem = true

theorem performSeen_memOk (s : State) (seen : List Nat) (gid pa : Nat) (data : List Byte) (lag : Bool) (h : MemOk s) :
    MemOk (performSeen s seen gid pa data lag) := by
  rw [MemOk, performSeen_mem]; exact memoryWf_memWrite s.mem pa data h

theorem performWrite_memOk (s : State) (gid pa : Nat) (data : List Byte) (lag : Bool) (h : MemOk s) :
    MemOk (performWrite s gid pa data lag) := performSeen_memOk s [] gid pa data lag h

theorem performCruise_memOk (s : State) (gid : Nat) (op : CruiseOp) (h : MemOk s) : MemOk (performCruise s gid op).1 := by
  unfold performCruise
  split
  · exact h
  · dsimp only
    split <;> simp only [MemOk, modGroup_mem] <;> first | exact h | exact performWrite_memOk _ _ _ _ _ h

theorem performWord_memOk (s : State) (st : PendStore) (w : PendWord) (h : MemOk s) : MemOk (performWord s st w).1 := by
  cases w with
  | cruise op => exact performCruise_memOk s st.gid op h
  | write pa data lag => simp only [performWord, MemOk, noteOlder_mem]; exact performSeen_memOk _ _ _ _ _ _ h
  | atomic pa op c lag lane => simp only [performWord, MemOk, noteOlder_mem]; exact performSeen_memOk _ _ _ _ _ _ h
  | peer d pa lane => exact h

theorem performFirst_memOk (s : State) (st : PendStore) (h : MemOk s) : MemOk (performFirst s st).1 := by
  unfold performFirst
  split
  · exact h
  · have hw := performWord_memOk s st (‹PendWord›) h
    exact hw

@[simp] theorem completeStore_mem (s : State) (st : PendStore) : (completeStore s st).mem = s.mem := by
  unfold completeStore
  dsimp only
  rw [lowerUnacked_mem, lateFlags_mem]
  split <;> rfl

/-- A fold of steps that keep the canonical form keeps it. -/
theorem foldl_memOk {β γ : Type} (f : State × γ → β → State × γ) (hf : ∀ p b, MemOk p.1 → MemOk (f p b).1) (l : List β)
    (p : State × γ) (h : MemOk p.1) : MemOk (l.foldl f p).1 := by
  induction l generalizing p with
  | nil => exact h
  | cons b l ih => exact ih _ (hf p b h)

/-- The same for a fold over states. -/
theorem foldl_memOk' {β : Type} (f : State → β → State) (hf : ∀ s b, MemOk s → MemOk (f s b)) (l : List β)
    (s : State) (h : MemOk s) : MemOk (l.foldl f s) := by
  induction l generalizing s with
  | nil => exact h
  | cons b l ih => exact ih _ (hf s b h)

theorem ackStore_memOk (s : State) (st : PendStore) (h : MemOk s) : MemOk (ackStore s st) := by
  simp only [ackStore, MemOk, completeStore_mem]
  exact foldl_memOk _ (fun p _ hp => performFirst_memOk p.1 p.2 hp) _ _ h

theorem ackAt_memOk (s : State) (n : Nat) (h : MemOk s) : MemOk (ackAt s n) := by
  unfold ackAt
  split
  · exact h
  · dsimp only
    split
    · simp only [MemOk, completeStore_mem]; exact performFirst_memOk _ _ h
    · exact performFirst_memOk _ _ h

theorem ackWhere_memOk (s : State) (p : PendStore → Bool) (h : MemOk s) : MemOk (ackWhere s p) :=
  foldl_memOk' _ (fun s st hs => ackStore_memOk s st hs) _ _ h

theorem settleCruise_memOk (s : State) (gid : Nat) (h : MemOk s) : MemOk (settleCruise s gid) := by
  unfold settleCruise; split
  · exact ackWhere_memOk _ _ h
  · exact h

theorem drainStores_memOk (s : State) (gid : Nat) (h : MemOk s) : MemOk (drainStores s gid) := by
  simp only [drainStores, MemOk, flushProps_mem]; exact ackWhere_memOk _ _ h

theorem settleBytes_memOk (s : State) (gid pa n : Nat) (h : MemOk s) : MemOk (settleBytes s gid pa n) := by
  unfold settleBytes; split
  · exact ackWhere_memOk _ _ h
  · exact h

theorem freshBytes_memOk (s : State) (a : Access) (at_ k pa n : Nat) (h : MemOk s) : MemOk (freshBytes s a at_ k pa n).2 := by
  have hs : MemOk (if a.peer then s else settleBytes s s.g.gid at_ k) := by
    split
    · exact h
    · exact settleBytes_memOk _ _ _ _ h
  unfold freshBytes
  dsimp only
  split
  · simp only [MemOk, settleProps, takeProps_mem]; exact hs
  · exact hs

theorem fillBytes_memOk (s : State) (a : Access) (k : Nat) (both : Bool) (h : MemOk s) : MemOk (fillBytes s a k both).2 := by
  unfold fillBytes
  dsimp only
  split <;> exact freshBytes_memOk _ _ _ _ _ _ h

theorem markSeen_memOk (s : State) (pa : Nat) (bs : List Byte) (h : MemOk s) : MemOk (markSeen s pa bs) := by
  unfold markSeen
  split <;> exact h

theorem loadFrom_memOk (s : State) (a : Access) (n : Nat) (both : Bool) (h : MemOk s) : MemOk (loadFrom s a n both).2 := by
  unfold loadFrom
  dsimp only
  repeat' split
  all_goals first
    | exact markSeen_memOk _ _ _ h
    | exact fillBytes_memOk _ _ _ _ h
    | exact freshBytes_memOk _ _ _ _ _ _ h

theorem loadBytes_memOk (s : State) (a : Access) (n : Nat) (h : MemOk s) : MemOk (loadBytes s a n).2 :=
  loadFrom_memOk s a n false h

theorem roomForStore_memOk (s : State) (h : MemOk s) : MemOk (roomForStore s) := by
  unfold roomForStore
  split
  · exact drainStores_memOk _ _ h
  · split
    · split
      · exact ackStore_memOk _ _ h
      · exact h
    · exact h

theorem issueStore_memOk (s : State) (lane : Bool) (ws : List PendWord) (ia : W64) (fl : BitVec 8) (h : MemOk s) :
    MemOk (issueStore s lane ws ia fl) := roomForStore_memOk s h

theorem storeWord_memOk (s : State) (a : Access) (data : List Byte) (lane : Nat) (h : MemOk s) :
    MemOk (storeWord s a data lane).2 := by
  unfold storeWord
  split
  · exact h
  · dsimp only; split <;> exact h

theorem settleAtomic_memOk (s : State) (a : Access) (n : Nat) (lane : Option Nat) (h : MemOk s) :
    MemOk (settleAtomic s a n lane) := by
  have key : ∀ (b : Bool) (p : PendStore → Bool), MemOk (if b then ackWhere s p else s) := by
    intro b p
    split
    · exact ackWhere_memOk _ _ h
    · exact h
  exact key _ _

theorem atomicAccess_memOk (s : State) (lane : Option Nat) (a : Access) (n : Nat) (f : List Byte → List Byte) (h : MemOk s) :
    MemOk (atomicAccess s lane a n f).2 := by
  have hs := settleAtomic_memOk s a n lane h
  unfold atomicAccess
  dsimp only
  split
  · split <;> exact hs
  · refine performWrite_memOk _ _ _ _ _ ?_
    split <;> exact hs

/-- The memory after reset is in canonical form. -/
theorem reset_memOk : MemOk State.reset := rfl

end Sys2Proof.Machine
end

