-- ==== Sys2Proof/Laws/Ops.lean ====
section
/-! SUPPORT. The spec lemmas of the shared operations: what release, acquire, the join, flags, a trap and the end of an
instruction can do. -/

namespace Sys2Proof.Machine

open Host

/-! ### Results, stamps, queues: memory is left alone -/

@[simp] theorem completeMma_mem (s : State) (core : Nat) : (completeMma s core).mem = s.mem := by
  unfold completeMma
  dsimp only
  split
  · rfl
  · simp
@[simp] theorem settleMma_mem (s : State) : (settleMma s).mem = s.mem := by
  unfold settleMma
  split
  · split
    · exact completeMma_mem _ _
    · rfl
  · rfl
@[simp] theorem landResults_mem (s : State) : (landResults s).mem = s.mem := settleMma_mem s
@[simp] theorem wrapStamp_mem (s : State) (core : Nat) : (wrapStamp s core).mem = s.mem := rfl
@[simp] theorem advanceStamp_mem (s : State) (core : Nat) : (advanceStamp s core).mem = s.mem := by
  unfold advanceStamp; dsimp only; split <;> rfl
@[simp] theorem acquire_mem (s : State) : (acquire s).mem = s.mem := advanceStamp_mem _ _
@[simp] theorem acquireFor_mem (s : State) (gid : Nat) : (acquireFor s gid).mem = s.mem := by
  unfold acquireFor
  split
  · rfl
  · simp
@[simp] theorem leaveQueues_mem (s : State) (gid core : Nat) : (leaveQueues s gid core).mem = s.mem := by
  unfold leaveQueues; dsimp only; split
  · exact putView_mem _ _ _
  · rfl
@[simp] theorem fireClass_mem (s : State) (cls : Nat) : (fireClass s cls).1.mem = s.mem := by
  unfold fireClass; dsimp only; split <;> rfl
@[simp] theorem countEvent_mem (s : State) (cls : Nat) : (countEvent s cls).1.mem = s.mem := by
  unfold countEvent; dsimp only; split
  · exact fireClass_mem _ _
  · rfl

/-- A fold of steps that leave memory alone, carrying another value along. -/
theorem foldl_fst_mem {β γ : Type} (f : State × γ → β → State × γ) (hf : ∀ p b, (f p b).1.mem = p.1.mem) (l : List β)
    (p : State × γ) : (l.foldl f p).1.mem = p.1.mem := by
  induction l generalizing p with
  | nil => rfl
  | cons b l ih => rw [List.foldl_cons, ih, hf]

/-- Raising flags leaves memory alone. -/
@[simp] theorem raiseFlags_mem (s : State) (lane : Bool) (fl : BitVec 8) : (raiseFlags s lane fl).1.mem = s.mem := by
  unfold raiseFlags
  split
  · rfl
  · refine (foldl_fst_mem _ ?_ _ _).trans rfl
    intro p c
    exact countEvent_mem _ _

/-- An instruction that raises no flag changes nothing by retiring. -/
@[simp] theorem retireFlags_zero (s : State) (ia : W64) : retireFlags s 0 ia = s := rfl

/-! ### Operations that keep the canonical form of memory -/

theorem release_memOk (s : State) (h : MemOk s) : MemOk (release s) := drainStores_memOk s s.g.gid h

/-- What a group knows of ICINVs is no memory. -/
@[simp] theorem addKnown_mem (s : State) (key : Nat) (ids : List Nat) : (addKnown s key ids).mem = s.mem := by
  unfold addKnown; split <;> rfl
@[simp] theorem tell_mem (s : State) (k key : Nat) : (tell s k key).mem = s.mem := addKnown_mem _ _ _
@[simp] theorem retell_mem (s : State) (k key : Nat) : (retell s k key).mem = s.mem := rfl
@[simp] theorem learn_mem (s : State) (gid key : Nat) : (learn s gid key).mem = s.mem := by
  unfold learn; dsimp only; split
  · rfl
  · rw [modGroup_mem, addKnown_mem]

theorem haltGroup_memOk (s : State) (h : MemOk s) : MemOk (haltGroup s) :=
  settleCruise_memOk _ _ (by rw [MemOk, landResults_mem, leaveQueues_mem]; exact h)

theorem joinCall_memOk {s t : State} (h : MemOk s) (ht : joinCall s = .ok t) : MemOk t := by
  unfold joinCall at ht
  split at ht
  · cases ht; exact h
  · split at ht
    · cases ht
      exact settleCruise_memOk _ _ (by rw [MemOk, landResults_mem]; exact h)
    · cases ht

theorem enterHandler_memOk (s : State) (d : Descriptor) (r : TrapReq) (lpc : W32) (spc : W64) (tl : W32) (h : MemOk s) :
    MemOk (enterHandler s d r lpc spc tl) := by
  unfold enterHandler
  dsimp only
  rw [MemOk, writeS_mem]
  exact performWrite_memOk _ _ _ _ _ (settleCruise_memOk _ _ (by rw [MemOk, landResults_mem, leaveQueues_mem]; exact h))

/-- Taking a trap keeps the canonical form. -/
theorem takeTrap_memOk (s : State) (r : TrapReq) (lpc : W32) (spc : W64) (tl : W32) (h : MemOk s) :
    MemOk (takeTrap s r lpc spc tl) := by
  unfold takeTrap
  dsimp only
  split
  · exact haltGroup_memOk _ h
  · split
    · exact haltGroup_memOk _ h
    · exact enterHandler_memOk _ _ _ _ _ _ h

/-- What taking a trap can do: the group enters its handler, or it halts with a context error posted. -/
theorem takeTrap_cases (s : State) (r : TrapReq) (lpc : W32) (spc : W64) (tl : W32) :
    (∃ d, (ctxOf s s.g.ctx).trapvec ≠ 0 ∧ handlerOf s = some d ∧ s.g.depth < 2 ∧
      takeTrap s r lpc spc tl = enterHandler s d r lpc spc tl) ∨
    (∃ k a, takeTrap s r lpc spc tl = haltGroup (postError s k r.code a)) := by
  unfold takeTrap
  dsimp only
  split
  · exact .inr ⟨_, _, rfl⟩
  · rename_i d hd
    split
    · exact .inr ⟨_, _, rfl⟩
    · rename_i hdepth
      split at hd
      · cases hd
      · rename_i hv
        exact .inl ⟨d, hv, hd, by omega, rfl⟩

theorem returnFromTrap_memOk (s : State) (h : MemOk s) : MemOk (returnFromTrap s) := by
  have hr := release_memOk s h
  unfold returnFromTrap
  dsimp only
  split
  · exact hr
  · rw [MemOk, writeS_mem]; exact hr

@[simp] theorem suspendGroup_mem (s : State) (r : TrapReq) : (suspendGroup s r).mem = s.mem := by
  unfold suspendGroup; dsimp only; split <;> rfl

theorem retireFlags_memOk (s : State) (fl : BitVec 8) (ia : W64) (h : MemOk s) : MemOk (retireFlags s fl ia) := by
  unfold retireFlags
  dsimp only
  split
  · exact takeTrap_memOk _ _ _ _ _ (by rw [MemOk, raiseFlags_mem]; exact h)
  · rw [MemOk, raiseFlags_mem]; exact h

/-! ### The end of an instruction -/

/-- A scalar instruction ends in a next state: its effect, a trap, a wait or a suspension. -/
theorem finishScalar_cases (s : State) (r : Except Stop State) :
    (∃ t, r = .ok t ∧ finishScalar s r = .next t) ∨
    (∃ q, (r = .error (.trap q) ∨ (r = .error (.suspend q) ∧ s.g.declined = true)) ∧
      finishScalar s r = .next (takeScalarTrap s q s.g.spc)) ∨
    (∃ w, r = .error (.wait w) ∧ finishScalar s r = .next (blockScalar s w)) ∨
    (∃ q, r = .error (.suspend q) ∧ s.g.declined = false ∧ finishScalar s r = .next (suspendGroup s q)) := by
  match r with
  | .ok t => exact .inl ⟨t, rfl, rfl⟩
  | .error (.trap q) => exact .inr (.inl ⟨q, .inl rfl, rfl⟩)
  | .error (.wait w) => exact .inr (.inr (.inl ⟨w, rfl, rfl⟩))
  | .error (.suspend q) =>
    by_cases h : s.g.declined = true
    · exact .inr (.inl ⟨q, .inr ⟨rfl, h⟩, by simp [finishScalar, h]⟩)
    · exact .inr (.inr (.inr ⟨q, rfl, by simpa using h, by simp [finishScalar, h]⟩))

/-- The same for a lane instruction. -/
theorem finishLane_cases (s : State) (r : Except Stop State) :
    (∃ t, r = .ok t ∧ finishLane s r = .next t) ∨
    (∃ q, (r = .error (.trap q) ∨ (r = .error (.suspend q) ∧ s.g.declined = true)) ∧
      finishLane s r = .next (takeLaneTrap s q (curSplit s).lpc (curSplit s).mask)) ∨
    (∃ w, r = .error (.wait w) ∧ finishLane s r = .next (blockSplit s w)) ∨
    (∃ q, r = .error (.suspend q) ∧ s.g.declined = false ∧ finishLane s r = .next (suspendGroup s q)) := by
  match r with
  | .ok t => exact .inl ⟨t, rfl, rfl⟩
  | .error (.trap q) => exact .inr (.inl ⟨q, .inl rfl, rfl⟩)
  | .error (.wait w) => exact .inr (.inr (.inl ⟨w, rfl, rfl⟩))
  | .error (.suspend q) =>
    by_cases h : s.g.declined = true
    · exact .inr (.inl ⟨q, .inr ⟨rfl, h⟩, by simp [finishLane, h]⟩)
    · exact .inr (.inr (.inr ⟨q, rfl, by simpa using h, by simp [finishLane, h]⟩))

/-- A scalar instruction never stops the machine. -/
theorem finishScalar_next (s : State) (r : Except Stop State) : ∃ t, finishScalar s r = .next t := by
  rcases finishScalar_cases s r with ⟨t, _, h⟩ | ⟨_, _, h⟩ | ⟨_, _, h⟩ | ⟨_, _, _, h⟩ <;> exact ⟨_, h⟩

/-- A lane instruction never stops the machine. -/
theorem finishLane_next (s : State) (r : Except Stop State) : ∃ t, finishLane s r = .next t := by
  rcases finishLane_cases s r with ⟨t, _, h⟩ | ⟨_, _, h⟩ | ⟨_, _, h⟩ | ⟨_, _, _, h⟩ <;> exact ⟨_, h⟩

/-- A scalar instruction that ends keeps the canonical form of memory when its effect does. -/
theorem finishScalar_memOk {s t : State} {r : Except Stop State} (hs : MemOk s) (hr : ∀ u, r = .ok u → MemOk u)
    (h : finishScalar s r = .next t) : MemOk t := by
  rcases finishScalar_cases s r with ⟨u, hu, e⟩ | ⟨q, _, e⟩ | ⟨w, _, e⟩ | ⟨q, _, _, e⟩ <;> rw [e] at h <;> cases h
  · exact hr _ hu
  · exact takeTrap_memOk _ _ _ _ _ hs
  · rw [MemOk, blockScalar_mem]; exact hs
  · rw [MemOk, suspendGroup_mem]; exact hs

/-- The same for a lane instruction. -/
theorem finishLane_memOk {s t : State} {r : Except Stop State} (hs : MemOk s) (hr : ∀ u, r = .ok u → MemOk u)
    (h : finishLane s r = .next t) : MemOk t := by
  rcases finishLane_cases s r with ⟨u, hu, e⟩ | ⟨q, _, e⟩ | ⟨w, _, e⟩ | ⟨q, _, _, e⟩ <;> rw [e] at h <;> cases h
  · exact hr _ hu
  · exact takeTrap_memOk _ _ _ _ _ hs
  · rw [MemOk, blockSplit_mem]; exact hs
  · rw [MemOk, suspendGroup_mem]; exact hs

/-! ### Issue of a lane instruction -/

/-- What issues without waiting on results leaves memory alone. -/
@[simp] theorem touchReads_mem (s : State) (reads : List Opnd) : (touchReads s reads).1.mem = s.mem := by
  unfold touchReads
  refine (foldl_fst_mem _ ?_ _ _).trans rfl
  intro p r
  rfl

@[simp] theorem notePoison_mem (s : State) (ls : List Nat) (reads : List Opnd) : (notePoison s ls reads).1.mem = s.mem := by
  unfold notePoison
  split
  · rfl
  · split <;> rfl

@[simp] theorem laneReady_mem (s : State) (act : W32) (r w : List Opnd) : (laneReady s act r w).1.mem = s.mem := by
  unfold laneReady
  dsimp only
  rw [notePoison_mem]
  repeat' split
  all_goals simp [touchWrites]

@[simp] theorem laneTouch_mem (s : State) (act : W32) (r w : List Opnd) : (laneTouch s act r w).1.mem = s.mem := by
  simp only [laneTouch, countIssue]
  split <;> simp

@[simp] theorem settleLog_mem (s0 s : State) : (settleLog s0 s).mem = s.mem := by
  unfold settleLog; dsimp only; split <;> rfl

theorem retireLane_memOk (s0 : State) (act : W32) (fl : BitVec 8) (s : State) (h : MemOk s) :
    MemOk (retireLane s0 act fl s) := by
  unfold retireLane
  dsimp only
  split
  · rw [MemOk, raiseFlags_mem, settleLog_mem]; exact h
  · exact takeTrap_memOk _ _ _ _ _ (by rw [MemOk, raiseFlags_mem, settleLog_mem]; exact h)

/-- What a lane instruction that keeps its split can do: it fails a check of 03 R61, its effect stops it, or the effect
takes place, the lane PC moves on and its flags are raised. -/
theorem laneIssueWith_cases (len : Nat) (pred : BitVec 4) (reads writes : List Opnd) (s : State)
    (body : W32 → BitVec 8 → State → Except Stop (State × BitVec 8)) :
    (∃ e, laneChecks (laneTouch s (activeLanes s pred) reads writes).1 (activeLanes s pred) reads writes = .error e ∧
      laneIssueWith len pred reads writes s body = finishLane s (.error e)) ∨
    (∃ e, body (activeLanes s pred) (laneTouch s (activeLanes s pred) reads writes).2
        (laneTouch s (activeLanes s pred) reads writes).1 = .error e ∧
      laneIssueWith len pred reads writes s body = finishLane s (.error e)) ∨
    (∃ r, body (activeLanes s pred) (laneTouch s (activeLanes s pred) reads writes).2
        (laneTouch s (activeLanes s pred) reads writes).1 = .ok r ∧
      laneIssueWith len pred reads writes s body =
        .next (retireLane s (activeLanes s pred) (r.2 ||| (laneTouch s (activeLanes s pred) reads writes).2)
          (advanceLpc r.1 len))) := by
  unfold laneIssueWith
  cases hc : laneChecks (laneTouch s (activeLanes s pred) reads writes).1 (activeLanes s pred) reads writes with
  | error e => exact .inl ⟨e, rfl, by simp only [hc, bind, Except.bind]⟩
  | ok u =>
    cases hb : body (activeLanes s pred) (laneTouch s (activeLanes s pred) reads writes).2
        (laneTouch s (activeLanes s pred) reads writes).1 with
    | error e =>
      refine .inr (.inl ⟨e, rfl, ?_⟩)
      simp only [hc, hb, bind, Except.bind]
    | ok r =>
      refine .inr (.inr ⟨r, rfl, ?_⟩)
      simp only [hc, hb, bind, Except.bind, pure, Except.pure, finishLane]

/-- The same where the body has no use for the flags of the operands. -/
theorem laneIssue_cases (len : Nat) (pred : BitVec 4) (reads writes : List Opnd) (s : State)
    (body : W32 → State → Except Stop (State × BitVec 8)) :
    (∃ e, laneChecks (laneTouch s (activeLanes s pred) reads writes).1 (activeLanes s pred) reads writes = .error e ∧
      laneIssue len pred reads writes s body = finishLane s (.error e)) ∨
    (∃ e, body (activeLanes s pred) (laneTouch s (activeLanes s pred) reads writes).1 = .error e ∧
      laneIssue len pred reads writes s body = finishLane s (.error e)) ∨
    (∃ r, body (activeLanes s pred) (laneTouch s (activeLanes s pred) reads writes).1 = .ok r ∧
      laneIssue len pred reads writes s body =
        .next (retireLane s (activeLanes s pred) (r.2 ||| (laneTouch s (activeLanes s pred) reads writes).2)
          (advanceLpc r.1 len))) := laneIssueWith_cases len pred reads writes s _

/-- A lane instruction that keeps its split never stops the machine. -/
theorem laneIssue_next (len : Nat) (pred : BitVec 4) (reads writes : List Opnd) (s : State)
    (body : W32 → State → Except Stop (State × BitVec 8)) : ∃ t, laneIssue len pred reads writes s body = .next t :=
  finishLane_next _ _

end Sys2Proof.Machine
end

