-- ==== Sys2Proof/Laws/Access.lean ====
section
/-! SUPPORT. The spec lemmas of one global access with nothing outstanding: what it reads, what it leaves on its way and
what it performs. -/

namespace Sys2Proof.Machine

open Host

theorem PlainAccess.conflict {s : State} {cl need size va a} (h : PlainAccess s cl need size va a) (use : Use) :
    conflictCheck s a use = .ok s := by simp [conflictCheck, h.unchecked]

/-- The checks of a scalar access pass and change nothing. -/
theorem PlainAccess.scalar {s : State} {cl need size va a} (h : PlainAccess s cl need size va a) (use : Use) :
    scalarAccess s cl need size use va = .ok (a, s) := by
  have hc : scalarCheck s (conflictCheck s a use) = .ok s := by rw [h.conflict use]; rfl
  have ha : scalarCheck s (checkAccess s s.g.ctx s.g.core cl need size va) = .ok a := by rw [h.checks]; rfl
  simp only [scalarAccess, ha, hc, bind, Except.bind, pure, Except.pure]

theorem PlainAccess.settleBytes {s : State} {cl need size va a} (h : PlainAccess s cl need size va a) (gid pa n : Nat) :
    settleBytes s gid pa n = s := by simp [Machine.settleBytes, h.stores]

theorem PlainAccess.settleProps {s : State} {cl need size va a} (h : PlainAccess s cl need size va a) (gid die pa n : Nat) :
    settleProps s gid die pa n = s := by simp [Machine.settleProps, takeProps, h.props]

theorem PlainAccess.settleAtomic {s : State} {cl need size va a} (h : PlainAccess s cl need size va a) (x : Access)
    (n : Nat) (lane : Option Nat) : settleAtomic s x n lane = s := by simp [Machine.settleAtomic, h.stores]

theorem oneCopy_lag {s : State} {ctx : Nat} {a : Access} (h : oneCopy s ctx a = true) : laggingPage s ctx a = false := by
  simp [oneCopy] at h
  exact h.1

/-- Where every copy of a page holds the same, each gives what the home slice gives. -/
theorem coherentByte_oneCopy {s : State} {ctx : Nat} {a : Access} (h : oneCopy s ctx a = true) (hc : s.poison = [])
    (die pa : Nat) : coherentByte s die pa (pteRep a.pte) = readByte s pa := by
  simp [oneCopy] at h
  cases hr : pteRep a.pte
  · simp [coherentByte, hc]
  · simp [coherentByte, hc, (h.2.resolve_left (by simp [hr])).1]

/-- Bytes at the point of coherence. -/
theorem coherentBytes_plain {s : State} {a : Access} (hp : a.peer = false) (hr : oneCopy s s.g.ctx a = true)
    (hc : s.poison = []) (pa n : Nat) :
    coherentBytes s s.g.ctx s.g.core { a with pa := pa } n = readBytes s pa n := by
  have hp' : Access.peer { a with pa := pa } = false := hp
  simp [coherentBytes, bytesAt, hp', coherentByte_oneCopy hr hc, readBytes]

theorem drop_take_readBytes (s : State) (b k n m : Nat) (h : k + n ≤ m) :
    ((readBytes s b m).drop k).take n = readBytes s (b + k) n := by
  apply List.ext_getElem
  · simp [readBytes]; omega
  · intro i h1 h2
    simp [readBytes, Nat.add_assoc]

/-- What a read at the point of coherence finds. -/
theorem PlainAccess.fresh {s : State} {cl need size va a} (h : PlainAccess s cl need size va a) (at_ k pa n : Nat) :
    freshBytes s a at_ k pa n = (readBytes s pa n, s) := by
  simp only [freshBytes, h.settleBytes, h.settleProps, ite_self, coherentBytes_plain h.home h.replicas h.clean]

/-- A load reads the bytes of memory; only the core's L1 may change. -/
theorem PlainAccess.loadBytes {s : State} {cl need size va a} (h : PlainAccess s cl need size va a)
    (hs : size ∣ 32) : ∃ cores, loadBytes s a size = (readBytes s a.pa size, { s with cores := cores }) := by
  have hal : a.pa % size = 0 := h.aligned
  have hpos : 0 < size := Nat.pos_of_dvd_of_pos hs (by decide)
  have hin : a.pa - a.pa / 32 * 32 + size ≤ 32 := by
    obtain ⟨k, hk⟩ := hs
    have h1 : a.pa - a.pa / 32 * 32 = a.pa % 32 := by omega
    have h2 : a.pa % 32 % size = 0 := by
      rw [hk, Nat.mod_mul_right_mod, hal]
    have h3 : a.pa % 32 < 32 := Nat.mod_lt _ (by decide)
    rw [h1]
    obtain ⟨j, hj⟩ := Nat.dvd_of_mod_eq_zero h2
    rw [hj] at h3 ⊢
    have : j < k := Nat.lt_of_mul_lt_mul_left (a := size) (by omega)
    calc size * j + size = size * (j + 1) := by rw [Nat.mul_succ]
      _ ≤ size * k := Nat.mul_le_mul_left _ this
      _ = 32 := hk.symm
  have hb : a.pa / 32 * 32 + (a.pa - a.pa / 32 * 32) = a.pa := by omega
  have hfit := drop_take_readBytes s (a.pa / 32 * 32) (a.pa - a.pa / 32 * 32) size 32 hin
  rw [hb] at hfit
  have hm : lineOf (coreOf s s.g.core) a.pa = none := h.uncached
  have hst : s.stores.any (fun st => st.gid == s.g.gid && st.touches a.pa size) = false := by rw [h.stores]; rfl
  simp only [Machine.loadBytes, loadFrom, hst, Bool.false_eq_true, if_false, l1Hit, hm, fillBytes, h.fresh]
  split
  · exact ⟨_, by rw [show a.pa % 32 = a.pa - a.pa / 32 * 32 by omega, hfit]; rfl⟩
  · exact ⟨s.cores, rfl⟩

/-- No word of memory is bad. -/
theorem badWord?_clean {s : State} (h : s.poison = []) (pa n : Nat) : badWord? s pa n = none := by simp [badWord?, h]

/-- The bytes read are those of memory. -/
theorem PlainAccess.cleanBytes {s : State} {cl need size va a} (h : PlainAccess s cl need size va a)
    (cores : List (Nat × Core)) (n : Nat) (bs : List Byte) : cleanBytes { s with cores := cores } a n bs = bs := by
  simp [Machine.cleanBytes, badWord?_clean (s := { s with cores := cores }) h.clean]

/-- No scalar register read is bad. -/
theorem noteRegs_clean {s : State} (h : s.g.poison = []) (regs : List (Nat × Nat)) : noteRegs s regs = (s, 0) := by
  have : regs.find? (fun p => p.2 != 0 && s.g.poison.contains (scalarBad p.2)) = none := by
    rw [List.find?_eq_none]; intro p _; simp [h]
  simp only [noteRegs, this]

/-- An access with nothing bad and nothing lost retires without a flag. -/
theorem PlainAccess.retires {s : State} {cl need size va a} (h : PlainAccess s cl need size va a)
    (regs : List (Nat × Nat)) (n : Nat) (t : State) : retireAccess s regs a n t = t := by
  have hl : peerLost s a = false := by
    have hp : (ptePeer a.pte != 0) = false := h.home
    simp [peerLost, lostPage, hp]
  have hn : noteAccess s regs a n t = (t, 0) := by
    simp [noteAccess, noteRegs_clean h.registers, hl, badWord?_clean h.clean]
  simp only [retireAccess, hn]
  exact retireFlags_zero t s.g.spc

/-- A store's word is on its way with nothing else changed. -/
theorem PlainAccess.storeWord {s : State} {cl need size va a} (h : PlainAccess s cl need size va a) (data : List Byte)
    (lane : Nat) : storeWord s a data lane = (.write a.pa data false lane, s) := by
  simp [Machine.storeWord, h.home, oneCopy_lag h.replicas, h.uncached]

/-- A store issued below the limit. -/
theorem issueStore_room {s : State} (ho : ordStr s s.g.ctx = false) (hu : s.g.unacked < 255) (lane : Bool)
    (ws : List PendWord) (ia : W64) (fl : BitVec 8) :
    issueStore s lane ws ia fl = { s with
      stores := s.stores ++ [newStore s lane ws ia fl], g := { s.g with unacked := s.g.unacked + 1 } } := by
  have : roomForStore s = s := by simp [roomForStore, ho]; omega
  simp [issueStore, this]

/-- An atomic reads the bytes and performs its write at once. -/
theorem PlainAccess.atomic {s : State} {cl need size va a} (h : PlainAccess s cl need size va a) (lane : Option Nat)
    (n : Nat) (f : List Byte → List Byte) :
    atomicAccess s lane a n f = (readBytes s a.pa n, performWrite s s.g.gid a.pa (f (readBytes s a.pa n)) false) := by
  have hb : homeBytes s a.pa n = readBytes s a.pa n := by simp [homeBytes, coherentByte, h.clean, readBytes]
  simp [atomicAccess, h.settleAtomic, h.uncached, h.home, oneCopy_lag h.replicas, hb]

/-! ### Groups by number -/

/-- A change of one group that keeps its number changes what that number names and nothing else. -/
theorem groupOf?_modGroup (s : State) (gid w : Nat) (f : Group → Group) (hf : ∀ g, (f g).gid = g.gid) :
    groupOf? (modGroup s gid f) w = if w = gid then (groupOf? s gid).map f else groupOf? s w := by
  unfold groupOf? modGroup
  by_cases h : s.g.gid = gid
  · by_cases hw : w = gid
    · subst hw; simp [h, hf]
    · have : s.g.gid ≠ w := fun e => hw (e.symm.trans h)
      simp [h, hw, hf, Ne.symm hw]
  · have hfind : ∀ l : List (Nat × Group), ((l.map (fun p => if p.1 == gid then (p.1, f p.2) else p)).find? (fun p => p.1 == w)).map
        (·.2) = if w = gid then ((l.find? (fun p => p.1 == gid)).map (·.2)).map f else (l.find? (fun p => p.1 == w)).map (·.2) := by
      intro l
      induction l with
      | nil => simp
      | cons p l ih =>
        rw [List.map_cons, List.find?_cons, List.find?_cons, List.find?_cons]
        by_cases hp : p.1 = gid
        · by_cases hw : w = gid
          · subst hw; simp [hp]
          · have hne : (p.1 == w) = false := by simpa [hp] using Ne.symm hw
            simp only [hw, if_false] at ih ⊢
            simp only [hp, BEq.rfl, if_true]
            rw [← hp, hne]
            rw [hp]
            exact ih
        · have hpf : (p.1 == gid) = false := by simpa using hp
          simp only [hpf, Bool.false_eq_true, if_false]
          by_cases hpw : p.1 = w
          · have : w ≠ gid := fun e => hp (hpw.trans e)
            simp [hpw, this]
          · have : (p.1 == w) = false := by simpa using hpw
            rw [this]
            exact ih
    by_cases hw : w = gid
    · subst hw
      simp only [h, if_false, if_true]
      exact (hfind s.groups).trans (if_pos rfl)
    · simp only [h, if_false, hw]
      by_cases hgw : s.g.gid = w
      · simp [hgw]
      · simp only [hgw, if_false]
        exact (hfind s.groups).trans (if_neg hw)

end Sys2Proof.Machine
end

