-- ==== Sys2Proof/Laws/Lane.lean ====
section
/-! SUPPORT. The spec lemmas of a lane instruction's issue and retirement with nothing outstanding, and what a result
written to a destination operand does. -/

namespace Sys2Proof.Machine

/-! ### Flags without events -/

/-- No flag changes nothing. -/
@[simp] theorem orFlags_zero (g : Group) (lane : Bool) : orFlags g lane 0 = g := by
  have h : ∀ c : LaneCall, { c with raised := if lane then c.raised ||| ((0 : BitVec 8) &&& ~~~g.flags)
      else c.raised &&& ~~~(0 : BitVec 8) } = c := by
    intro c
    have h0 : c.raised &&& ~~~(0 : BitVec 8) = c.raised := BitVec.and_allOnes
    have h1 : c.raised ||| ((0 : BitVec 8) &&& ~~~g.flags) = c.raised := by simp
    rw [h0, h1, ite_self]
  have hc : g.call.map (fun c => { c with raised := if lane then c.raised ||| ((0 : BitVec 8) &&& ~~~g.flags)
      else c.raised &&& ~~~(0 : BitVec 8) }) = g.call := by
    cases g.call with
    | none => rfl
    | some c => exact congrArg some (h c)
  have hf : g.flags ||| (0 : BitVec 8) = g.flags := BitVec.or_zero
  unfold orFlags
  rw [hc, hf]

/-- A change of the group in focus that keeps its context keeps the event classes closed. -/
theorem NoEvents.withGroup {s : State} (h : NoEvents s) {g : Group} (hg : g.ctx = s.g.ctx) : NoEvents { s with g := g } := by
  intro cls
  show evWindow ((ctxOf s g.ctx).evctl.getD cls 0) = 0
  rw [hg]
  exact h cls

/-- A class whose window is 0 counts nothing. -/
theorem bumpEvent_closed {e : W64} (h : evWindow e = 0) (clock cls : Nat) (g : Group) : bumpEvent e clock cls g = (g, false) := by
  simp [bumpEvent, h]

/-- A class whose window is 0 changes nothing. -/
theorem countEvent_closed {s : State} {cls : Nat} (h : evWindow (evctlOf s cls) = 0) : countEvent s cls = (s, false, false) := by
  simp [countEvent, bumpEvent_closed h]

/-- Without counting classes a flag is ORed in and asks for no trap. -/
theorem raiseFlags_noEvents {s : State} (h : NoEvents s) (lane : Bool) (fl : BitVec 8) :
    raiseFlags s lane fl = ({ s with g := orFlags s.g lane fl }, 0, false) := by
  unfold raiseFlags
  split
  · rename_i h0; subst h0; rw [orFlags_zero]
  · generalize hs : ({ s with g := orFlags s.g lane fl } : State) = s'
    have h' : NoEvents s' := by
      subst hs
      intro cls
      exact h cls
    generalize classesOf fl = l
    induction l with
    | nil => rfl
    | cons c l ih =>
      rw [List.foldl_cons, countEvent_closed (h' c)]
      exact ih

/-- A scalar instruction retires with its flags ORed in when no class counts. -/
theorem retireFlags_noEvents {s : State} (h : NoEvents s) (fl : BitVec 8) (ia : W64) :
    retireFlags s fl ia = { s with g := orFlags s.g false fl } := by
  simp [retireFlags, raiseFlags_noEvents h]

/-- An instruction that has written no log record leaves the log as it is. -/
theorem settleLog_same {s0 s : State} (h : s.log = s0.log) : settleLog s0 s = s := by
  simp [settleLog, h, sortBy]

/-- A lane instruction retires with its flags ORed in when no class counts and no false claim of uniformity traps. -/
theorem retireLane_noEvents {s0 s : State} (h : NoEvents s) (hl : s.log = s0.log) (act : W32) (fl : BitVec 8)
    (hu : fl.getLsbD 6 = false ∨ uvTrap (callFmode s0.g) = false) :
    retireLane s0 act fl s = { s with g := orFlags s.g true fl } := by
  have : (fl.getLsbD 6 && uvTrap (callFmode s0.g) && s0.g.depth == 0) = false := by
    rcases hu with hu | hu <;> rw [hu] <;> simp
  unfold retireLane
  simp only [settleLog_same hl, raiseFlags_noEvents h, this]
  rfl

/-! ### What a result written to an operand leaves alone -/

@[simp] theorem writeOpnd_gid (g : Group) (c : Nat) (vs : List (Nat × W32)) (t : Nat → BitVec 4) :
    (writeOpnd g c vs t).gid = g.gid := foldl_writeKey Group.gid (fun _ _ _ _ => writeKey_gid _ _ _ _) _ _
@[simp] theorem writeOpnd_ctx (g : Group) (c : Nat) (vs : List (Nat × W32)) (t : Nat → BitVec 4) :
    (writeOpnd g c vs t).ctx = g.ctx := foldl_writeKey Group.ctx (fun _ _ _ _ => writeKey_ctx _ _ _ _) _ _
@[simp] theorem writeOpnd_core (g : Group) (c : Nat) (vs : List (Nat × W32)) (t : Nat → BitVec 4) :
    (writeOpnd g c vs t).core = g.core := foldl_writeKey Group.core (fun _ _ _ _ => writeKey_core _ _ _ _) _ _
@[simp] theorem writeOpnd_team (g : Group) (c : Nat) (vs : List (Nat × W32)) (t : Nat → BitVec 4) :
    (writeOpnd g c vs t).team = g.team := foldl_writeKey Group.team (fun _ _ _ _ => writeKey_team _ _ _ _) _ _
@[simp] theorem writeOpnd_index (g : Group) (c : Nat) (vs : List (Nat × W32)) (t : Nat → BitVec 4) :
    (writeOpnd g c vs t).index = g.index := foldl_writeKey Group.index (fun _ _ _ _ => writeKey_index _ _ _ _) _ _
@[simp] theorem writeOpnd_run (g : Group) (c : Nat) (vs : List (Nat × W32)) (t : Nat → BitVec 4) :
    (writeOpnd g c vs t).run = g.run := foldl_writeKey Group.run (fun _ _ _ _ => writeKey_run _ _ _ _) _ _
@[simp] theorem writeOpnd_spc (g : Group) (c : Nat) (vs : List (Nat × W32)) (t : Nat → BitVec 4) :
    (writeOpnd g c vs t).spc = g.spc := foldl_writeKey Group.spc (fun _ _ _ _ => writeKey_spc _ _ _ _) _ _
@[simp] theorem writeOpnd_priv (g : Group) (c : Nat) (vs : List (Nat × W32)) (t : Nat → BitVec 4) :
    (writeOpnd g c vs t).priv = g.priv := foldl_writeKey Group.priv (fun _ _ _ _ => writeKey_priv _ _ _ _) _ _
@[simp] theorem writeOpnd_kregs (g : Group) (c : Nat) (vs : List (Nat × W32)) (t : Nat → BitVec 4) :
    (writeOpnd g c vs t).kregs = g.kregs := foldl_writeKey Group.kregs (fun _ _ _ _ => writeKey_kregs _ _ _ _) _ _
@[simp] theorem writeOpnd_tregs (g : Group) (c : Nat) (vs : List (Nat × W32)) (t : Nat → BitVec 4) :
    (writeOpnd g c vs t).tregs = g.tregs := foldl_writeKey Group.tregs (fun _ _ _ _ => writeKey_tregs _ _ _ _) _ _
@[simp] theorem writeOpnd_ttags (g : Group) (c : Nat) (vs : List (Nat × W32)) (t : Nat → BitVec 4) :
    (writeOpnd g c vs t).ttags = g.ttags := foldl_writeKey Group.ttags (fun _ _ _ _ => writeKey_ttags _ _ _ _) _ _
@[simp] theorem writeOpnd_blocks (g : Group) (c : Nat) (vs : List (Nat × W32)) (t : Nat → BitVec 4) :
    (writeOpnd g c vs t).blocks = g.blocks := foldl_writeKey Group.blocks (fun _ _ _ _ => writeKey_blocks _ _ _ _) _ _
@[simp] theorem writeOpnd_tiles (g : Group) (c : Nat) (vs : List (Nat × W32)) (t : Nat → BitVec 4) :
    (writeOpnd g c vs t).tiles = g.tiles := foldl_writeKey Group.tiles (fun _ _ _ _ => writeKey_tiles _ _ _ _) _ _
@[simp] theorem writeOpnd_handles (g : Group) (c : Nat) (vs : List (Nat × W32)) (t : Nat → BitVec 4) :
    (writeOpnd g c vs t).handles = g.handles := foldl_writeKey Group.handles (fun _ _ _ _ => writeKey_handles _ _ _ _) _ _
@[simp] theorem writeOpnd_splits (g : Group) (c : Nat) (vs : List (Nat × W32)) (t : Nat → BitVec 4) :
    (writeOpnd g c vs t).splits = g.splits := foldl_writeKey Group.splits (fun _ _ _ _ => writeKey_splits _ _ _ _) _ _
@[simp] theorem writeOpnd_overflow (g : Group) (c : Nat) (vs : List (Nat × W32)) (t : Nat → BitVec 4) :
    (writeOpnd g c vs t).overflow = g.overflow := foldl_writeKey Group.overflow (fun _ _ _ _ => writeKey_overflow _ _ _ _) _ _
@[simp] theorem writeOpnd_slot (g : Group) (c : Nat) (vs : List (Nat × W32)) (t : Nat → BitVec 4) :
    (writeOpnd g c vs t).slot = g.slot := foldl_writeKey Group.slot (fun _ _ _ _ => writeKey_slot _ _ _ _) _ _
@[simp] theorem writeOpnd_ren (g : Group) (c : Nat) (vs : List (Nat × W32)) (t : Nat → BitVec 4) :
    (writeOpnd g c vs t).ren = g.ren := foldl_writeKey Group.ren (fun _ _ _ _ => writeKey_ren _ _ _ _) _ _
@[simp] theorem writeOpnd_renOld (g : Group) (c : Nat) (vs : List (Nat × W32)) (t : Nat → BitVec 4) :
    (writeOpnd g c vs t).renOld = g.renOld := foldl_writeKey Group.renOld (fun _ _ _ _ => writeKey_renOld _ _ _ _) _ _
@[simp] theorem writeOpnd_meld (g : Group) (c : Nat) (vs : List (Nat × W32)) (t : Nat → BitVec 4) :
    (writeOpnd g c vs t).meld = g.meld := foldl_writeKey Group.meld (fun _ _ _ _ => writeKey_meld _ _ _ _) _ _
@[simp] theorem writeOpnd_landings (g : Group) (c : Nat) (vs : List (Nat × W32)) (t : Nat → BitVec 4) :
    (writeOpnd g c vs t).landings = g.landings := foldl_writeKey Group.landings (fun _ _ _ _ => writeKey_landings _ _ _ _) _ _
@[simp] theorem writeOpnd_counters (g : Group) (c : Nat) (vs : List (Nat × W32)) (t : Nat → BitVec 4) :
    (writeOpnd g c vs t).counters = g.counters := foldl_writeKey Group.counters (fun _ _ _ _ => writeKey_counters _ _ _ _) _ _
@[simp] theorem writeOpnd_latches (g : Group) (c : Nat) (vs : List (Nat × W32)) (t : Nat → BitVec 4) :
    (writeOpnd g c vs t).latches = g.latches := foldl_writeKey Group.latches (fun _ _ _ _ => writeKey_latches _ _ _ _) _ _
@[simp] theorem writeOpnd_unacked (g : Group) (c : Nat) (vs : List (Nat × W32)) (t : Nat → BitVec 4) :
    (writeOpnd g c vs t).unacked = g.unacked := foldl_writeKey Group.unacked (fun _ _ _ _ => writeKey_unacked _ _ _ _) _ _
@[simp] theorem writeOpnd_stamp (g : Group) (c : Nat) (vs : List (Nat × W32)) (t : Nat → BitVec 4) :
    (writeOpnd g c vs t).stamp = g.stamp := foldl_writeKey Group.stamp (fun _ _ _ _ => writeKey_stamp _ _ _ _) _ _
@[simp] theorem writeOpnd_depth (g : Group) (c : Nat) (vs : List (Nat × W32)) (t : Nat → BitVec 4) :
    (writeOpnd g c vs t).depth = g.depth := foldl_writeKey Group.depth (fun _ _ _ _ => writeKey_depth _ _ _ _) _ _
@[simp] theorem writeOpnd_saves (g : Group) (c : Nat) (vs : List (Nat × W32)) (t : Nat → BitVec 4) :
    (writeOpnd g c vs t).saves = g.saves := foldl_writeKey Group.saves (fun _ _ _ _ => writeKey_saves _ _ _ _) _ _
@[simp] theorem writeOpnd_role (g : Group) (c : Nat) (vs : List (Nat × W32)) (t : Nat → BitVec 4) :
    (writeOpnd g c vs t).role = g.role := foldl_writeKey Group.role (fun _ _ _ _ => writeKey_role _ _ _ _) _ _
@[simp] theorem writeOpnd_tilew (g : Group) (c : Nat) (vs : List (Nat × W32)) (t : Nat → BitVec 4) :
    (writeOpnd g c vs t).tilew = g.tilew := foldl_writeKey Group.tilew (fun _ _ _ _ => writeKey_tilew _ _ _ _) _ _
@[simp] theorem writeOpnd_fmode (g : Group) (c : Nat) (vs : List (Nat × W32)) (t : Nat → BitVec 4) :
    (writeOpnd g c vs t).fmode = g.fmode := foldl_writeKey Group.fmode (fun _ _ _ _ => writeKey_fmode _ _ _ _) _ _
@[simp] theorem writeOpnd_flags (g : Group) (c : Nat) (vs : List (Nat × W32)) (t : Nat → BitVec 4) :
    (writeOpnd g c vs t).flags = g.flags := foldl_writeKey Group.flags (fun _ _ _ _ => writeKey_flags _ _ _ _) _ _
@[simp] theorem writeOpnd_seedlo (g : Group) (c : Nat) (vs : List (Nat × W32)) (t : Nat → BitVec 4) :
    (writeOpnd g c vs t).seedlo = g.seedlo := foldl_writeKey Group.seedlo (fun _ _ _ _ => writeKey_seedlo _ _ _ _) _ _
@[simp] theorem writeOpnd_seedhi (g : Group) (c : Nat) (vs : List (Nat × W32)) (t : Nat → BitVec 4) :
    (writeOpnd g c vs t).seedhi = g.seedhi := foldl_writeKey Group.seedhi (fun _ _ _ _ => writeKey_seedhi _ _ _ _) _ _
@[simp] theorem writeOpnd_cseq (g : Group) (c : Nat) (vs : List (Nat × W32)) (t : Nat → BitVec 4) :
    (writeOpnd g c vs t).cseq = g.cseq := foldl_writeKey Group.cseq (fun _ _ _ _ => writeKey_cseq _ _ _ _) _ _
@[simp] theorem writeOpnd_lanebase (g : Group) (c : Nat) (vs : List (Nat × W32)) (t : Nat → BitVec 4) :
    (writeOpnd g c vs t).lanebase = g.lanebase := foldl_writeKey Group.lanebase (fun _ _ _ _ => writeKey_lanebase _ _ _ _) _ _
@[simp] theorem writeOpnd_events (g : Group) (c : Nat) (vs : List (Nat × W32)) (t : Nat → BitVec 4) :
    (writeOpnd g c vs t).events = g.events := foldl_writeKey Group.events (fun _ _ _ _ => writeKey_events _ _ _ _) _ _
@[simp] theorem writeOpnd_gframe (g : Group) (c : Nat) (vs : List (Nat × W32)) (t : Nat → BitVec 4) :
    (writeOpnd g c vs t).gframe = g.gframe := foldl_writeKey Group.gframe (fun _ _ _ _ => writeKey_gframe _ _ _ _) _ _
@[simp] theorem writeOpnd_tasks (g : Group) (c : Nat) (vs : List (Nat × W32)) (t : Nat → BitVec 4) :
    (writeOpnd g c vs t).tasks = g.tasks := foldl_writeKey Group.tasks (fun _ _ _ _ => writeKey_tasks _ _ _ _) _ _
@[simp] theorem writeOpnd_wframes (g : Group) (c : Nat) (vs : List (Nat × W32)) (t : Nat → BitVec 4) :
    (writeOpnd g c vs t).wframes = g.wframes := foldl_writeKey Group.wframes (fun _ _ _ _ => writeKey_wframes _ _ _ _) _ _
@[simp] theorem writeOpnd_entryVa (g : Group) (c : Nat) (vs : List (Nat × W32)) (t : Nat → BitVec 4) :
    (writeOpnd g c vs t).entryVa = g.entryVa := foldl_writeKey Group.entryVa (fun _ _ _ _ => writeKey_entryVa _ _ _ _) _ _
@[simp] theorem writeOpnd_wait (g : Group) (c : Nat) (vs : List (Nat × W32)) (t : Nat → BitVec 4) :
    (writeOpnd g c vs t).wait = g.wait := foldl_writeKey Group.wait (fun _ _ _ _ => writeKey_wait _ _ _ _) _ _
@[simp] theorem writeOpnd_since (g : Group) (c : Nat) (vs : List (Nat × W32)) (t : Nat → BitVec 4) :
    (writeOpnd g c vs t).since = g.since := foldl_writeKey Group.since (fun _ _ _ _ => writeKey_since _ _ _ _) _ _
@[simp] theorem writeOpnd_parkable (g : Group) (c : Nat) (vs : List (Nat × W32)) (t : Nat → BitVec 4) :
    (writeOpnd g c vs t).parkable = g.parkable := foldl_writeKey Group.parkable (fun _ _ _ _ => writeKey_parkable _ _ _ _) _ _
@[simp] theorem writeOpnd_arrived (g : Group) (c : Nat) (vs : List (Nat × W32)) (t : Nat → BitVec 4) :
    (writeOpnd g c vs t).arrived = g.arrived := foldl_writeKey Group.arrived (fun _ _ _ _ => writeKey_arrived _ _ _ _) _ _
@[simp] theorem writeOpnd_carrived (g : Group) (c : Nat) (vs : List (Nat × W32)) (t : Nat → BitVec 4) :
    (writeOpnd g c vs t).carrived = g.carrived := foldl_writeKey Group.carrived (fun _ _ _ _ => writeKey_carrived _ _ _ _) _ _
@[simp] theorem writeOpnd_phase (g : Group) (c : Nat) (vs : List (Nat × W32)) (t : Nat → BitVec 4) :
    (writeOpnd g c vs t).phase = g.phase := foldl_writeKey Group.phase (fun _ _ _ _ => writeKey_phase _ _ _ _) _ _
@[simp] theorem writeOpnd_cphase (g : Group) (c : Nat) (vs : List (Nat × W32)) (t : Nat → BitVec 4) :
    (writeOpnd g c vs t).cphase = g.cphase := foldl_writeKey Group.cphase (fun _ _ _ _ => writeKey_cphase _ _ _ _) _ _
@[simp] theorem writeOpnd_named (g : Group) (c : Nat) (vs : List (Nat × W32)) (t : Nat → BitVec 4) :
    (writeOpnd g c vs t).named = g.named := foldl_writeKey Group.named (fun _ _ _ _ => writeKey_named _ _ _ _) _ _
@[simp] theorem writeOpnd_deliver (g : Group) (c : Nat) (vs : List (Nat × W32)) (t : Nat → BitVec 4) :
    (writeOpnd g c vs t).deliver = g.deliver := foldl_writeKey Group.deliver (fun _ _ _ _ => writeKey_deliver _ _ _ _) _ _
@[simp] theorem writeOpnd_mapping (g : Group) (c : Nat) (vs : List (Nat × W32)) (t : Nat → BitVec 4) :
    (writeOpnd g c vs t).mapping = g.mapping := foldl_writeKey Group.mapping (fun _ _ _ _ => writeKey_mapping _ _ _ _) _ _
@[simp] theorem writeOpnd_declined (g : Group) (c : Nat) (vs : List (Nat × W32)) (t : Nat → BitVec 4) :
    (writeOpnd g c vs t).declined = g.declined := foldl_writeKey Group.declined (fun _ _ _ _ => writeKey_declined _ _ _ _) _ _
@[simp] theorem writeOpnd_seat (g : Group) (c : Nat) (vs : List (Nat × W32)) (t : Nat → BitVec 4) :
    (writeOpnd g c vs t).seat = g.seat := foldl_writeKey Group.seat (fun _ _ _ _ => writeKey_seat _ _ _ _) _ _
@[simp] theorem writeOpnd_lastRun (g : Group) (c : Nat) (vs : List (Nat × W32)) (t : Nat → BitVec 4) :
    (writeOpnd g c vs t).lastRun = g.lastRun := foldl_writeKey Group.lastRun (fun _ _ _ _ => writeKey_lastRun _ _ _ _) _ _
@[simp] theorem writeOpnd_yielded (g : Group) (c : Nat) (vs : List (Nat × W32)) (t : Nat → BitVec 4) :
    (writeOpnd g c vs t).yielded = g.yielded := foldl_writeKey Group.yielded (fun _ _ _ _ => writeKey_yielded _ _ _ _) _ _
@[simp] theorem writeOpnd_lastLane (g : Group) (c : Nat) (vs : List (Nat × W32)) (t : Nat → BitVec 4) :
    (writeOpnd g c vs t).lastLane = g.lastLane := foldl_writeKey Group.lastLane (fun _ _ _ _ => writeKey_lastLane _ _ _ _) _ _
@[simp] theorem writeOpnd_due (g : Group) (c : Nat) (vs : List (Nat × W32)) (t : Nat → BitVec 4) :
    (writeOpnd g c vs t).due = g.due := foldl_writeKey Group.due (fun _ _ _ _ => writeKey_due _ _ _ _) _ _
@[simp] theorem writeOpnd_dueAt (g : Group) (c : Nat) (vs : List (Nat × W32)) (t : Nat → BitVec 4) :
    (writeOpnd g c vs t).dueAt = g.dueAt := foldl_writeKey Group.dueAt (fun _ _ _ _ => writeKey_dueAt _ _ _ _) _ _

/-! ### Issue with nothing outstanding -/

/-- An instruction that can issue passes its checks. -/
theorem laneChecks_ok {s : State} {act : W32} {reads writes : List Opnd} (h : CanIssue s act reads writes) :
    laneChecks s act reads writes = .ok () := by
  have h1 : (((reads ++ writes).flatMap Opnd.codes).any isL && !melded s) = false := by
    cases hm : melded s with
    | true => simp
    | false =>
      rw [Bool.not_false, Bool.and_true, List.any_eq_false]
      intro c hc hl
      have := h.melded c hc hl
      rw [hm] at this
      cases this
  have h2 : ((reads ++ writes).flatMap Opnd.codes).all (codeHeld s.g) = true := List.all_eq_true.mpr h.held
  have h3 : (tagCheck (callFmode s.g) && !reads.all (Opnd.formatOk s.g)) = false := by
    cases ht : tagCheck (callFmode s.g) with
    | false => rfl
    | true =>
      have : reads.all (Opnd.formatOk s.g) = true := List.all_eq_true.mpr (h.formats ht)
      simp [this]
  unfold laneChecks
  simp only [h1, h2, h3, h.mapped, List.isEmpty_nil, Bool.not_true, Bool.false_eq_true, if_false, pure, Except.pure, bind,
    Except.bind]

/-- With nothing outstanding nothing precedes the effect. -/
theorem laneTouch_quiet {s : State} (h : QuietSplit s) (act : W32) (reads writes : List Opnd) :
    laneTouch s act reads writes = (s, 0) := by
  have hm : settleMma s = s := by simp [settleMma, h.array]
  have hr : laneReady s act reads writes = (s, 0) := by
    simp only [laneReady, hm, ite_self, h.landings, List.isEmpty_nil, if_true, notePoison, h.poison,
      Bool.false_and]
    rfl
  simp [laneTouch, hr, countIssue, h.landings]

/-- A lane instruction issued with nothing outstanding: its effect alone decides. -/
theorem laneIssue_quiet {s : State} (h : QuietSplit s) {len : Nat} {pred : BitVec 4} {reads writes : List Opnd}
    (hc : CanIssue s (activeLanes s pred) reads writes) (body : W32 → State → Except Stop (State × BitVec 8)) :
    laneIssue len pred reads writes s body =
      finishLane s (body (activeLanes s pred) s >>= fun r =>
        pure (retireLane s (activeLanes s pred) (r.2 ||| 0) (advanceLpc r.1 len))) := by
  simp only [laneIssue, laneIssueWith, laneTouch_quiet h, laneChecks_ok hc]
  rfl

/-- An effect that gives a state whose event classes do not count: the instruction retires. -/
theorem laneIssue_retired {s t : State} (h : QuietSplit s) {len : Nat} {pred : BitVec 4} {reads writes : List Opnd}
    (hc : CanIssue s (activeLanes s pred) reads writes) {body : W32 → State → Except Stop (State × BitVec 8)}
    {fl : BitVec 8} (hb : body (activeLanes s pred) s = .ok (t, fl)) (ht : NoEvents t) (hl : t.log = s.log)
    (hu : fl.getLsbD 6 = false ∨ uvTrap (callFmode s.g) = false) :
    laneIssue len pred reads writes s body = .next (retired t len fl) := by
  have ha : NoEvents (advanceLpc t len) := ht
  have hz : fl ||| (0 : BitVec 8) = fl := BitVec.or_zero
  rw [laneIssue_quiet h hc, hb]
  simp only [bind, Except.bind, pure, Except.pure, finishLane, hz]
  rw [retireLane_noEvents ha hl _ _ hu]
  rfl

/-- The values and flags of an elementwise instruction, lane by lane. -/
theorem elemValues_eq (e : Elem) (f : LaneWord) (s : State) (act : W32) : e.values f s act = inLanes act (e.at f s) := by
  simp only [Elem.values, inLanes, List.map_map, List.foldl_map]
  rfl

/-- A bit that no lane's flags have is in none of the flags together. -/
theorem inLanes_bit (act : W32) (v : Nat → W32 × BitVec 8) (k : Nat) (h : ∀ l, (v l).2.getLsbD k = false) :
    (inLanes act v).2.getLsbD k = false := by
  simp only [inLanes]
  have : ∀ (ls : List Nat) (fl : BitVec 8), fl.getLsbD k = false →
      (ls.foldl (fun fl l => fl ||| (v l).2) fl).getLsbD k = false := by
    intro ls
    induction ls with
    | nil => intro fl hf; exact hf
    | cons l ls ih => intro fl hf; exact ih _ (by simp [hf, h l])
  exact this _ _ (by simp)

/-- An elementwise instruction issued with nothing outstanding (07 R118): its values in the active lanes, its tag, its
flags, the next lane PC, and nothing else. -/
theorem execElem_quiet {s : State} (h : QuietSplit s) (e : Elem) (f : LaneWord)
    (hc : CanIssue s (activeLanes s f.pred) (e.reads f) [dst f.d 1]) (hu : ∀ l, (e.at f s l).2.getLsbD 6 = false) :
    execElem e f s = .next (laneResult f s (e.tagOn f s.g) (e.at f s)) := by
  refine (laneIssue_retired h hc (body := fun act s =>
    let r := e.values f s act
    .ok ({ s with g := writeOpnd s.g f.d.toNat r.1 (e.tagOn f s.g) }, r.2)) rfl ?_ rfl ?_).trans ?_
  · exact h.events.withGroup (writeOpnd_ctx _ _ _ _)
  · rw [elemValues_eq]; exact .inl (inLanes_bit _ _ _ hu)
  · rw [elemValues_eq]; rfl

end Sys2Proof.Machine
end

