-- ==== Sys2Proof/Laws/PerInstr.lean ====
section
/-! SUPPORT. The family `Encoding` of per-instruction laws: the bytes of an encoded instruction number 4, 8, 12 or 13
(03 R54, R58), which bounds what a fetch reads. -/

namespace Sys2Proof.Laws.Encoding

/-- The bytes of an instruction, where it has an encoding, number 4, 8, 12 or 13. -/
def Statement (i : Instr) : Prop :=
  ∀ bs, encode i = some bs → bs.length = 4 ∨ bs.length = 8 ∨ bs.length = 12 ∨ bs.length = 13

/-- A scalar word has four bytes. -/
@[simp] theorem wordBytes_length (w : W32) : (wordBytes w).length = 4 := rfl

/-- A number laid out most significant byte first has the length asked for. -/
@[simp] theorem bigBytes_length (n v : Nat) : (bigBytes n v).length = n := by
  induction n with
  | zero => rfl
  | succ n ih => simp [bigBytes, ih]

/-- The bytes of a lane word are as many as its form has. -/
theorem encodeLaneWord_length (op : BitVec 8) (f : LaneWord) : (encodeLaneWord op f).length = f.form.length := by
  unfold encodeLaneWord
  split <;> rename_i h <;> simp [h, Form.length]

/-- An instruction of one scalar word. -/
theorem ofWord {i : Instr} {w : W32} (h : encodeScalar i = some [w]) : Statement i := by
  intro bs hb
  rw [encode, h] at hb
  cases hb
  exact .inl rfl

/-- A lane instruction of one word. -/
theorem ofLane {i : Instr} {op : Nat} {f : LaneWord} (hs : encodeScalar i = none) (h : laneOp i = some (op, f)) :
    Statement i := by
  intro bs hb
  simp only [encode, hs, encodeLane, h, Option.some.injEq] at hb
  subst hb
  rw [encodeLaneWord_length]
  cases f.form <;> simp [Form.length]

/-- A step of the table that has no encoding. -/
theorem ofNone {i : Instr} (h : encode i = none) : Statement i := by
  intro bs hb
  rw [h] at hb
  cases hb

theorem sadd (sd sa sb : BitVec 8) : Statement (.sadd sd sa sb) := ofWord rfl
theorem ssub (sd sa sb : BitVec 8) : Statement (.ssub sd sa sb) := ofWord rfl
theorem smul (sd sa sb : BitVec 8) : Statement (.smul sd sa sb) := ofWord rfl
theorem smulh (sd sa sb : BitVec 8) : Statement (.smulh sd sa sb) := ofWord rfl
theorem sdiv (sd sa sb : BitVec 8) : Statement (.sdiv sd sa sb) := ofWord rfl
theorem sdivu (sd sa sb : BitVec 8) : Statement (.sdivu sd sa sb) := ofWord rfl
theorem srem (sd sa sb : BitVec 8) : Statement (.srem sd sa sb) := ofWord rfl
theorem sremu (sd sa sb : BitVec 8) : Statement (.sremu sd sa sb) := ofWord rfl
theorem sand (sd sa sb : BitVec 8) : Statement (.sand sd sa sb) := ofWord rfl
theorem sor (sd sa sb : BitVec 8) : Statement (.sor sd sa sb) := ofWord rfl
theorem sxor (sd sa sb : BitVec 8) : Statement (.sxor sd sa sb) := ofWord rfl
theorem sandn (sd sa sb : BitVec 8) : Statement (.sandn sd sa sb) := ofWord rfl
theorem sshl (sd sa sb : BitVec 8) : Statement (.sshl sd sa sb) := ofWord rfl
theorem sshr (sd sa sb : BitVec 8) : Statement (.sshr sd sa sb) := ofWord rfl
theorem ssra (sd sa sb : BitVec 8) : Statement (.ssra sd sa sb) := ofWord rfl
theorem sror (sd sa sb : BitVec 8) : Statement (.sror sd sa sb) := ofWord rfl
theorem sslt (sd sa sb : BitVec 8) : Statement (.sslt sd sa sb) := ofWord rfl
theorem ssltu (sd sa sb : BitVec 8) : Statement (.ssltu sd sa sb) := ofWord rfl
theorem sseq (sd sa sb : BitVec 8) : Statement (.sseq sd sa sb) := ofWord rfl
theorem ssne (sd sa sb : BitVec 8) : Statement (.ssne sd sa sb) := ofWord rfl
theorem smin (sd sa sb : BitVec 8) : Statement (.smin sd sa sb) := ofWord rfl
theorem smax (sd sa sb : BitVec 8) : Statement (.smax sd sa sb) := ofWord rfl
theorem sminu (sd sa sb : BitVec 8) : Statement (.sminu sd sa sb) := ofWord rfl
theorem smaxu (sd sa sb : BitVec 8) : Statement (.smaxu sd sa sb) := ofWord rfl
theorem sclz (sd sa : BitVec 8) : Statement (.sclz sd sa) := ofWord rfl
theorem sctz (sd sa : BitVec 8) : Statement (.sctz sd sa) := ofWord rfl
theorem spop (sd sa : BitVec 8) : Statement (.spop sd sa) := ofWord rfl
theorem sbrev (sd sa : BitVec 8) : Statement (.sbrev sd sa) := ofWord rfl
theorem saddi (sd sa : BitVec 8) (imm : BitVec 10) : Statement (.saddi sd sa imm) := ofWord rfl
theorem sandi (sd sa : BitVec 8) (imm : BitVec 10) : Statement (.sandi sd sa imm) := ofWord rfl
theorem sori (sd sa : BitVec 8) (imm : BitVec 10) : Statement (.sori sd sa imm) := ofWord rfl
theorem sxori (sd sa : BitVec 8) (imm : BitVec 10) : Statement (.sxori sd sa imm) := ofWord rfl
theorem sshli (sd sa : BitVec 8) (imm : BitVec 6) : Statement (.sshli sd sa imm) := ofWord rfl
theorem sshri (sd sa : BitVec 8) (imm : BitVec 6) : Statement (.sshri sd sa imm) := ofWord rfl
theorem ssrai (sd sa : BitVec 8) (imm : BitVec 6) : Statement (.ssrai sd sa imm) := ofWord rfl
theorem sslti (sd sa : BitVec 8) (imm : BitVec 10) : Statement (.sslti sd sa imm) := ofWord rfl
theorem sli (sd : BitVec 8) (imm : BitVec 18) : Statement (.sli sd imm) := ofWord rfl
theorem slit (sd : BitVec 8) (lit : Literal) : Statement (.slit sd lit) := by
  cases lit with
  | signed w => exact fun bs hb => by cases hb; exact .inr (.inl rfl)
  | unsigned w => exact fun bs hb => by cases hb; exact .inr (.inl rfl)
  | full w v => exact fun bs hb => by cases hb; exact .inr (.inr (.inl rfl))
theorem sld (sd sa : BitVec 8) (imm : BitVec 10) : Statement (.sld sd sa imm) := ofWord rfl
theorem slw (sd sa : BitVec 8) (imm : BitVec 10) : Statement (.slw sd sa imm) := ofWord rfl
theorem slwu (sd sa : BitVec 8) (imm : BitVec 10) : Statement (.slwu sd sa imm) := ofWord rfl
theorem sst (sd sa : BitVec 8) (imm : BitVec 10) : Statement (.sst sd sa imm) := ofWord rfl
theorem sstw (sd sa : BitVec 8) (imm : BitVec 10) : Statement (.sstw sd sa imm) := ofWord rfl
theorem saadd (sd sa sb : BitVec 8) : Statement (.saadd sd sa sb) := ofWord rfl
theorem samin (sd sa sb : BitVec 8) : Statement (.samin sd sa sb) := ofWord rfl
theorem samax (sd sa sb : BitVec 8) : Statement (.samax sd sa sb) := ofWord rfl
theorem saxchg (sd sa sb : BitVec 8) : Statement (.saxchg sd sa sb) := ofWord rfl
theorem saand (sd sa sb : BitVec 8) : Statement (.saand sd sa sb) := ofWord rfl
theorem saor (sd sa sb : BitVec 8) : Statement (.saor sd sa sb) := ofWord rfl
theorem saxor (sd sa sb : BitVec 8) : Statement (.saxor sd sa sb) := ofWord rfl
theorem sacas (sd sa sb : BitVec 8) : Statement (.sacas sd sa sb) := ofWord rfl
theorem sbeq (sa sb : BitVec 8) (off : BitVec 10) : Statement (.sbeq sa sb off) := ofWord rfl
theorem sbne (sa sb : BitVec 8) (off : BitVec 10) : Statement (.sbne sa sb off) := ofWord rfl
theorem sblt (sa sb : BitVec 8) (off : BitVec 10) : Statement (.sblt sa sb off) := ofWord rfl
theorem sbge (sa sb : BitVec 8) (off : BitVec 10) : Statement (.sbge sa sb off) := ofWord rfl
theorem sbltu (sa sb : BitVec 8) (off : BitVec 10) : Statement (.sbltu sa sb off) := ofWord rfl
theorem sbgeu (sa sb : BitVec 8) (off : BitVec 10) : Statement (.sbgeu sa sb off) := ofWord rfl
theorem sjmp (off : BitVec 26) : Statement (.sjmp off) := ofWord rfl
theorem scall (off : BitVec 26) : Statement (.scall off) := ofWord rfl
theorem sjr (sa : BitVec 8) : Statement (.sjr sa) := ofWord rfl
theorem sjalr (sd sa : BitVec 8) : Statement (.sjalr sd sa) := ofWord rfl
theorem smov (sd sa : BitVec 10) : Statement (.smov sd sa) := ofWord rfl
theorem srd (sd num : BitVec 10) : Statement (.srd sd num) := ofWord rfl
theorem swr (num sa : BitVec 10) : Statement (.swr num sa) := ofWord rfl
theorem lcall (off : BitVec 26) : Statement (.lcall off) := ofWord rfl
theorem lcallr (sa : BitVec 8) : Statement (.lcallr sa) := ofWord rfl
theorem ljoin : Statement (.ljoin) := ofWord rfl
theorem ltest (sd : BitVec 8) : Statement (.ltest sd) := ofWord rfl
theorem spawn (sd sa sb : BitVec 8) : Statement (.spawn sd sa sb) := ofWord rfl
theorem awaitg : Statement (.awaitg) := ofWord rfl
theorem texit : Statement (.texit) := ofWord rfl
theorem yield : Statement (.yield) := ofWord rfl
theorem bar : Statement (.bar) := ofWord rfl
theorem barl (sd : BitVec 8) : Statement (.barl sd) := ofWord rfl
theorem cbar : Statement (.cbar) := ofWord rfl
theorem cbarl (sd : BitVec 8) : Statement (.cbarl sd) := ofWord rfl
theorem fput (sa sb : BitVec 8) : Statement (.fput sa sb) := ofWord rfl
theorem fget (sd sa : BitVec 8) : Statement (.fget sd sa) := ofWord rfl
theorem ftry (sd sa sb : BitVec 8) : Statement (.ftry sd sa sb) := ofWord rfl
theorem fclr (sa : BitVec 8) : Statement (.fclr sa) := ofWord rfl
theorem cpy (h : BitVec 4) (sa sb sc : BitVec 6) (rel : Bool) : Statement (.cpy h sa sb sc rel) := ofWord rfl
theorem cpyb (h : BitVec 4) (sa sb sc : BitVec 6) (rel : Bool) : Statement (.cpyb h sa sb sc rel) := ofWord rfl
theorem gath (h : BitVec 4) (sa sb sc : BitVec 6) (rel : Bool) : Statement (.gath h sa sb sc rel) := ofWord rfl
theorem scat (h : BitVec 4) (sa sb sc : BitVec 6) (rel : Bool) : Statement (.scat h sa sb sc rel) := ofWord rfl
theorem xkick (h : BitVec 4) (sa sb : BitVec 6) (rel : Bool) : Statement (.xkick h sa sb rel) := ofWord rfl
theorem coll (h : BitVec 4) (sa : BitVec 6) (rel : Bool) : Statement (.coll h sa rel) := ofWord rfl
theorem waitc (cls : BitVec 2) (n : BitVec 6) : Statement (.waitc cls n) := ofWord rfl
theorem waith (h : BitVec 4) : Statement (.waith h) := ofWord rfl
theorem testh (sd : BitVec 8) (h : BitVec 4) : Statement (.testh sd h) := ofWord rfl
theorem canch (h : BitVec 4) : Statement (.canch h) := ofWord rfl
theorem hmov (hd ha : BitVec 4) : Statement (.hmov hd ha) := ofWord rfl
theorem vacq (n : BitVec 2) : Statement (.vacq n) := ofWord rfl
theorem vrel (n : BitVec 2) : Statement (.vrel n) := ofWord rfl
theorem tacq (n : BitVec 3) : Statement (.tacq n) := ofWord rfl
theorem trel (n : BitVec 3) : Statement (.trel n) := ofWord rfl
theorem bankcfg (sa : BitVec 8) : Statement (.bankcfg sa) := ofWord rfl
theorem qclaim (sd sa : BitVec 8) : Statement (.qclaim sd sa) := ofWord rfl
theorem qpub (sa sb : BitVec 8) : Statement (.qpub sa sb) := ofWord rfl
theorem qfree (sa sb : BitVec 8) : Statement (.qfree sa sb) := ofWord rfl
theorem qpop (sd sa : BitVec 8) : Statement (.qpop sd sa) := ofWord rfl
theorem trap (n : BitVec 8) : Statement (.trap n) := ofWord rfl
theorem sysc (n : BitVec 8) : Statement (.sysc n) := ofWord rfl
theorem eret : Statement (.eret) := ofWord rfl
theorem bkpt (n : BitVec 8) : Statement (.bkpt n) := ofWord rfl
theorem tlbinv (sa sb : BitVec 8) : Statement (.tlbinv sa sb) := ofWord rfl
theorem icinv (sa sb : BitVec 8) : Statement (.icinv sa sb) := ofWord rfl
theorem halt : Statement (.halt) := ofWord rfl
theorem scmovn (sd sa sb : BitVec 8) : Statement (.scmovn sd sa sb) := ofWord rfl
theorem scmovz (sd sa sb : BitVec 8) : Statement (.scmovz sd sa sb) := ofWord rfl
theorem vadd (f : LaneWord) : Statement (.vadd f) := ofLane rfl rfl
theorem vsub (f : LaneWord) : Statement (.vsub f) := ofLane rfl rfl
theorem vmul (f : LaneWord) : Statement (.vmul f) := ofLane rfl rfl
theorem vmulh (f : LaneWord) : Statement (.vmulh f) := ofLane rfl rfl
theorem vmulhu (f : LaneWord) : Statement (.vmulhu f) := ofLane rfl rfl
theorem vmad (f : LaneWord) : Statement (.vmad f) := ofLane rfl rfl
theorem vabsd (f : LaneWord) : Statement (.vabsd f) := ofLane rfl rfl
theorem vand (f : LaneWord) : Statement (.vand f) := ofLane rfl rfl
theorem vor (f : LaneWord) : Statement (.vor f) := ofLane rfl rfl
theorem vxor (f : LaneWord) : Statement (.vxor f) := ofLane rfl rfl
theorem vandn (f : LaneWord) : Statement (.vandn f) := ofLane rfl rfl
theorem vshl (f : LaneWord) : Statement (.vshl f) := ofLane rfl rfl
theorem vshr (f : LaneWord) : Statement (.vshr f) := ofLane rfl rfl
theorem vsra (f : LaneWord) : Statement (.vsra f) := ofLane rfl rfl
theorem vror (f : LaneWord) : Statement (.vror f) := ofLane rfl rfl
theorem vmin (f : LaneWord) : Statement (.vmin f) := ofLane rfl rfl
theorem vmax (f : LaneWord) : Statement (.vmax f) := ofLane rfl rfl
theorem vminu (f : LaneWord) : Statement (.vminu f) := ofLane rfl rfl
theorem vmaxu (f : LaneWord) : Statement (.vmaxu f) := ofLane rfl rfl
theorem vclz (f : LaneWord) : Statement (.vclz f) := ofLane rfl rfl
theorem vpop (f : LaneWord) : Statement (.vpop f) := ofLane rfl rfl
theorem vbrev (f : LaneWord) : Statement (.vbrev f) := ofLane rfl rfl
theorem vbfx (f : LaneWord) : Statement (.vbfx f) := ofLane rfl rfl
theorem vbfi (f : LaneWord) : Statement (.vbfi f) := ofLane rfl rfl
theorem vsel (f : LaneWord) : Statement (.vsel f) := ofLane rfl rfl
theorem vcmp (f : LaneWord) : Statement (.vcmp f) := ofLane rfl rfl
theorem vmov (f : LaneWord) : Statement (.vmov f) := ofLane rfl rfl
theorem vmovi (f : LaneWord) : Statement (.vmovi f) := ofLane rfl rfl
theorem vaddc (f : LaneWord) : Statement (.vaddc f) := ofLane rfl rfl
theorem vdiv (f : LaneWord) : Statement (.vdiv f) := ofLane rfl rfl
theorem vrem (f : LaneWord) : Statement (.vrem f) := ofLane rfl rfl
theorem fadd (f : LaneWord) : Statement (.fadd f) := ofLane rfl rfl
theorem fsub (f : LaneWord) : Statement (.fsub f) := ofLane rfl rfl
theorem fmul (f : LaneWord) : Statement (.fmul f) := ofLane rfl rfl
theorem ffma (f : LaneWord) : Statement (.ffma f) := ofLane rfl rfl
theorem fmin (f : LaneWord) : Statement (.fmin f) := ofLane rfl rfl
theorem fmax (f : LaneWord) : Statement (.fmax f) := ofLane rfl rfl
theorem fcmp (f : LaneWord) : Statement (.fcmp f) := ofLane rfl rfl
theorem frnd (f : LaneWord) : Statement (.frnd f) := ofLane rfl rfl
theorem frcp (f : LaneWord) : Statement (.frcp f) := ofLane rfl rfl
theorem frsq (f : LaneWord) : Statement (.frsq f) := ofLane rfl rfl
theorem fsqrt (f : LaneWord) : Statement (.fsqrt f) := ofLane rfl rfl
theorem fexp2 (f : LaneWord) : Statement (.fexp2 f) := ofLane rfl rfl
theorem flog2 (f : LaneWord) : Statement (.flog2 f) := ofLane rfl rfl
theorem fsin (f : LaneWord) : Statement (.fsin f) := ofLane rfl rfl
theorem fcos (f : LaneWord) : Statement (.fcos f) := ofLane rfl rfl
theorem fclass (f : LaneWord) : Statement (.fclass f) := ofLane rfl rfl
theorem hadd2 (f : LaneWord) : Statement (.hadd2 f) := ofLane rfl rfl
theorem hmul2 (f : LaneWord) : Statement (.hmul2 f) := ofLane rfl rfl
theorem hfma2 (f : LaneWord) : Statement (.hfma2 f) := ofLane rfl rfl
theorem qdot4 (f : LaneWord) : Statement (.qdot4 f) := ofLane rfl rfl
theorem idot4 (f : LaneWord) : Statement (.idot4 f) := ofLane rfl rfl
theorem cvt (f : LaneWord) : Statement (.cvt f) := ofLane rfl rfl
theorem qblk (f : LaneWord) : Statement (.qblk f) := ofLane rfl rfl
theorem unblk (f : LaneWord) : Statement (.unblk f) := ofLane rfl rfl
theorem fdiv (f : LaneWord) : Statement (.fdiv f) := ofLane rfl rfl
theorem vcopy (f : LaneWord) : Statement (.vcopy f) := ofLane rfl rfl
theorem vrand (f : LaneWord) : Statement (.vrand f) := ofLane rfl rfl
theorem vdec (f : LaneWord) : Statement (.vdec f) := ofLane rfl rfl
theorem vshfl (f : LaneWord) : Statement (.vshfl f) := ofLane rfl rfl
theorem vshup (f : LaneWord) : Statement (.vshup f) := ofLane rfl rfl
theorem vshdn (f : LaneWord) : Statement (.vshdn f) := ofLane rfl rfl
theorem vshx (f : LaneWord) : Statement (.vshx f) := ofLane rfl rfl
theorem vbcast (f : LaneWord) : Statement (.vbcast f) := ofLane rfl rfl
theorem vvote (f : LaneWord) : Statement (.vvote f) := ofLane rfl rfl
theorem vmatch (f : LaneWord) : Statement (.vmatch f) := ofLane rfl rfl
theorem vred (f : LaneWord) : Statement (.vred f) := ofLane rfl rfl
theorem vscan (f : LaneWord) : Statement (.vscan f) := ofLane rfl rfl
theorem vsample (f : LaneWord) : Statement (.vsample f) := ofLane rfl rfl
theorem kand (f : LaneWord) : Statement (.kand f) := ofLane rfl rfl
theorem kor (f : LaneWord) : Statement (.kor f) := ofLane rfl rfl
theorem kxor (f : LaneWord) : Statement (.kxor f) := ofLane rfl rfl
theorem knot (f : LaneWord) : Statement (.knot f) := ofLane rfl rfl
theorem kmov (f : LaneWord) : Statement (.kmov f) := ofLane rfl rfl
theorem kpop (f : LaneWord) : Statement (.kpop f) := ofLane rfl rfl
theorem kffs (f : LaneWord) : Statement (.kffs f) := ofLane rfl rfl
theorem vext (f : LaneWord) : Statement (.vext f) := ofLane rfl rfl
theorem vins (f : LaneWord) : Statement (.vins f) := ofLane rfl rfl
theorem vld (f : LaneWord) : Statement (.vld f) := ofLane rfl rfl
theorem vst (f : LaneWord) : Statement (.vst f) := ofLane rfl rfl
theorem vlds (f : LaneWord) : Statement (.vlds f) := ofLane rfl rfl
theorem vsts (f : LaneWord) : Statement (.vsts f) := ofLane rfl rfl
theorem vatom (f : LaneWord) : Statement (.vatom f) := ofLane rfl rfl
theorem vatomn (f : LaneWord) : Statement (.vatomn f) := ofLane rfl rfl
theorem vatoms (f : LaneWord) : Statement (.vatoms f) := ofLane rfl rfl
theorem vpref (f : LaneWord) : Statement (.vpref f) := ofLane rfl rfl
theorem cadd (f : LaneWord) : Statement (.cadd f) := ofLane rfl rfl
theorem crd (f : LaneWord) : Statement (.crd f) := ofLane rfl rfl
theorem cmrg (f : LaneWord) : Statement (.cmrg f) := ofLane rfl rfl
theorem cset (f : LaneWord) : Statement (.cset f) := ofLane rfl rfl
theorem lbr (f : LaneWord) : Statement (.lbr f) := ofLane rfl rfl
theorem ljmp (f : LaneWord) : Statement (.ljmp f) := ofLane rfl rfl
theorem lbrx (f : LaneWord) : Statement (.lbrx f) := ofLane rfl rfl
theorem lcallx (f : LaneWord) : Statement (.lcallx f) := ofLane rfl rfl
theorem lret (f : LaneWord) : Statement (.lret f) := ofLane rfl rfl
theorem lreconv (f : LaneWord) : Statement (.lreconv f) := ofLane rfl rfl
theorem lmeld (f : LaneWord) : Statement (.lmeld f) := ofLane rfl rfl
theorem lmend (f : LaneWord) : Statement (.lmend f) := ofLane rfl rfl
theorem lstop (f : LaneWord) : Statement (.lstop f) := ofLane rfl rfl
theorem lspawn (f : LaneWord) : Statement (.lspawn f) := ofLane rfl rfl
theorem lawait (f : LaneWord) : Statement (.lawait f) := ofLane rfl rfl
theorem lexit (f : LaneWord) : Statement (.lexit f) := ofLane rfl rfl
theorem ltrap (f : LaneWord) : Statement (.ltrap f) := ofLane rfl rfl
theorem lnop (f : LaneWord) : Statement (.lnop f) := ofLane rfl rfl
theorem mma (f : LaneWord) : Statement (.mma f) := ofLane rfl rfl
theorem tzero (f : LaneWord) : Statement (.tzero f) := ofLane rfl rfl
theorem trd (f : LaneWord) : Statement (.trd f) := ofLane rfl rfl
theorem twr (f : LaneWord) : Statement (.twr f) := ofLane rfl rfl
theorem tst (f : LaneWord) : Statement (.tst f) := ofLane rfl rfl
theorem tld (f : LaneWord) : Statement (.tld f) := ofLane rfl rfl
theorem tscl (f : LaneWord) : Statement (.tscl f) := ofLane rfl rfl
theorem gbox (f : LaneWord) : Statement (.gbox f) := ofLane rfl rfl
theorem gtri (f : LaneWord) : Statement (.gtri f) := ofLane rfl rfl
theorem gdown (f : LaneWord) : Statement (.gdown f) := ofLane rfl rfl
theorem gtile (f : LaneWord) : Statement (.gtile f) := ofLane rfl rfl
theorem gqnt (f : LaneWord) : Statement (.gqnt f) := ofLane rfl rfl
theorem gupd (f : LaneWord) : Statement (.gupd f) := ofLane rfl rfl
theorem grefit (f : LaneWord) : Statement (.grefit f) := ofLane rfl rfl
theorem gdeskew (f : LaneWord) : Statement (.gdeskew f) := ofLane rfl rfl
theorem ghit (f : LaneWord) : Statement (.ghit f) := ofLane rfl rfl
theorem pairWord (raw : Bool) (h0 h1 : PairHalf) : Statement (.pairWord raw h0 h1) := by
  cases raw
  · exact fun bs hb => by cases hb; exact .inr (.inr (.inl rfl))
  · exact fun bs hb => by cases hb; exact .inr (.inr (.inr rfl))
theorem illegalScalarWord (w : W32) : Statement (.illegalScalarWord w) := ofWord rfl
theorem illegalWord : Statement (.illegalWord) := ofNone rfl
theorem loadLanding : Statement (.loadLanding) := ofNone rfl
theorem mmaComplete : Statement (.mmaComplete) := ofNone rfl
theorem storeAck : Statement (.storeAck) := ofNone rfl
theorem blazeMarker : Statement (.blazeMarker) := ofNone rfl
theorem replicaPropagate : Statement (.replicaPropagate) := ofNone rfl
theorem coreStampWrap : Statement (.coreStampWrap) := ofNone rfl
theorem engineCompletion : Statement (.engineCompletion) := ofNone rfl
theorem lz4c : Statement (.lz4c) := ofNone rfl
theorem lz4d : Statement (.lz4d) := ofNone rfl
theorem repack : Statement (.repack) := ofNone rfl
theorem convert : Statement (.convert) := ofNone rfl
theorem fill : Statement (.fill) := ofNone rfl
theorem flush : Statement (.flush) := ofNone rfl
theorem digest : Statement (.digest) := ofNone rfl
theorem transformRequestComplete : Statement (.transformRequestComplete) := ofNone rfl
theorem allreduce : Statement (.allreduce) := ofNone rfl
theorem reducescatter : Statement (.reducescatter) := ofNone rfl
theorem allgather : Statement (.allgather) := ofNone rfl
theorem broadcast : Statement (.broadcast) := ofNone rfl
theorem flitRetransmit : Statement (.flitRetransmit) := ofNone rfl
theorem linkFailure : Statement (.linkFailure) := ofNone rfl
theorem fabricTimeout : Statement (.fabricTimeout) := ofNone rfl
theorem pageWalk : Statement (.pageWalk) := ofNone rfl
theorem translationRestart : Statement (.translationRestart) := ofNone rfl
theorem trapTake : Statement (.trapTake) := ofNone rfl
theorem groupEndInError : Statement (.groupEndInError) := ofNone rfl
theorem eventThreshold : Statement (.eventThreshold) := ofNone rfl
theorem eventWindowClose : Statement (.eventWindowClose) := ofNone rfl
theorem taskEndReport : Statement (.taskEndReport) := ofNone rfl
theorem taskGroupLaunch : Statement (.taskGroupLaunch) := ofNone rfl
theorem binTimerExpire : Statement (.binTimerExpire) := ofNone rfl
theorem binLaunchTimeout : Statement (.binLaunchTimeout) := ofNone rfl
theorem poolPull : Statement (.poolPull) := ofNone rfl
theorem teamAdmit : Statement (.teamAdmit) := ofNone rfl
theorem teamResidency : Statement (.teamResidency) := ofNone rfl
theorem teamPark : Statement (.teamPark) := ofNone rfl
theorem teamUnpark : Statement (.teamUnpark) := ofNone rfl
theorem parktExpire : Statement (.parktExpire) := ofNone rfl
theorem priorityAge : Statement (.priorityAge) := ofNone rfl
theorem timeSliceExpire : Statement (.timeSliceExpire) := ofNone rfl
theorem doorbell : Statement (.doorbell) := ofNone rfl
theorem launch : Statement (.launch) := ofNone rfl
theorem gridCompletion : Statement (.gridCompletion) := ofNone rfl
theorem contextCreate : Statement (.contextCreate) := ofNone rfl
theorem queuePriorityChange : Statement (.queuePriorityChange) := ofNone rfl
theorem codeObjectLoad : Statement (.codeObjectLoad) := ofNone rfl
theorem bankTableApply : Statement (.bankTableApply) := ofNone rfl
theorem shadowRegionClear : Statement (.shadowRegionClear) := ofNone rfl
theorem deviceReset : Statement (.deviceReset) := ofNone rfl
theorem contextReset : Statement (.contextReset) := ofNone rfl
theorem telemetry : Statement (.telemetry) := ofNone rfl
theorem firmwareLoad : Statement (.firmwareLoad) := ofNone rfl
theorem attest : Statement (.attest) := ofNone rfl
theorem bootRomStart : Statement (.bootRomStart) := ofNone rfl
theorem imageOffer : Statement (.imageOffer) := ofNone rfl
theorem raiseSecurityFloor : Statement (.raiseSecurityFloor) := ofNone rfl
theorem powerLimit : Statement (.powerLimit) := ofNone rfl
theorem junctionThrottle : Statement (.junctionThrottle) := ofNone rfl
theorem thermalTrip : Statement (.thermalTrip) := ofNone rfl
theorem hostMemoryAccess : Statement (.hostMemoryAccess) := ofNone rfl
theorem peerPageAccess : Statement (.peerPageAccess) := ofNone rfl
theorem poolGrow : Statement (.poolGrow) := ofNone rfl
theorem powerLoss : Statement (.powerLoss) := ofNone rfl

end Sys2Proof.Laws.Encoding
end

