-- ==== Sys2Proof/Tests/Slice0.lean ====
section
/-! SUPPORT. Tests: words written from the manual's encoding tables and what they decode to, ill-formed terms refused, for
every statement that has premises a state and operands that meet them, and single instructions with results worked by
hand. -/

open Sys2Proof Sys2Proof.Machine

namespace Sys2Proof.Tests

set_option Elab.async false

/-! ### Words written from 03 R54 and R58, 05 R73, R75, R77, and what they decode to -/

theorem test_scalar_words_1 :
    decodeScalar 0x07262934 0 0 = .sadd 201 138 77 ∧
    decodeScalar 0x07262935 0 0 = .ssub 201 138 77 ∧
    decodeScalar 0x07262936 0 0 = .smul 201 138 77 ∧
    decodeScalar 0x07262937 0 0 = .smulh 201 138 77 ∧
    decodeScalar 0x0B262934 0 0 = .sdiv 201 138 77 ∧
    decodeScalar 0x0B262935 0 0 = .sdivu 201 138 77 ∧
    decodeScalar 0x0B262936 0 0 = .srem 201 138 77 ∧
    decodeScalar 0x0B262937 0 0 = .sremu 201 138 77 ∧
    decodeScalar 0x0F262934 0 0 = .sand 201 138 77 ∧
    decodeScalar 0x0F262935 0 0 = .sor 201 138 77 ∧
    decodeScalar 0x0F262936 0 0 = .sxor 201 138 77 ∧
    decodeScalar 0x0F262937 0 0 = .sandn 201 138 77 := by
  decide

theorem test_scalar_words_2 :
    decodeScalar 0x13262934 0 0 = .sshl 201 138 77 ∧
    decodeScalar 0x13262935 0 0 = .sshr 201 138 77 ∧
    decodeScalar 0x13262936 0 0 = .ssra 201 138 77 ∧
    decodeScalar 0x13262937 0 0 = .sror 201 138 77 ∧
    decodeScalar 0x17262934 0 0 = .sslt 201 138 77 ∧
    decodeScalar 0x17262935 0 0 = .ssltu 201 138 77 ∧
    decodeScalar 0x17262936 0 0 = .sseq 201 138 77 ∧
    decodeScalar 0x17262937 0 0 = .ssne 201 138 77 ∧
    decodeScalar 0x1B262934 0 0 = .smin 201 138 77 ∧
    decodeScalar 0x1B262935 0 0 = .smax 201 138 77 ∧
    decodeScalar 0x1B262936 0 0 = .sminu 201 138 77 ∧
    decodeScalar 0x1B262937 0 0 = .smaxu 201 138 77 := by
  decide

theorem test_scalar_words_3 :
    decodeScalar 0x1F262800 0 0 = .sclz 201 138 ∧
    decodeScalar 0x1F262801 0 0 = .sctz 201 138 ∧
    decodeScalar 0x1F262802 0 0 = .spop 201 138 ∧
    decodeScalar 0x1F262803 0 0 = .sbrev 201 138 ∧
    decodeScalar 0x23262BA5 0 0 = .saddi 201 138 933 ∧
    decodeScalar 0x27262BA5 0 0 = .sandi 201 138 933 ∧
    decodeScalar 0x2B262BA5 0 0 = .sori 201 138 933 ∧
    decodeScalar 0x2F262BA5 0 0 = .sxori 201 138 933 ∧
    decodeScalar 0x33262825 0 0 = .sshli 201 138 37 ∧
    decodeScalar 0x37262825 0 0 = .sshri 201 138 37 ∧
    decodeScalar 0x3B262825 0 0 = .ssrai 201 138 37 ∧
    decodeScalar 0x3F262BA5 0 0 = .sslti 201 138 933 := by
  decide

theorem test_scalar_words_4 :
    decodeScalar 0x4326ABCD 0 0 = .sli 201 175053 ∧
    decodeScalar 0x4B262BA5 0 0 = .sld 201 138 933 ∧
    decodeScalar 0x4F262BA5 0 0 = .slw 201 138 933 ∧
    decodeScalar 0x53262BA5 0 0 = .slwu 201 138 933 ∧
    decodeScalar 0x57262BA5 0 0 = .sst 201 138 933 ∧
    decodeScalar 0x5B262BA5 0 0 = .sstw 201 138 933 ∧
    decodeScalar 0x5F262934 0 0 = .saadd 201 138 77 ∧
    decodeScalar 0x5F262935 0 0 = .samin 201 138 77 ∧
    decodeScalar 0x5F262936 0 0 = .samax 201 138 77 ∧
    decodeScalar 0x5F262937 0 0 = .saxchg 201 138 77 ∧
    decodeScalar 0x63262934 0 0 = .saand 201 138 77 ∧
    decodeScalar 0x63262935 0 0 = .saor 201 138 77 := by
  decide

theorem test_scalar_words_5 :
    decodeScalar 0x63262936 0 0 = .saxor 201 138 77 ∧
    decodeScalar 0x63262937 0 0 = .sacas 201 138 77 ∧
    decodeScalar 0x662937A5 0 0 = .sbeq 138 77 933 ∧
    decodeScalar 0x6A2937A5 0 0 = .sbne 138 77 933 ∧
    decodeScalar 0x6E2937A5 0 0 = .sblt 138 77 933 ∧
    decodeScalar 0x722937A5 0 0 = .sbge 138 77 933 ∧
    decodeScalar 0x762937A5 0 0 = .sbltu 138 77 933 ∧
    decodeScalar 0x7A2937A5 0 0 = .sbgeu 138 77 933 ∧
    decodeScalar 0x7EABCDE1 0 0 = .sjmp 44813793 ∧
    decodeScalar 0x82ABCDE1 0 0 = .scall 44813793 ∧
    decodeScalar 0x84022800 0 0 = .sjr 138 ∧
    decodeScalar 0x87262801 0 0 = .sjalr 201 138 := by
  decide

theorem test_scalar_words_6 :
    decodeScalar 0x8ABCFFC0 0 0 = .smov 700 1023 ∧
    decodeScalar 0x8ABC0941 0 0 = .srd 700 37 ∧
    decodeScalar 0x8825FFC2 0 0 = .swr 37 1023 ∧
    decodeScalar 0x8EABCDE1 0 0 = .lcall 44813793 ∧
    decodeScalar 0x90022800 0 0 = .lcallr 138 ∧
    decodeScalar 0x94000000 0 0 = .ljoin ∧
    decodeScalar 0x97240001 0 0 = .ltest 201 ∧
    decodeScalar 0x9B262934 0 0 = .spawn 201 138 77 ∧
    decodeScalar 0x9C000000 0 0 = .awaitg ∧
    decodeScalar 0x9C000001 0 0 = .texit ∧
    decodeScalar 0x9C000002 0 0 = .yield ∧
    decodeScalar 0xA0000000 0 0 = .bar := by
  decide

theorem test_scalar_words_7 :
    decodeScalar 0xA3240001 0 0 = .barl 201 ∧
    decodeScalar 0xA0000002 0 0 = .cbar ∧
    decodeScalar 0xA3240003 0 0 = .cbarl 201 ∧
    decodeScalar 0xA4022934 0 0 = .fput 138 77 ∧
    decodeScalar 0xA7262801 0 0 = .fget 201 138 ∧
    decodeScalar 0xA7262936 0 0 = .ftry 201 138 77 ∧
    decodeScalar 0xA4022803 0 0 = .fclr 138 ∧
    decodeScalar 0xAAC28D95 0 0 = .cpy 11 10 13 37 true ∧
    decodeScalar 0xAAD28D95 0 0 = .cpyb 11 10 13 37 true ∧
    decodeScalar 0xAAE28D95 0 0 = .gath 11 10 13 37 true ∧
    decodeScalar 0xAAF28D95 0 0 = .scat 11 10 13 37 true ∧
    decodeScalar 0xAEC28D01 0 0 = .xkick 11 10 13 true := by
  decide

theorem test_scalar_words_8 :
    decodeScalar 0xAED28001 0 0 = .coll 11 10 true ∧
    decodeScalar 0xB0040015 0 0 = .waitc 1 21 ∧
    decodeScalar 0xB4002C00 0 0 = .waith 11 ∧
    decodeScalar 0xB724002D 0 0 = .testh 201 11 ∧
    decodeScalar 0xB4002C02 0 0 = .canch 11 ∧
    decodeScalar 0xB4182C03 0 0 = .hmov 6 11 ∧
    decodeScalar 0xB8000002 0 0 = .vacq 2 ∧
    decodeScalar 0xB8040002 0 0 = .vrel 2 ∧
    decodeScalar 0xB8080002 0 0 = .tacq 2 ∧
    decodeScalar 0xB80C0004 0 0 = .trel 4 ∧
    decodeScalar 0xB8122800 0 0 = .bankcfg 138 ∧
    decodeScalar 0xC7262800 0 0 = .qclaim 201 138 := by
  decide

theorem test_scalar_words_9 :
    decodeScalar 0xC4022935 0 0 = .qpub 138 77 ∧
    decodeScalar 0xC4022936 0 0 = .qfree 138 77 ∧
    decodeScalar 0xC7262803 0 0 = .qpop 201 138 ∧
    decodeScalar 0xBC005400 0 0 = .trap 21 ∧
    decodeScalar 0xBC005401 0 0 = .sysc 21 ∧
    decodeScalar 0xBC000002 0 0 = .eret ∧
    decodeScalar 0xBC005403 0 0 = .bkpt 21 ∧
    decodeScalar 0xC0022934 0 0 = .tlbinv 138 77 ∧
    decodeScalar 0xC0022935 0 0 = .icinv 138 77 ∧
    decodeScalar 0xC0000002 0 0 = .halt ∧
    decodeScalar 0xCB262934 0 0 = .scmovn 201 138 77 ∧
    decodeScalar 0xCB262935 0 0 = .scmovz 201 138 77 := by
  decide

theorem test_scalar_words_10 :
    decodeScalar 0x45240000 0x80000001 7 = .slit 73 (.signed 0x80000001) ∧
    decodeScalar 0x45250000 0x80000001 7 = .slit 73 (.unsigned 0x80000001) ∧
    decodeScalar 0x45260000 0x80000001 7 = .slit 73 (.full 0x80000001 7) := by
  decide

theorem test_lane_words_1 :
    decodeLane [0x83, 0x01, 0x03, 0x0F, 0x00, 0x00, 0x29, 0x10, 0x00, 0x7F, 0xFF, 0xFF, 0x9C] = some (.vadd ⟨.f83, 0, 3, 1, 1792, 1, 580, 0, -100⟩) ∧
    decodeLane [0x80, 0x02, 0x00, 0x11, 0xFF, 0xDF, 0xE9, 0x00] = some (.vsub ⟨.f80, 0, 0, 2, 511, 1791, 576, 0, 0⟩) ∧
    decodeLane [0x80, 0x03, 0x05, 0x01, 0x2E, 0x80, 0x44, 0xBC] = some (.vmul ⟨.f80, 0, 5, 0, 302, 1026, 303, 0, 0⟩) ∧
    decodeLane [0x80, 0x04, 0x05, 0x01, 0x2F, 0x80, 0x44, 0xC0] = some (.vmulh ⟨.f80, 0, 5, 0, 303, 1026, 304, 0, 0⟩) ∧
    decodeLane [0x80, 0x05, 0x05, 0x01, 0x30, 0x80, 0x44, 0xC4] = some (.vmulhu ⟨.f80, 0, 5, 0, 304, 1026, 305, 0, 0⟩) ∧
    decodeLane [0x83, 0x06, 0x0F, 0x10, 0x04, 0x00, 0xA0, 0x18, 0x03, 0x80, 0x00, 0x00, 0x00] = some (.vmad ⟨.f83, 0, 15, 2, 4, 5, 6, 7, 0⟩) ∧
    decodeLane [0x80, 0x07, 0x05, 0x01, 0x31, 0x80, 0x44, 0xC8] = some (.vabsd ⟨.f80, 0, 5, 0, 305, 1026, 306, 0, 0⟩) ∧
    decodeLane [0x80, 0x08, 0x05, 0x01, 0x32, 0x80, 0x44, 0xCC] = some (.vand ⟨.f80, 0, 5, 0, 306, 1026, 307, 0, 0⟩) ∧
    decodeLane [0x80, 0x09, 0x05, 0x01, 0x33, 0x80, 0x44, 0xD0] = some (.vor ⟨.f80, 0, 5, 0, 307, 1026, 308, 0, 0⟩) ∧
    decodeLane [0x0A, 0x09, 0x08, 0x07] = some (.vxor ⟨.short, 0, 0, 0, 9, 8, 7, 0, 0⟩) := by
  decide

theorem test_lane_words_2 :
    decodeLane [0x0B, 0xFF, 0xFE, 0x80] = some (.vandn ⟨.short, 0, 0, 0, 255, 254, 128, 0, 0⟩) ∧
    decodeLane [0x80, 0x0C, 0x05, 0x01, 0x36, 0x80, 0x44, 0xDC] = some (.vshl ⟨.f80, 0, 5, 0, 310, 1026, 311, 0, 0⟩) ∧
    decodeLane [0x80, 0x0D, 0x05, 0x01, 0x37, 0x80, 0x44, 0xE0] = some (.vshr ⟨.f80, 0, 5, 0, 311, 1026, 312, 0, 0⟩) ∧
    decodeLane [0x80, 0x0E, 0x05, 0x01, 0x38, 0x80, 0x44, 0xE4] = some (.vsra ⟨.f80, 0, 5, 0, 312, 1026, 313, 0, 0⟩) ∧
    decodeLane [0x80, 0x0F, 0x05, 0x01, 0x39, 0x80, 0x44, 0xE8] = some (.vror ⟨.f80, 0, 5, 0, 313, 1026, 314, 0, 0⟩) ∧
    decodeLane [0x80, 0x10, 0x05, 0x01, 0x3A, 0x80, 0x44, 0xEC] = some (.vmin ⟨.f80, 0, 5, 0, 314, 1026, 315, 0, 0⟩) ∧
    decodeLane [0x80, 0x11, 0x05, 0x01, 0x3B, 0x80, 0x44, 0xF0] = some (.vmax ⟨.f80, 0, 5, 0, 315, 1026, 316, 0, 0⟩) ∧
    decodeLane [0x80, 0x12, 0x05, 0x01, 0x3C, 0x80, 0x44, 0xF4] = some (.vminu ⟨.f80, 0, 5, 0, 316, 1026, 317, 0, 0⟩) ∧
    decodeLane [0x80, 0x13, 0x05, 0x01, 0x3D, 0x80, 0x44, 0xF8] = some (.vmaxu ⟨.f80, 0, 5, 0, 317, 1026, 318, 0, 0⟩) ∧
    decodeLane [0x80, 0x14, 0x01, 0x01, 0x00, 0x48, 0x60, 0x00] = some (.vclz ⟨.f80, 0, 1, 0, 256, 579, 0, 0, 0⟩) := by
  decide

theorem test_lane_words_3 :
    decodeLane [0x80, 0x15, 0x01, 0x01, 0x00, 0x48, 0x60, 0x00] = some (.vpop ⟨.f80, 0, 1, 0, 256, 579, 0, 0, 0⟩) ∧
    decodeLane [0x80, 0x16, 0x01, 0x01, 0x00, 0x48, 0x60, 0x00] = some (.vbrev ⟨.f80, 0, 1, 0, 256, 579, 0, 0, 0⟩) ∧
    decodeLane [0x81, 0x17, 0x00, 0x08, 0x04, 0x00, 0xA1, 0xF0] = some (.vbfx ⟨.f81, 0, 0, 1, 4, 5, 0, 0, 496⟩) ∧
    decodeLane [0x82, 0x18, 0x00, 0x00, 0x04, 0x00, 0xA9, 0x10, 0x03, 0x80, 0x00, 0xF8] = some (.vbfi ⟨.f82, 0, 0, 0, 4, 5, 580, 7, 248⟩) ∧
    decodeLane [0x82, 0x19, 0x00, 0x00, 0x04, 0x00, 0xA9, 0x13, 0xFF, 0xBF, 0xFF, 0xFF] = some (.vsel ⟨.f82, 0, 0, 0, 4, 5, 580, 2047, 4194303⟩) ∧
    decodeLane [0x80, 0x1A, 0x00, 0x48, 0x09, 0x01, 0x00, 0x1C] = some (.vcmp ⟨.f80, 0, 0, 9, 9, 8, 7, 0, 0⟩) ∧
    decodeLane [0x80, 0x1B, 0x00, 0x07, 0xFF, 0x09, 0xA0, 0x00] = some (.vmov ⟨.f80, 0, 0, 0, 2047, 77, 0, 0, 0⟩) ∧
    decodeLane [0x81, 0x1C, 0x00, 0x01, 0x90, 0x00, 0x10, 0x00] = some (.vmovi ⟨.f81, 0, 0, 0, 400, 0, 0, 0, -4096⟩) ∧
    decodeLane [0x80, 0x1D, 0x05, 0x01, 0x3F, 0x80, 0x45, 0x00] = some (.vaddc ⟨.f80, 0, 5, 0, 319, 1026, 320, 0, 0⟩) ∧
    decodeLane [0x80, 0x1E, 0x05, 0x01, 0x40, 0x80, 0x45, 0x04] = some (.vdiv ⟨.f80, 0, 5, 0, 320, 1026, 321, 0, 0⟩) := by
  decide

theorem test_lane_words_4 :
    decodeLane [0x80, 0x1F, 0x05, 0x01, 0x41, 0x80, 0x45, 0x08] = some (.vrem ⟨.f80, 0, 5, 0, 321, 1026, 322, 0, 0⟩) ∧
    decodeLane [0x80, 0x20, 0x00, 0x20, 0x82, 0x10, 0x7F, 0xF8] = some (.fadd ⟨.f80, 0, 0, 4, 130, 131, 2046, 0, 0⟩) ∧
    decodeLane [0x80, 0x21, 0x00, 0x20, 0x82, 0x10, 0x7F, 0xF8] = some (.fsub ⟨.f80, 0, 0, 4, 130, 131, 2046, 0, 0⟩) ∧
    decodeLane [0x80, 0x22, 0x00, 0x20, 0x82, 0x10, 0x7F, 0xF8] = some (.fmul ⟨.f80, 0, 0, 4, 130, 131, 2046, 0, 0⟩) ∧
    decodeLane [0x82, 0x23, 0x00, 0x18, 0x01, 0x00, 0x40, 0x0D, 0x22, 0x00, 0x00, 0x00] = some (.ffma ⟨.f82, 0, 0, 3, 1, 2, 3, 580, 0⟩) ∧
    decodeLane [0x24, 0x01, 0x02, 0x03] = some (.fmin ⟨.short, 0, 0, 0, 1, 2, 3, 0, 0⟩) ∧
    decodeLane [0x25, 0x01, 0x02, 0x03] = some (.fmax ⟨.short, 0, 0, 0, 1, 2, 3, 0, 0⟩) ∧
    decodeLane [0x80, 0x26, 0x00, 0x38, 0x01, 0x00, 0x40, 0x0C] = some (.fcmp ⟨.f80, 0, 0, 7, 1, 2, 3, 0, 0⟩) ∧
    decodeLane [0x80, 0x27, 0x00, 0x10, 0x01, 0x00, 0x40, 0x00] = some (.frnd ⟨.f80, 0, 0, 2, 1, 2, 0, 0, 0⟩) ∧
    decodeLane [0x80, 0x28, 0x02, 0x00, 0x0A, 0x01, 0x60, 0x00] = some (.frcp ⟨.f80, 0, 2, 0, 10, 11, 0, 0, 0⟩) := by
  decide

theorem test_lane_words_5 :
    decodeLane [0x80, 0x29, 0x02, 0x00, 0x0A, 0x01, 0x60, 0x00] = some (.frsq ⟨.f80, 0, 2, 0, 10, 11, 0, 0, 0⟩) ∧
    decodeLane [0x80, 0x2A, 0x00, 0x08, 0x01, 0x00, 0x40, 0x00] = some (.fsqrt ⟨.f80, 0, 0, 1, 1, 2, 0, 0, 0⟩) ∧
    decodeLane [0x80, 0x2B, 0x02, 0x00, 0x0A, 0x01, 0x60, 0x00] = some (.fexp2 ⟨.f80, 0, 2, 0, 10, 11, 0, 0, 0⟩) ∧
    decodeLane [0x80, 0x2C, 0x02, 0x00, 0x0A, 0x01, 0x60, 0x00] = some (.flog2 ⟨.f80, 0, 2, 0, 10, 11, 0, 0, 0⟩) ∧
    decodeLane [0x80, 0x2D, 0x02, 0x00, 0x0A, 0x01, 0x60, 0x00] = some (.fsin ⟨.f80, 0, 2, 0, 10, 11, 0, 0, 0⟩) ∧
    decodeLane [0x80, 0x2E, 0x02, 0x00, 0x0A, 0x01, 0x60, 0x00] = some (.fcos ⟨.f80, 0, 2, 0, 10, 11, 0, 0, 0⟩) ∧
    decodeLane [0x80, 0x2F, 0x02, 0x00, 0x0A, 0x01, 0x60, 0x00] = some (.fclass ⟨.f80, 0, 2, 0, 10, 11, 0, 0, 0⟩) ∧
    decodeLane [0x80, 0x30, 0x00, 0x48, 0x0A, 0x01, 0x60, 0x30] = some (.hadd2 ⟨.f80, 0, 0, 9, 10, 11, 12, 0, 0⟩) ∧
    decodeLane [0x80, 0x31, 0x00, 0x48, 0x0A, 0x01, 0x60, 0x30] = some (.hmul2 ⟨.f80, 0, 0, 9, 10, 11, 12, 0, 0⟩) ∧
    decodeLane [0x82, 0x32, 0x00, 0x40, 0x0A, 0x01, 0x60, 0x30, 0x06, 0x80, 0x00, 0x00] = some (.hfma2 ⟨.f82, 0, 0, 8, 10, 11, 12, 13, 0⟩) := by
  decide

theorem test_lane_words_6 :
    decodeLane [0x83, 0x33, 0x00, 0x38, 0x0A, 0x01, 0x60, 0x30, 0x06, 0x80, 0x00, 0x00, 0x00] = some (.qdot4 ⟨.f83, 0, 0, 7, 10, 11, 12, 13, 0⟩) ∧
    decodeLane [0x82, 0x34, 0x00, 0x18, 0x0A, 0x01, 0x60, 0x30, 0x06, 0x80, 0x00, 0x00] = some (.idot4 ⟨.f82, 0, 0, 3, 10, 11, 12, 13, 0⟩) ∧
    decodeLane [0x81, 0x35, 0x00, 0x50, 0x0A, 0x01, 0x60, 0x42] = some (.cvt ⟨.f81, 0, 0, 10, 10, 11, 0, 0, 66⟩) ∧
    decodeLane [0x80, 0x36, 0x02, 0x00, 0x40, 0x05, 0x01, 0x80] = some (.qblk ⟨.f80, 0, 2, 0, 64, 40, 96, 0, 0⟩) ∧
    decodeLane [0x37, 0x28, 0x40, 0x60] = some (.unblk ⟨.short, 0, 0, 0, 40, 64, 96, 0, 0⟩) ∧
    decodeLane [0x80, 0x38, 0x00, 0x20, 0x82, 0x10, 0x7F, 0xF8] = some (.fdiv ⟨.f80, 0, 0, 4, 130, 131, 2046, 0, 0⟩) ∧
    decodeLane [0x82, 0x39, 0x07, 0x00, 0x00, 0x02, 0x80, 0x58, 0x0C, 0x00, 0x00, 0x00] = some (.vcopy ⟨.f82, 0, 7, 0, 0, 20, 22, 24, 0⟩) ∧
    decodeLane [0x82, 0x3A, 0x00, 0x00, 0x01, 0x00, 0x40, 0x0C, 0x02, 0x00, 0x00, 0x03] = some (.vrand ⟨.f82, 0, 0, 0, 1, 2, 3, 4, 3⟩) ∧
    decodeLane [0x82, 0x3B, 0x40, 0x00, 0x0A, 0x81, 0x80, 0x3A, 0x08, 0x00, 0x00, 0x1D] = some (.vdec ⟨.f82, 4, 0, 0, 10, 1036, 14, 1040, 29⟩) ∧
    decodeLane [0x80, 0x40, 0x04, 0x00, 0xC8, 0x19, 0x23, 0x28] = some (.vshfl ⟨.f80, 0, 4, 0, 200, 201, 202, 0, 0⟩) := by
  decide

theorem test_lane_words_7 :
    decodeLane [0x80, 0x41, 0x04, 0x00, 0xC8, 0x19, 0x23, 0x28] = some (.vshup ⟨.f80, 0, 4, 0, 200, 201, 202, 0, 0⟩) ∧
    decodeLane [0x80, 0x42, 0x04, 0x00, 0xC8, 0x19, 0x23, 0x28] = some (.vshdn ⟨.f80, 0, 4, 0, 200, 201, 202, 0, 0⟩) ∧
    decodeLane [0x80, 0x43, 0x04, 0x00, 0xC8, 0x19, 0x23, 0x28] = some (.vshx ⟨.f80, 0, 4, 0, 200, 201, 202, 0, 0⟩) ∧
    decodeLane [0x44, 0xC8, 0xC9, 0x00] = some (.vbcast ⟨.short, 0, 0, 0, 200, 201, 0, 0, 0⟩) ∧
    decodeLane [0x80, 0x45, 0x00, 0x18, 0xC8, 0x19, 0x20, 0x00] = some (.vvote ⟨.f80, 0, 0, 3, 200, 201, 0, 0, 0⟩) ∧
    decodeLane [0x46, 0xC8, 0xC9, 0x00] = some (.vmatch ⟨.short, 0, 0, 0, 200, 201, 0, 0, 0⟩) ∧
    decodeLane [0x81, 0x47, 0x00, 0x08, 0x0A, 0x01, 0x20, 0x04] = some (.vred ⟨.f81, 0, 0, 1, 10, 9, 0, 0, 4⟩) ∧
    decodeLane [0x80, 0x48, 0x00, 0x80, 0x0A, 0x01, 0x20, 0x00] = some (.vscan ⟨.f80, 0, 0, 16, 10, 9, 0, 0, 0⟩) ∧
    decodeLane [0x80, 0x49, 0x04, 0x00, 0xC8, 0x19, 0x23, 0x28] = some (.vsample ⟨.f80, 0, 4, 0, 200, 201, 202, 0, 0⟩) ∧
    decodeLane [0x50, 0x0F, 0x0E, 0x0D] = some (.kand ⟨.short, 0, 0, 0, 15, 14, 13, 0, 0⟩) := by
  decide

theorem test_lane_words_8 :
    decodeLane [0x51, 0x0F, 0x0E, 0x0D] = some (.kor ⟨.short, 0, 0, 0, 15, 14, 13, 0, 0⟩) ∧
    decodeLane [0x52, 0x01, 0x02, 0x03] = some (.kxor ⟨.short, 0, 0, 0, 1, 2, 3, 0, 0⟩) ∧
    decodeLane [0x53, 0x01, 0x02, 0x00] = some (.knot ⟨.short, 0, 0, 0, 1, 2, 0, 0, 0⟩) ∧
    decodeLane [0x80, 0x54, 0x00, 0x00, 0x01, 0x25, 0x80, 0x00] = some (.kmov ⟨.f80, 0, 0, 0, 1, 300, 0, 0, 0⟩) ∧
    decodeLane [0x80, 0x55, 0x00, 0x01, 0x2C, 0x01, 0xE0, 0x00] = some (.kpop ⟨.f80, 0, 0, 0, 300, 15, 0, 0, 0⟩) ∧
    decodeLane [0x56, 0x03, 0x0F, 0x00] = some (.kffs ⟨.short, 0, 0, 0, 3, 15, 0, 0, 0⟩) ∧
    decodeLane [0x80, 0x57, 0x04, 0x00, 0xC8, 0x19, 0x23, 0x28] = some (.vext ⟨.f80, 0, 4, 0, 200, 201, 202, 0, 0⟩) ∧
    decodeLane [0x80, 0x58, 0x04, 0x00, 0xC8, 0x19, 0x23, 0x28] = some (.vins ⟨.f80, 0, 4, 0, 200, 201, 202, 0, 0⟩) ∧
    decodeLane [0x82, 0x60, 0x30, 0x18, 0x28, 0x81, 0x60, 0x14, 0x00, 0x00, 0x00, 0x40] = some (.vld ⟨.f82, 3, 0, 3, 40, 1035, 5, 0, 64⟩) ∧
    decodeLane [0x82, 0x61, 0x00, 0x58, 0x00, 0x81, 0x69, 0x10, 0x03, 0x7F, 0xFF, 0xFC] = some (.vst ⟨.f82, 0, 0, 11, 0, 1035, 580, 6, -4⟩) := by
  decide

theorem test_lane_words_9 :
    decodeLane [0x83, 0x62, 0xF1, 0xE0, 0x28, 0x48, 0x80, 0x14, 0x00, 0x00, 0x00, 0x00, 0x8B] = some (.vlds ⟨.f83, 15, 1, 28, 40, 580, 5, 0, 139⟩) ∧
    decodeLane [0x82, 0x63, 0x00, 0x00, 0x00, 0x00, 0xA9, 0x10, 0x03, 0x00, 0x00, 0x00] = some (.vsts ⟨.f82, 0, 0, 0, 0, 5, 580, 6, 0⟩) ∧
    decodeLane [0x82, 0x64, 0x10, 0x48, 0x07, 0x81, 0x60, 0x14, 0x04, 0x00, 0x00, 0x04] = some (.vatom ⟨.f82, 1, 0, 9, 7, 1035, 5, 8, 4⟩) ∧
    decodeLane [0x82, 0x65, 0x00, 0x50, 0x00, 0x81, 0x60, 0x14, 0x04, 0x00, 0x00, 0x00] = some (.vatomn ⟨.f82, 0, 0, 10, 0, 1035, 5, 8, 0⟩) ∧
    decodeLane [0x82, 0x66, 0x00, 0x20, 0x07, 0x00, 0xA9, 0x10, 0x04, 0x00, 0x00, 0x00] = some (.vatoms ⟨.f82, 0, 0, 4, 7, 5, 580, 8, 0⟩) ∧
    decodeLane [0x83, 0x67, 0x00, 0x00, 0x00, 0x81, 0x60, 0x14, 0x00, 0x00, 0x00, 0x00, 0x80] = some (.vpref ⟨.f83, 0, 0, 0, 0, 1035, 5, 0, 128⟩) ∧
    decodeLane [0x82, 0x68, 0x00, 0x08, 0x00, 0x81, 0x60, 0x14, 0x04, 0x00, 0x00, 0x00] = some (.cadd ⟨.f82, 0, 0, 1, 0, 1035, 5, 8, 0⟩) ∧
    decodeLane [0x80, 0x69, 0x20, 0x08, 0x09, 0x81, 0x60, 0x14] = some (.crd ⟨.f80, 2, 0, 1, 9, 1035, 5, 0, 0⟩) ∧
    decodeLane [0x82, 0x6A, 0x00, 0x00, 0x00, 0x81, 0x60, 0x14, 0x04, 0x00, 0x00, 0x00] = some (.cmrg ⟨.f82, 0, 0, 0, 0, 1035, 5, 8, 0⟩) ∧
    decodeLane [0x82, 0x6B, 0x00, 0x00, 0x00, 0x81, 0x60, 0x14, 0x04, 0x00, 0x00, 0x00] = some (.cset ⟨.f82, 0, 0, 0, 0, 1035, 5, 8, 0⟩) := by
  decide

theorem test_lane_words_10 :
    decodeLane [0x83, 0x70, 0x00, 0x08, 0x00, 0x00, 0xA0, 0x01, 0xFF, 0xFF, 0xFF, 0xFF, 0xDF] = some (.lbr ⟨.f83, 0, 0, 1, 0, 5, 0, 1023, -33⟩) ∧
    decodeLane [0x81, 0x71, 0x00, 0x00, 0x00, 0x00, 0x0F, 0xFF] = some (.ljmp ⟨.f81, 0, 0, 0, 0, 0, 0, 0, 4095⟩) ∧
    decodeLane [0x82, 0x72, 0x00, 0x00, 0x00, 0x00, 0xA0, 0x00, 0x04, 0x80, 0x00, 0x00] = some (.lbrx ⟨.f82, 0, 0, 0, 0, 5, 0, 9, 0⟩) ∧
    decodeLane [0x82, 0x73, 0x00, 0x00, 0x00, 0x80, 0x00, 0x00, 0x04, 0x80, 0x00, 0x00] = some (.lcallx ⟨.f82, 0, 0, 0, 0, 1024, 0, 9, 0⟩) ∧
    decodeLane [0x74, 0x00, 0x00, 0x00] = some (.lret ⟨.short, 0, 0, 0, 0, 0, 0, 0, 0⟩) ∧
    decodeLane [0x81, 0x75, 0x00, 0x00, 0x00, 0x00, 0x03, 0xFF] = some (.lreconv ⟨.f81, 0, 0, 0, 0, 0, 0, 0, 1023⟩) ∧
    decodeLane [0x80, 0x76, 0x03, 0x00, 0x00, 0x81, 0x60, 0x00] = some (.lmeld ⟨.f80, 0, 3, 0, 0, 1035, 0, 0, 0⟩) ∧
    decodeLane [0x77, 0x00, 0x00, 0x00] = some (.lmend ⟨.short, 0, 0, 0, 0, 0, 0, 0, 0⟩) ∧
    decodeLane [0x78, 0x00, 0x00, 0x00] = some (.lstop ⟨.short, 0, 0, 0, 0, 0, 0, 0, 0⟩) ∧
    decodeLane [0x82, 0x79, 0x02, 0x00, 0x00, 0x81, 0x60, 0x14, 0x03, 0x00, 0x00, 0x00] = some (.lspawn ⟨.f82, 0, 2, 0, 0, 1035, 5, 6, 0⟩) := by
  decide

theorem test_lane_words_11 :
    decodeLane [0x7A, 0x00, 0x00, 0x00] = some (.lawait ⟨.short, 0, 0, 0, 0, 0, 0, 0, 0⟩) ∧
    decodeLane [0x80, 0x7B, 0x09, 0x00, 0x00, 0x00, 0x00, 0x00] = some (.lexit ⟨.f80, 0, 9, 0, 0, 0, 0, 0, 0⟩) ∧
    decodeLane [0x81, 0x7C, 0x01, 0x00, 0x00, 0x00, 0x00, 0xFF] = some (.ltrap ⟨.f81, 0, 1, 0, 0, 0, 0, 0, 255⟩) ∧
    decodeLane [0x7D, 0x00, 0x00, 0x00] = some (.lnop ⟨.short, 0, 0, 0, 0, 0, 0, 0, 0⟩) ∧
    decodeLane [0x82, 0x80, 0x01, 0x03, 0x00, 0x08, 0x01, 0x82, 0x16, 0x00, 0x00, 0x50] = some (.mma ⟨.f82, 0, 1, 0, 768, 64, 96, 1068, 80⟩) ∧
    decodeLane [0x80, 0x81, 0x00, 0x0B, 0x03, 0x00, 0x00, 0x00] = some (.tzero ⟨.f80, 0, 0, 1, 771, 0, 0, 0, 0⟩) ∧
    decodeLane [0x80, 0x82, 0x10, 0x00, 0x05, 0x60, 0x49, 0x00] = some (.trd ⟨.f80, 1, 0, 0, 5, 770, 576, 0, 0⟩) ∧
    decodeLane [0x80, 0x83, 0x00, 0x0B, 0x02, 0x00, 0xA0, 0x18] = some (.twr ⟨.f80, 0, 0, 1, 770, 5, 6, 0, 0⟩) ∧
    decodeLane [0x80, 0x84, 0x00, 0x0B, 0x01, 0x81, 0x69, 0x10] = some (.tst ⟨.f80, 0, 0, 1, 769, 1035, 580, 0, 0⟩) ∧
    decodeLane [0x82, 0x85, 0x00, 0x03, 0x01, 0x81, 0x60, 0x14, 0x00, 0x00, 0x02, 0x00] = some (.tld ⟨.f82, 0, 0, 0, 769, 1035, 5, 0, 512⟩) := by
  decide

theorem test_lane_words_12 :
    decodeLane [0x80, 0x86, 0x01, 0x23, 0x00, 0x60, 0x30, 0x5C] = some (.tscl ⟨.f80, 0, 1, 4, 768, 769, 1047, 0, 0⟩) ∧
    decodeLane [0x80, 0x90, 0x20, 0x00, 0x28, 0x02, 0x10, 0x50] = some (.gbox ⟨.f80, 2, 0, 0, 40, 16, 1044, 0, 0⟩) ∧
    decodeLane [0x80, 0x91, 0x10, 0x00, 0x30, 0x02, 0x00, 0x80] = some (.gtri ⟨.f80, 1, 0, 0, 48, 16, 32, 0, 0⟩) ∧
    decodeLane [0x80, 0x92, 0x00, 0x00, 0x30, 0x02, 0x10, 0x50] = some (.gdown ⟨.f80, 0, 0, 0, 48, 16, 1044, 0, 0⟩) ∧
    decodeLane [0x82, 0x93, 0x00, 0x00, 0x28, 0x02, 0x01, 0x00, 0x10, 0x00, 0x00, 0x00] = some (.gtile ⟨.f82, 0, 0, 0, 40, 16, 64, 32, 0⟩) ∧
    decodeLane [0x80, 0x94, 0x00, 0x00, 0x28, 0x02, 0x00, 0x00] = some (.gqnt ⟨.f80, 0, 0, 0, 40, 16, 0, 0, 0⟩) ∧
    decodeLane [0x82, 0x95, 0x00, 0x00, 0x3C, 0x00, 0x80, 0x22, 0x06, 0x80, 0x00, 0x00] = some (.gupd ⟨.f82, 0, 0, 0, 60, 4, 8, 1037, 0⟩) ∧
    decodeLane [0x80, 0x96, 0x00, 0x00, 0x3C, 0x82, 0x80, 0x00] = some (.grefit ⟨.f80, 0, 0, 0, 60, 1044, 0, 0, 0⟩) ∧
    decodeLane [0x80, 0x97, 0x00, 0x00, 0x3C, 0x00, 0x80, 0x20] = some (.gdeskew ⟨.f80, 0, 0, 0, 60, 4, 8, 0, 0⟩) ∧
    decodeLane [0x80, 0x98, 0x00, 0x00, 0x3C, 0x00, 0x80, 0x30] = some (.ghit ⟨.f80, 0, 0, 0, 60, 4, 12, 0, 0⟩) := by
  decide

/-! ### Ill-formed terms refused, one for each check -/

theorem test_wf_gath : (Instr.gath 0 1 2 62 false).wf = false ∧ (Instr.gath 0 1 2 61 false).wf = true := by decide
theorem test_wf_scat : (Instr.scat 0 1 2 62 false).wf = false := by decide
theorem test_wf_vacq : (Instr.vacq 0).wf = false ∧ (Instr.vacq 3).wf = true := by decide
theorem test_wf_tacq : (Instr.tacq 0).wf = false ∧ (Instr.tacq 5).wf = false ∧ (Instr.tacq 4).wf = true := by decide
theorem test_wf_trel : (Instr.trel 5).wf = false ∧ (Instr.trel 4).wf = true := by decide
-- two destinations in one bank; a fourth register read; MOD that VADD does not take; VMOVI with an a
theorem test_wf_pair : (Instr.pairWord false ⟨0x01, 0, 8, 1, 2⟩ ⟨0x01, 0, 12, 1, 2⟩).wf = false ∧
    (Instr.pairWord false ⟨0x01, 0, 8, 1, 2⟩ ⟨0x01, 0, 13, 3, 4⟩).wf = false ∧
    (Instr.pairWord false ⟨0x01, 3, 8, 1, 2⟩ ⟨0x01, 0, 13, 1, 2⟩).wf = false ∧
    (Instr.pairWord false ⟨0x1C, 0, 8, 1, 2⟩ ⟨0x01, 0, 13, 1, 2⟩).wf = false := by decide
-- a field that is not used, a special as destination, MOD, LA, PRED, an immediate without %zero, a reserved code
theorem test_wf_lane : (Instr.vadd ⟨.f82, 0, 0, 0, 5, 6, 7, 8, 0⟩).wf = false ∧ (Instr.vadd ⟨.f80, 0, 0, 0, 0x240, 6, 7, 0, 0⟩).wf = false ∧
    (Instr.vadd ⟨.f80, 0, 0, 3, 5, 6, 7, 0, 0⟩).wf = false ∧ (Instr.vadd ⟨.f80, 1, 0, 0, 5, 6, 7, 0, 0⟩).wf = false ∧
    (Instr.kand ⟨.f80, 0, 1, 0, 5, 6, 7, 0, 0⟩).wf = false ∧ (Instr.vadd ⟨.f82, 0, 0, 0, 5, 6, 7, 0, 1⟩).wf = false ∧
    (Instr.vadd ⟨.f80, 0, 0, 0, 5, 0x245, 7, 0, 0⟩).wf = false := by decide
-- an operand beyond the form's reach: the short form, form 0x80 with an immediate, form 0x81 beyond 13 bits
theorem test_wf_form : (Instr.vadd ⟨.short, 0, 0, 0, 256, 6, 7, 0, 0⟩).wf = false ∧ (Instr.vmovi ⟨.f80, 0, 0, 0, 5, 0, 0, 0, 1⟩).wf = false ∧
    (Instr.vmovi ⟨.f81, 0, 0, 0, 5, 0, 0, 0, 4096⟩).wf = false ∧ (Instr.vmovi ⟨.f81, 0, 0, 0, 5, 0, 0, 0, 4095⟩).wf = true := by decide

-- R55, R60, R76: words that are no instruction
theorem test_illegal_words : decodeScalar 0 0 0 = .illegalScalarWord 0 ∧ decodeScalar 0xCC000000 0 0 = .illegalScalarWord 0xCC000000 ∧
    decodeScalar 0x45270000 0 0 = .illegalScalarWord 0x45270000 ∧ decodeScalar 0x33262865 0 0 = .illegalScalarWord 0x33262865 ∧
    decodeScalar 0xA8000002 0 0 = .illegalScalarWord 0xA8000002 ∧
    decodeLane [0, 0, 0, 0] = some .illegalWord ∧ decodeLane [0x3C, 1, 2, 3] = some .illegalWord ∧ decodeLane [0x85] = some .illegalWord ∧
    decodeLane [0x80, 0x01, 0x03, 0x01, 0x2C, 0x00, 0x7C, 0x09] = some .illegalWord ∧
    decodeLane [0xFF, 0xFF, 0x01, 0x07, 0x03, 0x04] = some (.vadd ⟨.short, 0, 0, 0, 7, 3, 4, 0, 0⟩) ∧ decodeLane [0x80, 1] = none := by
  decide
-- R59's two pairs, from form 0x84 and, the first, raw
theorem test_pair_words :
    decodeLane [0x84, 0x02, 0x00, 0x80, 0x08, 0x08, 0x01, 0x40, 0x0D, 0x00, 0x81, 0x40] =
      some (.pairWord false ⟨0x01, 0, 8, 1, 2⟩ ⟨0x0A, 0, 13, 1, 5⟩) ∧
    decodeLane [0x83, 0xFE, 0x02, 0x00, 0x80, 0x08, 0x08, 0x01, 0x40, 0x0D, 0x00, 0x81, 0x40] =
      some (.pairWord true ⟨0x01, 0, 8, 1, 2⟩ ⟨0x0A, 0, 13, 1, 5⟩) ∧
    decodeTableWord 32 0x04300C10 = some (.sadd 12 3 4) := by
  decide

/-! ### Small states -/

/-- A machine whose one group is about to run its scalar stream. -/
def one : State := placeCode State.reset false []
/-- The same with a lane call, one split of 32 lanes. -/
def oneL : State := placeCode State.reset true []
/-- Scalar registers set. -/
def setS (s : State) (l : List (Nat × W64)) : State := l.foldl (fun s p => writeS s p.1 p.2) s
/-- A V register with one value in all lanes, and its tag. -/
def setV (s : State) (r : Nat) (t : BitVec 4) (v : W32) : State :=
  { s with g := writeReg s.g r t ((List.range 32).map (fun l => (l, v))) }
/-- The group in focus changed. -/
def setG (s : State) (f : Group → Group) : State := { s with g := f s.g }
/-- The one split with other lanes. -/
def setMask (s : State) (m : W32) : State := setG s (fun g => setSplit g 0 { splitAt g 0 with mask := m })
/-- The one page's entry. -/
def setPage (s : State) (e : W64) : State := { s with mem := memWrite s.mem 0x30000 (bytes64 e) }
/-- Bytes of the one page, from a virtual address. -/
def setMem (s : State) (va : Nat) (bs : List Byte) : State := { s with mem := memWrite s.mem (0x40000 + va) bs }
/-- The one page a future page. -/
def setFuture (s : State) (full : BitVec 8) : State := { setPage s 0x4188F with records := [(0x1000, ⟨full, 0, 3⟩)] }
/-- Operands of a step. -/
def setEv (s : State) (a : EvArgs) : State := { s with ev := a }
/-- The one core changed. -/
def setC (s : State) (f : Core → Core) : State := { s with cores := [(0, f oneCore)] }
/-- The one context changed. -/
def setX (s : State) (f : Context → Context) : State := { s with ctxs := [f oneContext] }

/-! ### The premises of the statements as tests that compute -/

/-- No class of a context's event control counts. -/
def noEventsB (s : State) : Bool := (ctxOf s s.g.ctx).evctl.all (fun e => evWindow e == 0)

theorem noEvents_of {s : State} (h : noEventsB s = true) : NoEvents s := by
  intro cls
  simp only [noEventsB, List.all_eq_true, beq_iff_eq] at h
  unfold evctlOf
  rw [List.getD_eq_getElem?_getD]
  cases hg : (ctxOf s s.g.ctx).evctl[cls]? with
  | none => rfl
  | some e => exact h e (List.mem_of_getElem? hg)

/-- `QuietSplit`. -/
def quietB (s : State) : Bool :=
  s.ent < s.g.splits.length && s.g.landings.isEmpty && s.g.poison.isEmpty && s.g.call.all (fun c => c.stale.isEmpty) &&
  (coreOf s s.g.core).mma.isNone && noEventsB s

theorem quiet_of {s : State} (h : quietB s = true) : QuietSplit s := by
  simp only [quietB, Bool.and_eq_true, decide_eq_true_eq, List.isEmpty_iff, Option.isNone_iff_eq_none] at h
  obtain ⟨⟨⟨⟨⟨h1, h2⟩, h3⟩, h4⟩, h5⟩, h6⟩ := h
  exact ⟨h1, h2, h3, fun c hc => by rw [hc] at h4; simpa using h4, h5, noEvents_of h6⟩

/-- `CanIssue`. -/
def canIssueB (s : State) (act : W32) (reads writes : List Opnd) : Bool :=
  let codes := (reads ++ writes).flatMap Opnd.codes
  codes.all (fun c => !isL c || Sys2Proof.Machine.melded s) && (unmappedLanes s act codes).isEmpty &&
  codes.all (fun c => codeHeld s.g c) && (!tagCheck (callFmode s.g) || reads.all (fun o => o.formatOk s.g))

theorem canIssue_of {s : State} {act : W32} {reads writes : List Opnd} (h : canIssueB s act reads writes = true) :
    CanIssue s act reads writes := by
  simp only [canIssueB, Bool.and_eq_true, List.all_eq_true, List.isEmpty_iff, Bool.or_eq_true, Bool.not_eq_true'] at h
  obtain ⟨⟨⟨h1, h2⟩, h3⟩, h4⟩ := h
  refine ⟨fun c hc hl => ?_, h2, h3, fun ht => ?_⟩
  · rcases h1 c hc with h | h
    · rw [h] at hl; cases hl
    · exact h
  · rcases h4 with h | h
    · rw [h] at ht; cases ht
    · exact h

/-- `PlainAccess`. -/
def plainB (s : State) (classes : List Nat) (need : Need) (size : Nat) (va : W64) (a : Access) : Bool :=
  (match checkAccess s s.g.ctx s.g.core classes need size va with | .ok b => b == a | .error _ => false) &&
  a.pa % size == 0 && !a.peer && !isCxl a.pa && oneCopy s s.g.ctx a && !isChecked s a &&
  s.stores.isEmpty && s.props.isEmpty && s.poison.isEmpty && s.g.poison.isEmpty && (lineOf (coreOf s s.g.core) a.pa).isNone

theorem plain_of {s : State} {classes : List Nat} {need : Need} {size : Nat} {va : W64} {a : Access}
    (h : plainB s classes need size va a = true) : PlainAccess s classes need size va a := by
  simp only [plainB, Bool.and_eq_true, beq_iff_eq, List.isEmpty_iff, Option.isNone_iff_eq_none, Bool.not_eq_true'] at h
  obtain ⟨⟨⟨⟨⟨⟨⟨⟨⟨⟨h1, h2⟩, h3⟩, h4⟩, h5⟩, h6⟩, h7⟩, h8⟩, h9⟩, h10⟩, h11⟩ := h
  refine ⟨?_, h2, h3, h4, h5, h6, h7, h8, h9, h10, h11⟩
  split at h1
  · rename_i b hb; rw [hb, eq_of_beq h1]
  · cases h1

/-- The access of the one page at an address. -/
def at0 (va : Nat) : Access := ⟨BitVec.ofNat 64 va, 0x40000 + va, 0x4008F⟩

theorem quiet_oneL : QuietSplit oneL := quiet_of (by decide +kernel)
theorem test_access : PlainAccess one [0] .write 8 0x100 (at0 0x100) := plain_of (by decide +kernel)

/-- Whether a check answers a value, with an equality that computes. -/
def okB {ε α : Type} [DecidableEq α] (e : Except ε α) (a : α) : Bool :=
  match e with
  | .ok b => decide (b = a)
  | .error _ => false

theorem ok_of {ε α : Type} [DecidableEq α] {e : Except ε α} {a : α} (h : okB e a = true) : e = .ok a := by
  cases e with
  | ok b => exact congrArg _ (of_decide_eq_true h)
  | error x => cases h

theorem error_of {ε α : Type} [DecidableEq ε] {e : Except ε α} {a : ε}
    (h : (match e with | .error b => decide (b = a) | .ok _ => false) = true) : e = .error a := by
  cases e with
  | error b => exact congrArg _ (of_decide_eq_true h)
  | ok x => cases h

/-- Whether an outcome is a next state of which something holds. -/
def nextB (o : Host.Outcome State Fault Refusal) (p : State → Bool) : Bool :=
  match o with
  | .next t => p t
  | _ => false

theorem next_of {o : Host.Outcome State Fault Refusal} {t : State} (h : nextB o (fun u => decide (u = t)) = true) : o = .next t := by
  cases o with
  | next u => exact congrArg _ (of_decide_eq_true h)
  | fault r => cases h
  | refused r => cases h

theorem all_of {α : Type} {l : List α} {f : α → Bool} {p : α → Prop} (h : l.all f = true) (hp : ∀ x, f x = true → p x) :
    ∀ x ∈ l, p x := fun x hx => hp x (List.all_eq_true.mp h x hx)

/-! ### Premises met: the scalar stream -/

theorem witness_ScalarDivisionResults :
    readS (setS one [(3, 7)]) (3 : BitVec 8).toNat ≠ 0 ∧ readS one (3 : BitVec 8).toNat = 0 ∧ NoEvents one ∧
    ∀ s ∈ [one, setS one [(3, 7)]], ∀ r ∈ [(2 : BitVec 8), 3], s.g.poison.contains (scalarBad r.toNat) = false :=
  ⟨by decide +kernel, by decide +kernel, noEvents_of (by decide +kernel), by decide +kernel⟩

theorem witness_ScalarImmediatesConstantsAndMoves :
    readS (setS one [(3, 7)]) (3 : BitVec 8).toNat ≠ 0 ∧ readS one (3 : BitVec 8).toNat = 0 ∧
    (([0x23262BA5, 0x27262BA5, 0x2B262BA5, 0x2F262BA5, 0x33262825, 0x37262825, 0x3B262825, 0x3F262BA5, 0x4326ABCD,
      0x45240000] : List W32).map (fun w => w.extractLsb' 26 6)) =
      [0x08, 0x09, 0x0A, 0x0B, 0x0C, 0x0D, 0x0E, 0x0F, 0x10, 0x11] ∧
    -- a shift with a reserved bit, an SLIT of kind 3
    (0x33262865 : W32).extractLsb' 6 4 ≠ 0 ∧ (0x45270000 : W32).extractLsb' 16 2 = 3 := by
  decide +kernel

theorem witness_ScalarRegisterFrameAndReadBack :
    scalarDest (.sadd 1 2 3) = some 1 ∧
    exec (.sadd 1 2 3) (setS one [(2, 5), (3, 6)]) = .next (nextSpc (writeS (setS one [(2, 5), (3, 6)]) 1 11)) :=
  ⟨rfl, next_of (by decide +kernel)⟩

theorem witness_SpecialRegistersReadAndWrite :
    ((List.range 1024).all (fun n => (BitVec.ofNat 10 n).toNat == n)) = true ∧
    teamOf? one one.g.team = some oneTeam ∧ gridOf? one oneTeam.grid = some oneGrid ∧
    one.g.call = none ∧ oneL.g.call.isSome = true ∧ one.g.priv = false ∧
    (setG one (fun g => { g with priv := true })).g.priv = true := by
  decide +kernel

theorem witness_ScalarLoadAndStoreResults :
    (let s := setS one [(5, 0xFF8)]
     let off := (1 : BitVec 10).signExtend 64
     (PlainAccess s [0] .read 8 (readS s (5 : BitVec 8).toNat + off * 8) (at0 0x1000) ∧
      PlainAccess s [0] .write 8 (readS s (5 : BitVec 8).toNat + off * 8) (at0 0x1000)) ∧
     PlainAccess s [0] .read 4 (readS s (5 : BitVec 8).toNat + off * 4) (at0 0xFFC) ∧
     PlainAccess s [0] .write 4 (readS s (5 : BitVec 8).toNat + off * 4) (at0 0xFFC) ∧
     ordStr s s.g.ctx = false ∧ s.g.unacked < 255) :=
  ⟨⟨plain_of (by decide +kernel), plain_of (by decide +kernel)⟩, plain_of (by decide +kernel), plain_of (by decide +kernel),
    by decide +kernel, by decide +kernel⟩

theorem witness_ScalarAtomicResults :
    PlainAccess (setS one [(5, 0x1000)]) [0] .write 8 (readS (setS one [(5, 0x1000)]) (5 : BitVec 8).toNat) (at0 0x1000) :=
  plain_of (by decide +kernel)

/-- The one future page's word at address 0x20, FULL or not, with the group in its list. -/
def oneF (full : Bool) : State :=
  { setS (setFuture one (if full then 0x10 else 0)) [(5, 0x20), (6, 9)] with waiters := [(0x40020, 3)] }

theorem witness_FutureWordResults : ∀ full : Bool,
    (let a : Access := ⟨0x20, 0x40020, 0x4188F⟩
     (PlainAccess (oneF full) [3] .write 8 (readS (oneF full) (5 : BitVec 8).toNat) a ∧
      PlainAccess (oneF full) [3] .read 8 (readS (oneF full) (5 : BitVec 8).toNat) a) ∧
     (oneF full).g.call = none ∧ (oneF full).props = [] ∧ (oneF full).g.deliver = none ∧ wordFull (oneF full) a.pa = full ∧
     (0x40020, 3) ∈ (oneF full).waiters ∧ (groupOf? (oneF full) 3).isSome = true) := by
  intro full
  cases full <;> exact ⟨⟨plain_of (by decide +kernel), plain_of (by decide +kernel)⟩, by decide +kernel⟩

/-- A page that may only be read, and a page of CRUISE4 counters. -/
def oneR : State := setPage one 0x4008D
def oneN : State := setPage one 0x4088F

theorem witness_ScalarAccessFaultsTrap :
    (checkAccess one one.g.ctx one.g.core [0] .read 8 (readS one (5 : BitVec 8).toNat + (-1 : BitVec 10).signExtend 64 * 8) =
        .error ⟨0x04, 0, 0xFFFFFFFFFFFFFFF8⟩ ∧
      checkAccess oneR oneR.g.ctx oneR.g.core [0] .write 8 (readS oneR (5 : BitVec 8).toNat + (1 : BitVec 10).signExtend 64 * 8) =
        .error ⟨0x05, 0, 8⟩) ∧
    ((7 : W64).toNat % 8 ≠ 0 ∧ vaOk 0x0080000000000000 = false ∧ vaOk 0xFF80000000000000 = true) ∧
    ((8 : W64).toNat % 8 = 0 ∧ translate oneR 0 0 8 = .ok ⟨0, 0, 65536, 0x4008D⟩ ∧ pteW 0x4008D = false ∧
      physOk (ptePage 0x4008D + ((8 : W64).toNat % 2 ^ 55 - 0)) = true) ∧
    (checkAccess one one.g.ctx one.g.core [3] .write 8 (readS (setS one [(5, 8)]) (5 : BitVec 8).toNat) = .error ⟨0x07, 0, 8⟩ ∧
      one.g.deliver = none) ∧
    translate oneN 0 0 8 = .ok ⟨0, 0, 65536, 0x4088F⟩ ∧ pteW 0x4088F = true ∧ [0].contains (pteClass 0x4088F) = false ∧
    physOk (ptePage 0x4088F + ((8 : W64).toNat % 2 ^ 55 - 0)) = true :=
  ⟨⟨error_of (by decide +kernel), error_of (by decide +kernel)⟩, by decide +kernel,
    ⟨by decide +kernel, ok_of (by decide +kernel), by decide +kernel⟩, ⟨error_of (by decide +kernel), by decide +kernel⟩,
    ok_of (by decide +kernel), by decide +kernel⟩

theorem witness_BranchesFollowTheirComparison :
    (([0x64780005, 0x681403FD, 0x6F262BA5, 0x73262BA5, 0x77262BA5, 0x7B262BA5] : List W32).map
      (fun w => w.extractLsb' 26 6)) = [0x19, 0x1A, 0x1B, 0x1C, 0x1D, 0x1E] := by
  decide +kernel

theorem witness_JumpsAndLinks :
    (readS one (5 : BitVec 8).toNat).toNat % 4 = 0 ∧ (readS (setS one [(5, 7)]) (5 : BitVec 8).toNat).toNat % 4 ≠ 0 := by
  decide +kernel

/-- The one lane call with its split at LSTOP, after it wrote S800 in lane 31. -/
def oneStopped : State :=
  setG oneL (fun g => { setSplit g 0 { splitAt g 0 with state := .stopped } with
    call := g.call.map (fun c => { c with written := [⟨800, 7, 0x80000000⟩] }) })

theorem witness_LaneCallsStartAndJoin :
    (joinCall one = .ok one ∧ one.g.saves = [] ∧ (readS one (5 : BitVec 8).toNat).toNat < 2 ^ 26 ∧
      2 ^ 26 ≤ (readS (setS one [(5, 0x4000000)]) (5 : BitVec 8).toNat).toNat ∧ one.g.call = none) ∧
    (oneL.g.call.isSome = true ∧ callStopped oneL.g = false) ∧
    oneStopped.g.call.isSome = true ∧ callStopped oneStopped.g = true ∧
    oneStopped.g.call.any (fun c => c.written.any (fun p => p.key == 800)) = true ∧ QuietSplit oneStopped ∧ oneStopped.stores = [] :=
  ⟨⟨rfl, by decide +kernel⟩, by decide +kernel, by decide +kernel, by decide +kernel, by decide +kernel,
    quiet_of (by decide +kernel), rfl⟩

/-- The one grid's descriptor changed. -/
def setD (s : State) (f : Descriptor → Descriptor) : State := { s with grids := [{ oneGrid with desc := f oneDescriptor }] }
/-- A second group beside the one in its team. -/
def two : State :=
  { setD one (fun d => { d with groups := 2 }) with
    teams := [{ oneTeam with groups := [3, 4] }], groups := [(4, { oneGroup with gid := 4, index := 1 })] }

theorem witness_BarriersCountTheirMembers :
    -- a team of two with nobody arrived, and one whose only member is the last
    (two.g.call = none ∧ two.stores = [] ∧ two.props = [] ∧ teamOf? two two.g.team = some { oneTeam with groups := [3, 4] } ∧
      two.g.gid ∈ [3, 4] ∧ (ctxOf two two.g.ctx).det = false ∧ two.g.arrived = false ∧ two.g.phase = oneTeam.phase ∧
      oneTeam.arrivals.length + 1 < teamSize two { oneTeam with groups := [3, 4] } ∧ two.g.carrived = false ∧
      two.g.cphase = (clusterPhase two { oneTeam with groups := [3, 4] }).phase ∧
      (clusterPhase two { oneTeam with groups := [3, 4] }).arrivals.length + 1 <
        teamSize two { oneTeam with groups := [3, 4] } * clusterSize two { oneTeam with groups := [3, 4] }) ∧
    teamOf? one one.g.team = some oneTeam ∧ one.g.gid ∈ oneTeam.groups ∧ teamSize one oneTeam ≤ oneTeam.arrivals.length + 1 ∧
    one.g.cphase = (clusterPhase one oneTeam).phase ∧
    teamSize one oneTeam * clusterSize one oneTeam ≤ (clusterPhase one oneTeam).arrivals.length + 1 := by
  decide +kernel

theorem witness_BlocksAndTilesAreTakenAndGivenBack :
    (let s := setD one (fun d => { d with tiles := 4 })
     s.g.call = none ∧ s.g.blocks = 0 ∧ (3 : BitVec 2).toNat ≤ declaredBlocks s ∧ s.g.tiles = 0 ∧
     grantable (coreOf s s.g.core).vreq s.g.gid (3 : BitVec 2).toNat (freeBlocks s s.g.core) = true ∧
     grantable (coreOf s s.g.core).treq s.g.gid (4 : BitVec 3).toNat (freeTiles s s.g.core) = true) ∧
    (let s := setC one (fun c => { c with vreq := [(9, 1)], treq := [(9, 1)] })
     grantable (coreOf s s.g.core).vreq s.g.gid (1 : BitVec 2).toNat (freeBlocks s s.g.core) = false ∧
     grantable (coreOf s s.g.core).treq s.g.gid (1 : BitVec 3).toNat (freeTiles s s.g.core) = false) ∧
    (setG one (fun g => { g with blocks := 1, tiles := 1 })).g.blocks ≠ 0 ∧
    (setG one (fun g => { g with blocks := 1, tiles := 1 })).g.tiles ≠ 0 ∧
    declaredBlocks (setD one (fun d => { d with regs := 2 })) < (3 : BitVec 2).toNat := by
  decide +kernel

/-- Operands of an engine command: S5, S6 and S7 to S9. -/
def oneE (a b c e n : W64) : State := setS one [(5, a), (6, b), (7, c), (8, e), (9, n)]

theorem witness_EngineCommandsIssue :
    (let s := oneE 0 0x100 0xFFFFFFFF 0 0
     readH s.g (15 : BitVec 4).toNat ≠ .pending ∧ (∀ cls < 4, counterOf s.g cls < 63) ∧
     readH (writeH s.g 15 .pending) (15 : BitVec 4).toNat = .pending ∧
     (readS s (7 : BitVec 6).toNat).toNat < 2 ^ 32 ∧
     (placeOf s (readS s (5 : BitVec 6).toNat) (readS s (7 : BitVec 6).toNat).toNat).isSome = true ∧
     (placeOf s (readS s (6 : BitVec 6).toNat) (readS s (7 : BitVec 6).toNat).toNat).isSome = true) ∧
    ((0x7FFF00 : W64).toNat % 256 = 0 ∧ (0x100 : W64).toNat % 256 = 0 ∧
      (0x7FFF00 : W64).toNat + (0x100 : W64).toNat ≤ 0x800000 ∧ vaOk 0x40 = true) ∧
    (let s := oneE 0 0x100 0x200 256 3
     gatherChecks s (readS s (5 : BitVec 6).toNat) (readS s (6 : BitVec 6).toNat) (readS s (7 : BitVec 6).toNat)
       (readS s ((7 : BitVec 6).toNat + 1)).toNat (readS s ((7 : BitVec 6).toNat + 2)).toNat = true) ∧
    ((63 : W64).toNat < 64 ∧ 0 < (65535 : W64).toNat ∧ (65535 : W64).toNat < 65536) ∧
    ((0x40 : W64).toNat % 64 = 0 ∧ vaOk 0x40 = true) ∧
    -- a full counter; operands that fail the checks
    63 ≤ counterOf (setG one (fun g => { g with counters := [(1, 63)] })).g 1 ∧
    2 ^ 32 ≤ (0x100000000 : W64).toNat ∧ placeOf one 0x80000000000000 0 = none ∧ (0x80 : W64).toNat % 256 ≠ 0 ∧
    0x800000 < (0x800000 : W64).toNat + (0x100 : W64).toNat ∧ vaOk 0x80000000000000 = false ∧
    gatherChecks one 0 0 0 3 1 = false ∧
    64 ≤ (64 : W64).toNat ∧ 65536 ≤ (65536 : W64).toNat ∧ (0x41 : W64).toNat % 64 ≠ 0 := by
  decide +kernel

/-- A group with handle H3 in a state and the count of class 1. -/
def oneH (v : HandleState) (n : Nat) : State := setG one (fun g => { writeH g 3 v with counters := mapSet 0 1 n g.counters })

theorem witness_EngineWaitsAndHandles :
    ((5 : BitVec 6).toNat < counterOf (oneH .free 6).g (1 : BitVec 2).toNat ∧
      counterOf (oneH .free 5).g (1 : BitVec 2).toNat ≤ (5 : BitVec 6).toNat ∧ (latchOf (oneH .free 5).g (1 : BitVec 2).toNat).1 = 0 ∧
      (latchOf (setG one (fun g => { g with latches := [(1, (0x04, 0x40))] })).g (1 : BitVec 2).toNat).1 ≠ 0) ∧
    readH (oneH .pending 0).g (3 : BitVec 4).toNat = .pending ∧ readH (oneH .free 0).g (3 : BitVec 4).toNat = .free ∧
    readH (oneH .done 0).g (3 : BitVec 4).toNat = .done ∧
    readH (oneH (.error 0x01 2 0) 0).g (3 : BitVec 4).toNat = .error 0x01 2 0 ∧
    ((0x02 : BitVec 8) ≠ 0x01 ∧ readH (oneH (.error 0x02 2 0) 0).g (3 : BitVec 4).toNat = .error 0x02 2 0) ∧
    (3 : BitVec 4) ≠ 4 ∧ (3 : BitVec 4) ≠ 0 ∧ (4 : BitVec 4) ≠ 0 ∧ readH (oneH .done 0).g (4 : BitVec 4).toNat ≠ .pending ∧
    (3 : BitVec 4) ≠ 2 ∧ readH (oneH .pending 0).g (3 : BitVec 4).toNat = .pending ∧ readH one.g (0 : BitVec 4).toNat ≠ .pending := by
  decide +kernel

/-- Bank 2 a FIFO of three slots, with a queue. -/
def oneFifo (slots : List SlotState) (queue : List Nat) : State :=
  setS (setC one (fun c => { c with banks := [(2, .fifo 1 0 slots queue)] })) [(5, 2), (6, 1), (7, 0x18)]

/-- The 64 bytes of an entry descriptor: its scalar entry is at 0x800, its groups take `regs` blocks. -/
def descBytes (kind regs : Nat) (priv : Bool) : List Byte :=
  leBytes 8 0x800 ++ leBytes 8 0 ++ leBytes 4 (regs * 8 + (if priv then 4 else 0) + kind) ++ List.replicate 44 0

/-- That descriptor as the machine reads it. -/
def descRead (kind regs : Nat) (priv : Bool) : Descriptor := ⟨0x800, 0, 0, 0, 1, 0, 0, regs, priv, kind, 32, 0, List.replicate 32 0⟩

/-- A bank switch: S5 holds the word, and bank 2 stands in a mode. -/
def oneBank (w : W64) (m : BankMode) : State := setS (setC one (fun c => { c with banks := if m = .cache then [] else [(2, m)] })) [(5, w)]

/-- The configuration word of BANKCFG for bank 2 with SLOT 8, or with neither SLOT nor ENTRY, and the fields it has. -/
theorem witness_BanksAndFifoSlots_switch :
    (∀ p ∈ [((0x442 : W64), 2, 8), (0x22, 1, 0), (0x02, 0, 0)],
      (p.1.extractLsb' 0 5).toNat = 2 ∧ (p.1.extractLsb' 5 2).toNat = p.2.1 ∧ (p.1.extractLsb' 7 8).toNat = p.2.2 ∧
      ((p.1.extractLsb' 15 49) ++ (0 : BitVec 6)).signExtend 64 = (0 : W64) ∧ readS (oneBank p.1 .cache) (5 : BitVec 8).toNat = p.1) ∧
    -- words that are invalid: BANK 24, MODE 3, SLOT 0 of a FIFO, SLOT of a scratchpad bank
    (24 ≤ ((0x18 : W64).extractLsb' 0 5).toNat ∧ ((0x62 : W64).extractLsb' 5 2).toNat = 3 ∧
      ((0x42 : W64).extractLsb' 7 8).toNat = 0 ∧ ((0x422 : W64).extractLsb' 7 8).toNat ≠ 0) ∧
    -- the modes from which a switch starts: a way beside another, the last one, a bank owned and not, a FIFO empty and not
    (bankOf (coreOf (oneBank 0x22 .cache) 0) 2 = .cache ∧ bankOf (coreOf (oneBank 0x22 .cache) 0) 3 = .cache) ∧
    (∀ k < 24, k ≠ 2 → bankOf (coreOf (setC one (fun c => { c with
      banks := (upto 24 (fun b => b != 2)).map (fun b => (b, .scratch 0)) })) 0) k ≠ .cache) ∧
    bankOf (coreOf (oneBank 0x02 (.scratch 7)) 0) 2 = .scratch 7 ∧ bankOf (coreOf (oneBank 0x02 (.scratch 0)) 0) 2 = .scratch 0 ∧
    (let s := oneBank 0x442 (.fifo 1 0 [.free false, .free true] [])
     bankOf (coreOf s 0) 2 = .fifo 1 0 [.free false, .free true] [] ∧
     (∀ x ∈ ([.free false, .free true] : List SlotState), x.isFree = true) ∧ (∀ p ∈ (coreOf s 0).qwait, p.2 ≠ 2) ∧
     engineOnBank s s.g.ctx s.g.core 2 = false ∧ s.g.core = 0) ∧
    -- a FIFO whose ENTRY is the grid descriptor at 0x400, of depth 32; at 0x440, one of a lane task
    (let s := setMem (setMem (oneBank 0x80442 .cache) 0x400 (descBytes 0 3 false)) 0x440 (descBytes 1 0 false)
     s.stores = [] ∧ s.props = [] ∧ lostDescriptor? s 0x400 = none ∧ lostDescriptor? s 0x440 = none ∧
     ((((0x80442 : W64).extractLsb' 15 49) ++ (0 : BitVec 6)).signExtend 64 : W64) = 0x400 ∧
     descriptorFor s s.g.ctx s.g.core 0x400 = some (descRead 0 3 false) ∧ (descRead 0 3 false).kind = 0 ∧
     (descRead 0 3 false).clustered = false ∧ descriptorFor s s.g.ctx s.g.core 0x440 = some (descRead 1 0 false) ∧
     (descRead 1 0 false).kind ≠ 0) := by
  refine ⟨by decide +kernel, by decide +kernel, by decide +kernel, by decide +kernel, by decide +kernel, by decide +kernel,
    by decide +kernel, by decide +kernel⟩

/-- Bank 2 a FIFO with the ENTRY at 0x400, of a grid or of a task, its slot 1 TAKEN; the group's frame is at 0x8000. -/
def oneConsumer (kind : Nat) : State :=
  let s := setC (setMem (setMem one 0x400 (descBytes kind 3 false)) 0x8010 (leBytes 4 1))
    (fun c => { c with banks := [(2, .fifo 8 0x400 [.queued, .taken] [0])] })
  setS (setG s (fun g => { g with gframe := 0x8000 })) [(5, 2), (6, 1)]

theorem witness_BanksAndFifoSlots :
    (24 ≤ ((readS (oneFifo [] []) (7 : BitVec 8).toNat).extractLsb' 0 5).toNat ∧
      24 ≤ (readS (oneFifo [] []) (7 : BitVec 8).toNat).toNat) ∧
    bankOf (coreOf one one.g.core) (readS one (5 : BitVec 8).toNat).toNat = .cache ∧
    (let s := oneFifo [.taken, .free false, .queued] [2]
     (readS s (5 : BitVec 8).toNat).toNat < 24 ∧ (coreOf s s.g.core).ctx = some s.g.ctx ∧
     bankOf (coreOf s s.g.core) (readS s (5 : BitVec 8).toNat).toNat = .fifo 1 0 [.taken, .free false, .queued] [2] ∧
     -- the first free slot is 1; slot 2 is at the head of the queue
     ([.taken, .free false, .queued] : List SlotState)[1]?.map SlotState.isFree = some true) ∧
    (let s := oneFifo [.taken, .taken] []
     bankOf (coreOf s s.g.core) 2 = .fifo 1 0 [.taken, .taken] [] ∧ (∀ x ∈ ([.taken, .taken] : List SlotState), x.isFree = false) ∧
     (readS s (6 : BitVec 8).toNat).toNat < 2 ∧ ([.taken, .taken] : List SlotState).getD 1 (.free false) = .taken ∧
     s.g.call = none ∧ s.stores = [] ∧ s.props = []) ∧
    -- another group that came before waits for a slot and for a queued one, or none does; a slot out of range, one FREE
    (∀ w ∈ [Wait.qclaim 2, .qpop 2], bankTaken (oneFifo [.taken] []) one.g 2 w = false ∧
      bankTaken { setC one (fun c => { c with banks := [(2, .fifo 1 0 [] [])], qwait := [(4, 2)] }) with
        groups := [(4, { oneGroup with gid := 4, wait := some w })] } one.g 2 w = true) ∧
    ([.taken] : List SlotState).length ≤ (readS (oneFifo [.taken] []) (6 : BitVec 8).toNat).toNat ∧
    ([.taken, .free false] : List SlotState).getD 1 (.free false) ≠ .taken ∧
    (([.taken, .free false] : List SlotState).getD 1 .taken).isFree = true := by
  refine ⟨by decide +kernel, by decide +kernel, by decide +kernel, by decide +kernel, by decide +kernel, by decide +kernel,
    by decide +kernel, by decide +kernel⟩

theorem witness_BanksAndFifoSlots_consumer : ∀ kind ∈ [0, 1], (let s := oneConsumer kind
    (coreOf s s.g.core).ctx = some s.g.ctx ∧ bankOf (coreOf s s.g.core) 2 = .fifo 8 0x400 [.queued, .taken] [0] ∧
    (readS s (5 : BitVec 8).toNat).toNat = 2 ∧ (readS s (6 : BitVec 8).toNat).toNat = 1 ∧ s.g.call = none ∧ s.stores = [] ∧
    s.props = [] ∧ s.g.poison = [] ∧ s.g.gframe ≠ 0 ∧
    descriptorFor s s.g.ctx s.g.core 0x400 = some (descRead kind 3 false)) ∧ (descRead 0 3 false).kind = 0 ∧
    (descRead 0 3 false).clustered = false ∧ (descRead 1 3 false).kind ≠ 0 := by
  decide +kernel

/-- A group that holds the frame at 0x8000, its children counted there, with a descriptor at 0x400. -/
def oneG (n join : Nat) : State :=
  setS (setG (setMem (setMem one 0x400 (descBytes 0 3 false)) 0x8010 (leBytes 4 join)) (fun g => { g with gframe := 0x8000 }))
    [(4, BitVec.ofNat 64 n), (5, 0x400), (6, 77)]

theorem witness_SpawnAwaitAndExit :
    ((readS (setS one [(5, 0x410)]) (5 : BitVec 8).toNat).toNat % 64 ≠ 0 ∧
      (readS one (5 : BitVec 8).toNat).toNat % 64 = 0 ∧
      readDescriptor (setMem one 0 [1, 0, 0, 0]) (readS one (5 : BitVec 8).toNat) = .ok none) ∧
    ((readS (oneG 2 1) (5 : BitVec 8).toNat).toNat % 64 = 0 ∧
      readDescriptor (oneG 2 1) (readS (oneG 2 1) (5 : BitVec 8).toNat) = .ok (some (descRead 0 3 false)) ∧
      (oneG 2 1).g.call = none ∧ (oneG 2 1).stores = [] ∧ (oneG 2 1).props = [] ∧
      (readS (oneG 0 1) (4 : BitVec 8).toNat).toNat % 2 ^ 32 = 0 ∧ 0 < (readS (oneG 2 1) (4 : BitVec 8).toNat).toNat % 2 ^ 32 ∧
      (oneG 2 1).g.gframe ≠ 0 ∧ (oneG 2 1).g.poison = [] ∧ lostDescriptor? (oneG 2 1) 0x400 = none) ∧
    frameJoin (oneG 2 1) (oneG 2 1).g.ctx (oneG 2 1).g.gframe ≠ 0 ∧ frameJoin (oneG 2 0) 0 (oneG 2 0).g.gframe = 0 ∧
    one.g.gframe = 0 ∧ (coreOf one one.g.core).stamp ≠ 255 ∧ (oneH .free 1).g.counters ≠ [] ∧ one.g.counters = [] :=
  ⟨⟨by decide +kernel, by decide +kernel, ok_of (by decide +kernel)⟩,
    ⟨by decide +kernel, ok_of (by decide +kernel), by decide +kernel⟩, by decide +kernel⟩

/-- A group that spawns `n` tasks of the descriptor at 0x400 with an argument base, in a deterministic context or not; the
core's first bin holds records of the descriptor, or none does. -/
def oneSpawns (n base : Nat) (det : Bool) (held : Nat) : State :=
  let r : TaskRecord := { TaskRecord.zero with entry := 0x400 }
  let b : Bin := if held = 0 then Bin.none else ⟨0x400, List.replicate held r, 0, false, 0⟩
  let s := setX (setC (setMem (oneG n 1) 0x400 (descBytes 1 0 false)) (fun c => { c with bins := b :: List.replicate 15 Bin.none }))
    (fun c => { c with det := det })
  setS s [(6, BitVec.ofNat 64 base)]

theorem witness_SpawnAwaitAndExit_tasks :
    (∀ det : Bool, (let s := oneSpawns 2 0 det 0
      readDescriptor s (readS s (5 : BitVec 8).toNat) = .ok (some (descRead 1 0 false)) ∧ (descRead 1 0 false).kind = 1 ∧
      s.g.call = none ∧ s.stores = [] ∧ s.props = [] ∧ s.g.poison = [] ∧ lostDescriptor? s 0x400 = none ∧ s.g.gframe ≠ 0 ∧
      readS s (6 : BitVec 8).toNat = 0 ∧ (readS s (4 : BitVec 8).toNat).toNat % 2 ^ 32 = 2 ∧ (ctxOf s s.g.ctx).det = det)) ∧
    (readS (oneSpawns 2 0x1002 false 0) (6 : BitVec 8).toNat).toNat % 4 ≠ 0 ∧
    -- a bin that takes the records, and none that does
    (let s := oneSpawns 2 0 false 29
     ((coreOf s s.g.core).bins[0]?.map (·.records.length)) = some 29 ∧ 29 + 2 < 32 ∧
     ((coreOf s s.g.core).bins.getD 0 Bin.none).key = 0x400 ∧ ((coreOf s s.g.core).bins.getD 0 Bin.none).ctx = s.g.ctx) ∧
    (∀ e ∈ (coreOf (oneSpawns 2 0 false 0) 0).bins, e.records = []) ∧
    -- a pool whose frames are all used, and one whose second frame is free, in a group without a frame
    (let full := setX one (fun c => { c with frames := 1, used := [0] })
     let free := setX one (fun c => { c with frames := 2, used := [0] })
     full.g.gframe = 0 ∧ (∀ k, k < (ctxOf full full.g.ctx).frames → k ∈ (ctxOf full full.g.ctx).used) ∧
     1 < (ctxOf free free.g.ctx).frames ∧ 1 ∉ (ctxOf free free.g.ctx).used ∧ ∀ j, j < 1 → j ∈ (ctxOf free free.g.ctx).used) := by
  refine ⟨fun det => ?_, by decide +kernel, by decide +kernel, by decide +kernel, by decide +kernel⟩
  cases det <;> exact ⟨ok_of (by decide +kernel), by decide +kernel⟩

/-- A group at a trap depth, with its trap state saved. -/
def oneTrapped (depth : Nat) (lane : Bool) : State :=
  setG one (fun g => { g with
    depth := depth
    saves := [⟨0x9000, 0x0B, 0, oneL.g.call, List.replicate 8 { Split.none with mask := 1, state := .ready }, [], none, 0x100, false, 0,
      none, lane, 0xFFFFFFFF⟩] })

theorem witness_TrapInstructionsAndEret :
    one.g.depth = 0 ∧ (∀ lane : Bool, (let s := oneTrapped 2 lane
      s.g.depth ≠ 0 ∧ s.g.saves.length = 1 ∧ s.g.call = none ∧ s.stores = [] ∧ s.props = [] ∧
      ∀ v ∈ s.g.saves, v.lane = lane ∧ v.entry < v.splits.length)) := by
  decide +kernel

/-- A context with a trap handler, whose descriptor lies at 0x400. -/
def oneVec : State := setX (setMem one 0x400 (descBytes 2 0 true)) (fun c => { c with trapvec := 0x400 })

theorem witness_TakingATrapEntersTheHandler :
    ((ctxOf oneVec oneVec.g.ctx).trapvec ≠ 0 ∧ handlerOf oneVec = some (descRead 2 0 true) ∧
      (setG oneVec (fun g => { g with depth := 1 })).g.depth < 2 ∧ oneVec.stores = [] ∧ oneVec.g.landings = []) ∧
    (ctxOf one one.g.ctx).trapvec = 0 ∧ handlerOf (setX one (fun c => { c with trapvec := 0x400 })) = none ∧
    2 ≤ (oneTrapped 2 false).g.depth := by
  decide +kernel

theorem witness_SystemControl :
    one.g.priv = false ∧ (setG one (fun g => { g with priv := true })).g.priv = true ∧ one.stores = [] ∧
    (readS one (6 : BitVec 8).toNat).toNat = 0 ∧
    -- a range of 256 bytes at 0x80, which names two lines of the page, and stays below the limit
    (let s := setS one [(5, 0x80), (6, 256)]
     0 < (readS s (6 : BitVec 8).toNat).toNat ∧ walk s (ctxOf s s.g.ctx) 0x80 = .ok ⟨0, 0, 65536, 0x4008F⟩ ∧
     (0x80 + 256 - 1) / 128 - 0x80 / 128 ≤ 65536) ∧
    ¬((0x1000000 + 256 - 1) / 128 - 0x80 / 128 ≤ 65536) := by
  refine ⟨by decide +kernel, by decide +kernel, by decide +kernel, by decide +kernel,
    ⟨by decide +kernel, ok_of (by decide +kernel), by decide +kernel⟩, by decide⟩

/-! ### Premises met: lane arithmetic -/

/-- A lane call's view of scalar registers set, and the split's lanes. -/
def lane (m : W32) (l : List (Nat × W64)) : State :=
  let s := setMask (setS oneL l) m
  setG s (fun g => { g with call := g.call.map (fun c => { c with snap := g.sregs }) })
/-- A lane word with V5 as destination and V6 to V8 as sources. -/
def fw (mod : BitVec 5) : LaneWord := ⟨.f82, 0, 0, mod, 5, 6, 7, 8, 0⟩
/-- The same with a predicate K1 that is empty. -/
def fk (mod : BitVec 5) : LaneWord := { fw mod with pred := 1 }
/-- V6 to V8 with a tag. -/
def tagged (t : BitVec 4) : State := setV (setV (setV oneL 6 t 5) 7 t 6) 8 t 7

theorem witness_LaneResultsReachActiveLanesOnly :
    (fw 0).d.toNat < 512 ∧ 1024 ≤ ({ fw 0 with d := 0x7FF } : LaneWord).d.toNat ∧ oneL.g.call.isSome = true ∧
    oneL.ent < oneL.g.splits.length := by
  decide +kernel

theorem witness_LaneIntegerArithmeticResults : QuietSplit (tagged 1) ∧
    CanIssue (tagged 1) (activeLanes (tagged 1) (fw 2).pred) [src 0 (fw 2).a (.only [1, 2, 10]), src 1 (fw 2).b (.only [1, 2, 10])] [dst (fw 2).d 1] ∧
    CanIssue (tagged 1) (activeLanes (tagged 1) (fk 1).pred) [src 0 (fw 1).a (.only [1, 2]), src 1 (fw 1).b (.only [1, 2])] [dst (fw 1).d 1] ∧
    CanIssue (tagged 1) (activeLanes (tagged 1) (fw 0).pred)
      [src 0 (fw 0).a (.only [1, 2]), src 1 (fw 0).b (.only [1, 2]), src 2 (fw 0).c (.only [1, 2])] [dst (fw 0).d 1] :=
  ⟨quiet_of (by decide +kernel), canIssue_of (by decide +kernel), canIssue_of (by decide +kernel), canIssue_of (by decide +kernel)⟩

theorem witness_LaneLogicShiftMinMaxResults : QuietSplit (tagged 2) ∧
    CanIssue (tagged 2) (activeLanes (tagged 2) (fw 0).pred) [src 0 (fw 0).a .any, src 1 (fw 0).b .any] [dst (fw 0).d 1] ∧
    CanIssue (tagged 2) (activeLanes (tagged 2) (fw 0).pred) [src 0 (fw 0).a (.only [1, 2]), src 1 (fw 0).b (.only [1, 2])] [dst (fw 0).d 1] :=
  ⟨quiet_of (by decide +kernel), canIssue_of (by decide +kernel), canIssue_of (by decide +kernel)⟩

theorem witness_LaneBitFieldSelectMoveResults : QuietSplit oneL ∧
    CanIssue oneL (activeLanes oneL (fw 9).pred) [src 0 (fw 9).a .any] [dst (fw 9).d 1] ∧
    CanIssue oneL (activeLanes oneL (fw 9).pred) [src 0 (fw 9).a .any, src 1 (fw 9).b .any] [dst (fw 9).d 1] ∧
    CanIssue oneL (activeLanes oneL (fw 0).pred) [src 0 (fw 0).a .any, src 2 (fw 0).c .any] [dst (fw 0).d 1] ∧
    CanIssue oneL (activeLanes oneL (fw 0).pred) [src 0 (fw 0).a .any, src 1 (fw 0).b .any, src 2 (fw 0).c .any] [dst (fw 0).d 1] ∧
    CanIssue oneL (activeLanes oneL (fw 0).pred) [] [dst (fw 0).d 1] :=
  ⟨quiet_of (by decide +kernel), canIssue_of (by decide +kernel), canIssue_of (by decide +kernel), canIssue_of (by decide +kernel),
    canIssue_of (by decide +kernel), canIssue_of (by decide +kernel)⟩

theorem witness_LaneFloatResults :
    -- each tag that some instruction of the statement takes, on up to three operands, with either type bit
    ∀ p ∈ [((1 : BitVec 4), 3, (0 : BitVec 5)), (2, 3, 1), (3, 1, 0), (3, 2, 0), (3, 3, 0), (4, 2, 0), (4, 3, 0), (5, 2, 1),
        (5, 3, 1), (6, 2, 0), (7, 2, 1)],
      QuietSplit (tagged p.1) ∧ CanIssue (tagged p.1) (activeLanes (tagged p.1) (fw p.2.2).pred) (([src 0 (fw p.2.2).a (.only [p.1]),
        src 1 (fw p.2.2).b (.only [p.1]), src 2 (fw p.2.2).c (.only [p.1])] : List Opnd).take p.2.1) [dst (fw p.2.2).d 1] :=
  all_of (f := fun p => quietB (tagged p.1) && canIssueB (tagged p.1) (activeLanes (tagged p.1) (fw p.2.2).pred)
    (([src 0 (fw p.2.2).a (.only [p.1]), src 1 (fw p.2.2).b (.only [p.1]), src 2 (fw p.2.2).c (.only [p.1])] : List Opnd).take p.2.1)
    [dst (fw p.2.2).d 1]) (by decide +kernel)
    (fun _ h => ⟨quiet_of (Bool.and_eq_true _ _ ▸ h).1, canIssue_of (Bool.and_eq_true _ _ ▸ h).2⟩)

theorem witness_LaneFloatResults_mixed :
    CanIssue oneL (activeLanes oneL (fw 0).pred) [src 0 (fw 0).a (.only [7]), src 1 (fw 0).b (.only [7]), src 2 (fw 0).c (.only [3])]
      [dst (fw 0).d 1] ∧
    CanIssue oneL (activeLanes oneL (fw 0).pred) [src 0 (fw 0).a .any, src 1 (fw 0).b .any, src 2 (fw 0).c .any] [dst (fw 0).d 1] ∧
    CanIssue (tagged 3) (activeLanes oneL (fw 10).pred) [src 0 (fw 10).a (.only [cvtTag 2])] [dst (fw 10).d 1] :=
  ⟨canIssue_of (by decide +kernel), canIssue_of (by decide +kernel), canIssue_of (by decide +kernel)⟩

theorem witness_FloatNansClassesAndSpecialInputs :
    0x7F800000 < (0x7F800001 : W32).toNat % 2 ^ 31 ∧ ¬0x7F800000 < (0x7F800000 : W32).toNat % 2 ^ 31 ∧
    ((0x80800000 : W32).getLsbD 31 = true ∧ 0x00800000 ≤ (0x80800000 : W32).toNat % 2 ^ 31) ∧
    (0xFF7FFFFF : W32).getLsbD 31 = true ∧ (0xFF7FFFFF : W32).toNat % 2 ^ 31 < 0x7F800000 := by
  decide +kernel

/-- The data of a block at V504 to V511, its scale beside. -/
def fb : LaneWord := ⟨.f80, 0, 0, 0, 504, 6, 96, 0, 0⟩

theorem witness_BlockQuantisationResults : (let s := setG oneL (fun g => { g with blocks := 3 })
    QuietSplit s ∧ fb.d.toNat + 8 ≤ 512 ∧ fb.b.toNat < 512 ∧ fb.b ≠ fb.d ∧
    CanIssue s (activeLanes s fb.pred) [srcs 0 fb.a 8 (.only [3])] [dst fb.d 1, dst fb.b 1] ∧
    CanIssue s (activeLanes s fb.pred) [src 0 fb.a (.only [8]), src 1 fb.b (.only [9])] [dst fb.d 8]) :=
  ⟨quiet_of (by decide +kernel), by decide, by decide, by decide, canIssue_of (by decide +kernel), canIssue_of (by decide +kernel)⟩

theorem witness_LaneExchangeAndVoteResults : QuietSplit oneL ∧
    CanIssue oneL (activeLanes oneL (fw 0).pred) [src 0 (fw 0).a .any, src 1 (fw 0).b .any] [dst (fw 0).d 1] ∧
    CanIssue oneL (activeLanes oneL (fw 3).pred) [src 0 (fw 3).a .any] [dst (fw 3).d 1] ∧
    (fw 0).d.toNat < 512 ∧ ([0, 1, 2, 3].map (fun m => (fw m).mod)) = [0, 1, 2, 3] ∧ 0 < callTilew oneL.g :=
  ⟨quiet_of (by decide +kernel), canIssue_of (by decide +kernel), canIssue_of (by decide +kernel), by decide +kernel⟩

theorem witness_LaneReductionResults :
    (∀ m ∈ [(0 : BitVec 5), 1, 10, 16], ((fw m).mod.getLsbD 4 = false ∨ m = 16) ∧
      CanIssue oneL (activeLanes oneL (fw m).pred) [src 0 (fw m).a (reduceAccept ((fw m).mod.extractLsb' 0 4).toNat)] [dst (fw m).d 1]) ∧
    QuietSplit oneL ∧ CanIssue oneL (activeLanes oneL (fw 0).pred) [src 0 (fw 0).a (.only [3]), src 1 (fw 0).b .any] [dst (fw 0).d 1] :=
  ⟨all_of (f := fun m => (!(fw m).mod.getLsbD 4 || m == 16) && canIssueB oneL (activeLanes oneL (fw m).pred)
      [src 0 (fw m).a (reduceAccept ((fw m).mod.extractLsb' 0 4).toNat)] [dst (fw m).d 1]) (by decide +kernel)
      (fun _ h => by
        obtain ⟨h1, h2⟩ := Bool.and_eq_true _ _ ▸ h
        exact ⟨by simpa using h1, canIssue_of h2⟩),
    quiet_of (by decide +kernel), canIssue_of (by decide +kernel)⟩

theorem witness_TreesAndPrefixesAdd : (List.replicate 32 (some (1 : W32))).length ≤ 32 ∧ 31 < (List.replicate 32 (some (1 : W32))).length := by
  decide

theorem witness_MaskRegisterResults : QuietSplit oneL ∧ CanIssue oneL (activeLanes oneL 0) [] [dst (fw 0).d 1] ∧
    CanIssue oneL (activeLanes oneL 0) [src 0 (fw 0).a .any] [] :=
  ⟨quiet_of (by decide +kernel), canIssue_of (by decide +kernel), canIssue_of (by decide +kernel)⟩

/-! ### Premises met: lane memory, counters, control flow -/

/-- A V register's lanes set one by one. -/
def setL (s : State) (r : Nat) (t : BitVec 4) (vals : List (Nat × W32)) : State := { s with g := writeReg s.g r t vals }
/-- A global operand: base S5, index V7, data V8. -/
def fm (mod : BitVec 5) (imm : BitVec 31) : LaneWord := ⟨.f82, 0, 0, mod, 5, 0x405, 7, 8, imm⟩
/-- Two lanes that reach the last two words of the page. -/
def oneM : State := setL (lane 3 [(5, 0xFFF0)]) 7 2 [(0, 0), (1, 4)]

/-- Premises of plain accesses in each active lane. -/
def plainLanesB (s : State) (f : LaneWord) (need : Need) (a : Nat → Access) : Bool :=
  (lanesOf (activeLanes s f.pred)).all (fun l => plainB s [0] need 4 (laneEa s f l) (a l))

theorem plainLanes_of {s : State} {f : LaneWord} {need : Need} {a : Nat → Access} (h : plainLanesB s f need a = true) :
    ∀ l ∈ lanesOf (activeLanes s f.pred), PlainAccess s [0] need 4 (laneEa s f l) (a l) :=
  all_of h (fun _ hl => plain_of hl)

theorem witness_LaneLoadsStoresAndPrefetches : (let f := fm 3 8
    let a (l : Nat) : Access := at0 (0xFFF8 + 4 * l)
    QuietSplit oneM ∧ CanIssue oneM (activeLanes oneM f.pred) [baseOpnd f.a, src 1 f.b acceptAddr] [dst f.d 1] ∧
    CanIssue oneM (activeLanes oneM f.pred) ([baseOpnd f.a, src 1 f.b acceptAddr] ++ [src 2 f.c .any]) [] ∧
    (∀ l ∈ lanesOf (activeLanes oneM f.pred), PlainAccess oneM [0] .read 4 (laneEa oneM f l) (a l)) ∧
    (∀ l ∈ lanesOf (activeLanes oneM f.pred), PlainAccess oneM [0] .write 4 (laneEa oneM f l) (a l)) ∧
    f.mod.getLsbD 4 = false ∧ activeLanes oneM f.pred ≠ 0 ∧ activeLanes oneM 1 = 0 ∧ ordStr oneM oneM.g.ctx = false ∧
    oneM.g.unacked < 255 ∧ oneM.stores = [] ∧ oneM.props = [] ∧ oneM.poison = [] ∧ oneM.copies = [] ∧
    (lanesOf (activeLanes oneM f.pred)).getLast? = some 1 ∧ cacheWays (coreOf oneM oneM.g.core) ≠ [] ∧
    usesL1 oneM oneM.g.ctx (a 1) = true) :=
  ⟨quiet_of (by decide +kernel), canIssue_of (by decide +kernel), canIssue_of (by decide +kernel),
    plainLanes_of (by decide +kernel), plainLanes_of (by decide +kernel), by decide +kernel⟩

theorem witness_LaneLoadsStoresAndPrefetches_prefetch :
    checkAccess oneM oneM.g.ctx oneM.g.core [0] .read 4 (laneEa oneM (fm 0 8) 1) = .ok (at0 0xFFFC) :=
  ok_of (by decide +kernel)

/-- The page checked for conflicts in a deterministic context, the entry of the sector at 0x100 given. -/
def oneChk (e : Shadow) : State :=
  setX (setPage (setL (setL (lane 1 [(5, 0x100)]) 7 2 []) 8 2 [(0, 7)]) 0x1000000004008F)
    (fun c => { c with det := true, shadow := [(0x40100 / 32, e.bytes)] })
/-- That sector's word at 0x100. -/
def atChk : Access := ⟨0x100, 0x40100, 0x1000000004008F⟩
/-- The stamp of the group, of its neighbour team, of its neighbour group, and of another grid. -/
def stampOf (g t : W32) (p : BitVec 5) : AccessStamp := ⟨g, t, p, 0⟩
/-- An entry with a write, and readers in both slots. -/
def entryOf (wop : BitVec 4) (w : Option AccessStamp) (a b : Option AccessStamp) (full : Bool) : Shadow :=
  let slot (r : Option AccessStamp) : ReaderSlot := match r with | some x => ⟨true, false, false, x⟩ | none => .zero
  ⟨w.isSome, false, wop, w.getD .zero, slot a, slot b, full⟩

/-- An outcome of conflict detection: its subcode, or the entry recorded. -/
def outcomeB (e : Shadow) (use : Use) : Sum (BitVec 8) Shadow :=
  match conflictCheck (oneChk e) atChk use with
  | .error f => .inl f.sub
  | .ok t => .inr (parseShadow (mapGet clearedEntry (0x40100 / 32) (ctxOf t 0).shadow))

theorem witness_CheckedAccessesConflictOrRecord :
    (let x := stampOf 1 0 0
     let team := stampOf 1 1 0
     let other := stampOf 9 0 0
     -- the group's own stamp; no grid is a child of another
     myStamp (oneChk (entryOf 0 none none none false)) = x ∧ (oneChk (entryOf 0 none none none false)).grids.all (fun d => d.pg == 0) ∧
     sectorOf (oneChk (entryOf 0 none none none false)) atChk = 0x40100 / 32 ∧
     (ctxOf (oneChk (entryOf 0 none none none false)) 0).det = true ∧ pteChk atChk.pte = true ∧ (ctxOf one one.g.ctx).det = false ∧
     -- what each access does to an entry written by another team, read by another team in either slot, or full; and to one
     -- whose slots are free, the grid's own, or other grids' (worked by hand from R318)
     outcomeB (entryOf 0 (some team) none none false) .read = .inl 0 ∧ outcomeB (entryOf 1 (some team) none none false) (.write 2) = .inl 0 ∧
     outcomeB (entryOf 1 (some team) none none false) (.write 1) = .inr { entryOf 1 (some x) none none false with wxteam := true } ∧
     outcomeB (entryOf 0 none (some team) none false) (.write 0) = .inl 1 ∧ outcomeB (entryOf 0 none none (some team) false) .both = .inl 1 ∧
     outcomeB (entryOf 0 none none none true) (.write 0) = .inl 2 ∧
     outcomeB (entryOf 0 none (some other) (some (stampOf 8 0 0)) false) .both = .inl 2 ∧
     outcomeB (entryOf 0 none none none false) .both = .inr (entryOf 0 (some x) none none false) ∧
     outcomeB (entryOf 0 none (some other) none false) .read = .inr (entryOf 0 none (some other) (some x) false) ∧
     outcomeB (entryOf 0 none (some team) none false) .read =
       .inr { entryOf 0 none none none false with a := ⟨true, true, false, team⟩ } ∧
     outcomeB (entryOf 0 none (some other) (some team) false) .read =
       .inr { entryOf 0 none (some other) none false with b := ⟨true, true, false, team⟩ } ∧
     outcomeB (entryOf 0 none (some other) (some (stampOf 8 0 0)) false) .read =
       .inr (entryOf 0 none (some other) (some (stampOf 8 0 0)) true)) ∧
    -- the accesses of the instructions, with an entry in their way and without
    (let s := oneChk (entryOf 0 (some (stampOf 1 1 0)) none none false)
     let f := fm 3 0
     checkAccess s s.g.ctx s.g.core [0] .write 8 (readS s (5 : BitVec 8).toNat + (0 : BitVec 10).signExtend 64 * 8) = .ok atChk ∧
     checkAccess s s.g.ctx s.g.core [0] .read 8 (readS s (5 : BitVec 8).toNat + (0 : BitVec 10).signExtend 64 * 8) = .ok atChk ∧
     checkAccess s s.g.ctx s.g.core [0] .write 4 (laneEa s f 0) = .ok atChk ∧
     checkAccess s s.g.ctx s.g.core [0] .read 4 (laneEa s f 0) = .ok atChk ∧
     QuietSplit s ∧ lanesOf (activeLanes s f.pred) = [0] ∧
     CanIssue s (activeLanes s f.pred) [baseOpnd f.a, src 1 f.b acceptAddr] [dst f.d 1] ∧
     CanIssue s (activeLanes s f.pred) ([baseOpnd f.a, src 1 f.b acceptAddr] ++ [src 2 f.c .any]) []) ∧
    ∀ use ∈ [Use.read, .write 0], (match conflictCheck (oneChk (entryOf 0 none none none false)) atChk use with
      | .error _ => false
      | .ok t => atChk.pa % 8 == 0 && !atChk.peer && !isCxl atChk.pa && Sys2Proof.Machine.oneCopy t t.g.ctx atChk && t.stores.isEmpty &&
          t.props.isEmpty && t.poison.isEmpty && t.g.poison.isEmpty && (lineOf (coreOf t t.g.core) atChk.pa).isNone &&
          !ordStr t t.g.ctx && decide (t.g.unacked < 255)) = true := by
  refine ⟨?_, ⟨ok_of (by decide +kernel), ok_of (by decide +kernel), ok_of (by decide +kernel), ok_of (by decide +kernel),
    quiet_of (by decide +kernel), by decide +kernel, canIssue_of (by decide +kernel), canIssue_of (by decide +kernel)⟩, by decide +kernel⟩
  refine ⟨by decide +kernel, by decide +kernel, by decide +kernel, by decide +kernel, by decide +kernel, by decide +kernel,
    by decide +kernel, by decide +kernel, by decide +kernel, by decide +kernel, by decide +kernel, by decide +kernel,
    by decide +kernel, by decide +kernel, by decide +kernel, by decide +kernel, by decide +kernel, by decide +kernel⟩

theorem witness_LaneAtomicResults :
    (∀ m ∈ [(0 : BitVec 5), 9, 10], atomOp (fm m 8) ≤ 10 ∧
      CanIssue oneM (activeLanes oneM (fm m 8).pred) ([baseOpnd (fm m 8).a, src 1 (fm m 8).b acceptAddr] ++ atomReads (fm m 8))
        [dst (fm m 8).d 1] ∧
      CanIssue oneM (activeLanes oneM (fm m 8).pred)
        ([baseOpnd (fm m 8).a, src 1 (fm m 8).b acceptAddr] ++ [src 2 (fm m 8).c (atomAccept (atomOp (fm m 8)))]) []) ∧
    QuietSplit oneM ∧
    ∀ l ∈ lanesOf (activeLanes oneM (fm 10 8).pred), PlainAccess oneM [0] .write 4 (laneEa oneM (fm 10 8) l) (at0 (0xFFF8 + 4 * l)) :=
  ⟨all_of (f := fun m => decide (atomOp (fm m 8) ≤ 10) && (canIssueB oneM (activeLanes oneM (fm m 8).pred)
        ([baseOpnd (fm m 8).a, src 1 (fm m 8).b acceptAddr] ++ atomReads (fm m 8)) [dst (fm m 8).d 1] &&
      canIssueB oneM (activeLanes oneM (fm m 8).pred)
        ([baseOpnd (fm m 8).a, src 1 (fm m 8).b acceptAddr] ++ [src 2 (fm m 8).c (atomAccept (atomOp (fm m 8)))]) []))
      (by decide +kernel) (fun _ h => by
        rw [Bool.and_eq_true, Bool.and_eq_true] at h
        exact ⟨of_decide_eq_true h.1, canIssue_of h.2.1, canIssue_of h.2.2⟩),
    quiet_of (by decide +kernel), plainLanes_of (by decide +kernel)⟩

/-- A team with one scratchpad bank, its lanes at the bank's last two words. -/
def onePad : State :=
  let s := setL (lane 3 [(5, 0x1FFF0)]) 7 2 [(0, 0), (1, 4)]
  { s with grids := [{ oneGrid with desc := { oneDescriptor with scratch := 1 } }], teams := [{ oneTeam with banks := [20] }] }

theorem witness_ScratchpadResults : (let f := fm 0 8
    QuietSplit onePad ∧ (ctxOf onePad onePad.g.ctx).spchk = false ∧
    CanIssue onePad (activeLanes onePad f.pred) [src 0 f.a acceptAddr, src 1 f.b acceptAddr] [dst f.d 1] ∧
    CanIssue onePad (activeLanes onePad f.pred) ([src 0 f.a acceptAddr, src 1 f.b acceptAddr] ++ [src 2 f.c .any]) [] ∧
    CanIssue onePad (activeLanes onePad f.pred) ([src 0 f.a acceptAddr, src 1 f.b acceptAddr] ++ atomReads f) [dst f.d 1] ∧
    ∀ l ∈ lanesOf (activeLanes onePad f.pred), spadPlace onePad f (spadOffset onePad f l) 4 4 = .ok (0, 20, 0x1FFF8 + 4 * l)) :=
  ⟨quiet_of (by decide +kernel), by decide +kernel, canIssue_of (by decide +kernel), canIssue_of (by decide +kernel),
    canIssue_of (by decide +kernel), all_of (f := fun l =>
      okB (spadPlace onePad (fm 0 8) (spadOffset onePad (fm 0 8) l) 4 4) (0, 20, 0x1FFF8 + 4 * l)) (by decide +kernel) (fun _ h => ok_of h)⟩

/-- VCOPY of V10, V11 from V12, V13, V14 bytes: lane 0 copies `n` bytes from 0x1008 to 0x203C. -/
def fv : LaneWord := ⟨.f82, 0, 0, 0, 0, 10, 12, 14, 0⟩
def oneCopy (n : W32) : State := setL (setL (setL (lane 1 []) 10 10 [(0, 0x203C)]) 12 10 [(0, 0x1008)]) 14 2 [(0, n)]

theorem witness_CopyMovesALine : (let s := oneCopy 9
    QuietSplit s ∧ CanIssue s (activeLanes s fv.pred) [srcs 0 fv.a 2 acceptAddr, srcs 1 fv.b 2 acceptAddr, src 2 fv.c .any] [] ∧
    fv.a.toNat < 511 ∧ fv.b.toNat < 511 ∧ fv.c.toNat < 512 ∧
    [fv.a.toNat, fv.a.toNat + 1, fv.b.toNat, fv.b.toNat + 1, fv.c.toNat].Nodup ∧
    (lanesOf (activeLanes s fv.pred)).filter (fun l => readOpnd s fv.c.toNat l != 0) = [0] ∧ s.stores = [] ∧ s.poison = [] ∧
    ((curSplit s).flags = 0 ∧ ordStr s s.g.ctx = false ∧ s.g.unacked < 255) ∧
    runCheck s .read (readV s.g 13 0 ++ readV s.g 12 0) 4 = .ok [at0 0x1008] ∧
    runCheck s .write (readV s.g 11 0 ++ readV s.g 10 0) 4 = .ok [at0 0x203C] ∧
    min (readV s.g 14 0).toNat (64 - (readV s.g 11 0 ++ readV s.g 10 0 : W64).toNat % 64) = 4 ∧
    (∀ x ∈ [at0 0x1008, at0 0x203C], x.peer = false ∧ Sys2Proof.Machine.oneCopy s s.g.ctx x = true ∧ isChecked s x = false ∧
      lineOf (coreOf s s.g.core) x.pa = none) ∧ (at0 0x1008).pa / 64 ≠ (at0 0x203C).pa / 64 ∧
    (lanesOf (activeLanes (oneCopy 0) fv.pred)).filter (fun l => readOpnd (oneCopy 0) fv.c.toNat l != 0) = []) :=
  ⟨quiet_of (by decide +kernel), canIssue_of (by decide +kernel), by decide +kernel, by decide +kernel, by decide +kernel,
    by decide +kernel, by decide +kernel, by decide +kernel, by decide +kernel, by decide +kernel,
    ok_of (by decide +kernel), ok_of (by decide +kernel), by decide +kernel⟩

/-- VDEC at base S12 of lane 0, whose offset is V6 and end V7. -/
def fd (imm : BitVec 31) : LaneWord := ⟨.f82, 0, 0, 0, 40, 0x40C, 6, 7, imm⟩
def oneDec (b c : W32) : State := setMem (setL (setL (lane 1 [(12, 0x1000)]) 6 2 [(0, b)]) 7 2 [(0, c)]) 0x1000 [0xE5, 0x8E, 0x26]

theorem witness_FieldDecodingResults :
    (QuietSplit (oneDec 3 11) ∧ CanIssue (oneDec 3 11) (activeLanes (oneDec 3 11) (fd 0).pred)
        [src 0 (fd 0).a .any, src 1 (fd 0).b .any, src 2 (fd 0).c .any] [dst (fd 0).d 2] ∧
      vaOk (laneReadS (oneDec 3 11) ((fd 0).a.toNat - 0x400)) = true ∧ 0x400 ≤ (fd 0).a.toNat) ∧
    -- fixed fields of 8 bits: one that ends at the end, in two bytes, and one that overruns it; a LEB128 field
    (¬(readOpnd (oneDec 3 11) 7 0).toNat < (readOpnd (oneDec 3 11) 6 0).toNat + 8 ∧
      (readOpnd (oneDec 3 10) 7 0).toNat < (readOpnd (oneDec 3 10) 6 0).toNat + 8) ∧
    (∀ i ∈ [0, 1, 2], PlainAccess (oneDec 3 11) [0] .read 1 (0x1000 + BitVec.ofNat 64 i) (at0 (0x1000 + i))) ∧
    ((readOpnd (oneDec 0 24) 6 0).toNat % 8 = 0 ∧ 8 * (0 + 2 + 1) ≤ (readOpnd (oneDec 0 24) 7 0).toNat ∧
      (∀ i ∈ [0, 1], 128 ≤ (readByte (oneDec 0 24) (at0 (0x1000 + i)).pa).toNat) ∧
      (readByte (oneDec 0 24) (at0 (0x1000 + 2)).pa).toNat < 128 ∧ (readOpnd (oneDec 3 24) 6 0).toNat % 8 ≠ 0) ∧
    -- a LEB128 field whose third byte would end past the end, and one of five bytes that all go on
    ((readOpnd (oneDec 0 23) 7 0).toNat < 8 * (0 + 2 + 1) ∧ 8 * (0 + 1 + 1) ≤ (readOpnd (oneDec 0 23) 7 0).toNat) ∧
    (let s := setMem (oneDec 0 40) 0x1000 [0x80, 0x80, 0x80, 0x80, 0x80]
     ∀ i ∈ [0, 1, 2, 3, 4], 8 * (0 + i + 1) ≤ (readOpnd s 7 0).toNat ∧ 128 ≤ (readByte s (at0 (0x1000 + i)).pa).toNat) :=
  ⟨⟨quiet_of (by decide +kernel), canIssue_of (by decide +kernel), by decide +kernel⟩, by decide +kernel,
    all_of (f := fun i => plainB (oneDec 3 11) [0] .read 1 (0x1000 + BitVec.ofNat 64 i) (at0 (0x1000 + i))) (by decide +kernel)
      (fun _ h => plain_of h), by decide +kernel, by decide +kernel, by decide +kernel⟩

/-- The one page of counters of a class, with the first line's record, in lane 0: index V7, data V8. -/
def oneCru (cls : Nat) (i : W32) : State :=
  { setPage (setL (setL (lane 1 [(5, 0)]) 7 2 [(0, i)]) 8 2 [(0, i)]) (0x4008F + BitVec.ofNat 64 (cls * 0x800)) with
    records := [(0x1000, ⟨0, 0, BitVec.ofNat 2 cls⟩)] }

theorem witness_CruiseInstructionResults : (let s := oneCru 1 7
    let index := [src 0 (fm 0 0).a .any, src 1 (fm 0 0).b (.only [1, 2, 10])]
    QuietSplit s ∧ ordStr s s.g.ctx = false ∧ s.g.unacked < 255 ∧
    CanIssue s (activeLanes s 0) (index ++ [src 2 (fm 0 0).c (.only [2])]) [] ∧
    CanIssue (setL s 8 3 []) (activeLanes s 0) (index ++ [src 2 (fm 1 0).c (.only [3])]) [] ∧
    CanIssue (setL s 8 11 []) (activeLanes s 0) (index ++ [src 2 (fm 0 0).c (.only [11])]) [] ∧
    CanIssue s (activeLanes s 0) (index ++ [src 2 (fm 0 0).c (.only [1, 2, 10])]) [] ∧
    CanIssue s (activeLanes s 0) index [dst (fm 0 0).d 1] ∧
    counterAt s .write 0 7 = .ok ⟨⟨3, 0x40003, 0x4088F⟩, 1, 0, true⟩ ∧ counterAt s .read 0 7 = .ok ⟨⟨3, 0x40003, 0x4088F⟩, 1, 0, true⟩ ∧
    counterAt (oneCru 2 63) .write 0 63 = .ok ⟨⟨63, 0x4003F, 0x4108F⟩, 2, 0, false⟩ ∧
    isChecked s ⟨3, 0x40003, 0x4088F⟩ = false ∧ s.stores = [] ∧ s.poison = []) :=
  ⟨quiet_of (by decide +kernel), by decide +kernel, by decide +kernel, canIssue_of (by decide +kernel),
    canIssue_of (by decide +kernel), canIssue_of (by decide +kernel), canIssue_of (by decide +kernel),
    canIssue_of (by decide +kernel), ok_of (by decide +kernel), ok_of (by decide +kernel), ok_of (by decide +kernel),
    by decide +kernel⟩

theorem witness_CruiseOperationsAreExact :
    -- b = 3/2: at level 0 the weight 3/2 covers the step 1 and leaves 1/2, which draws; at level 15 a counter is full
    ((2 ^ 1 + 1) ^ 0 * 2 ^ 1 ≤ 3 * 2 ^ (1 * 0) ∧ 1 * 2 ^ 1 * 2 ^ (1 * 0) + (2 ^ 1 + 1) ^ 0 * 2 ^ 1 * 2 ^ 1 = 3 * 2 ^ (1 * 0) * 2 ^ 1 ∧
      1 * 2 ^ (1 * 1) < (2 ^ 1 + 1) ^ 1 * 2 ^ 1 ∧ (⟨15, 0, 0⟩ : Raise).level = 15 ∧ (⟨14, 0, 0⟩ : Raise).level < 15) ∧
    ((groupOf? (oneCru 1 7) 3).isSome = true ∧ ((groupOf? (oneCru 1 7) 3).bind (·.call)).isSome = true ∧ (oneCru 1 7).poison = []) ∧
    ((0x80000000 : W32).toNat % 2 ^ 31 = 0 ∧ 0x7F800000 < (0xFFC00000 : W32).toNat % 2 ^ 31 ∧ 2 ^ 31 < (0x80000001 : W32).toNat ∧
      0 < (1 : W32).toNat ∧ (0x7F7FFFFF : W32).toNat < 0x7F800000) := by
  decide +kernel

theorem witness_LaneBranchesReachTheirTargets : (let f : LaneWord := { fw 1 with imm := 9 }
    QuietSplit oneL ∧ (curSplit oneL).state = .ready ∧ otherSplits oneL = false ∧ melded oneL = false ∧ (curSplit oneL).mask ≠ 0 ∧
    CanIssue oneL (curSplit oneL).mask [src 0 f.a .any] [] ∧ CanIssue oneL (curSplit oneL).mask [src 0 f.a .any] [⟨3, 127, 1, .any⟩] ∧
    CanIssue oneL (curSplit oneL).mask [⟨0, 127, 1, .any⟩] [] ∧ uvTrap (callFmode oneL.g) = false ∧
    f.imm.setWidth 10 ≤ (curSplit oneL).token ∧
    (curSplit (setG oneL (fun g => setSplit g 0 { splitAt g 0 with token := 8 }))).token < f.imm.setWidth 10) :=
  ⟨quiet_of (by decide +kernel), by decide +kernel, by decide +kernel, by decide +kernel, by decide +kernel,
    canIssue_of (by decide +kernel), canIssue_of (by decide +kernel), canIssue_of (by decide +kernel), by decide +kernel⟩

/-- LMELD with the table at S12, paths in K1; a split in a melded region. -/
def fme : LaneWord := ⟨.f80, 0, 1, 0, 0, 0x40C, 0, 0, 0⟩
def oneMeld : State := setG oneL (fun g => { setSplit g 0 { splitAt g 0 with meld := true } with meld := some ⟨1, 0⟩ })

theorem witness_MeldedRegionsAndTraps : (let s := lane 0xFFFFFFFF [(12, 0x1000)]
    let accs := (List.range 4).map (fun i => at0 (0x1000 + 64 * i))
    (QuietSplit s ∧ melded s = false ∧ s.g.meld = none ∧ CanIssue s (curSplit s).mask [src 0 fme.a .any] [] ∧
      (laneReadS s (fme.a.toNat - 0x400)).toNat % 64 = 0 ∧ runCheck s .read (laneReadS s (fme.a.toNat - 0x400)) 256 = .ok accs ∧
      s.poison = [] ∧ s.stores = [] ∧ (∀ y ∈ accs, y.peer = false ∧ Sys2Proof.Machine.oneCopy s s.g.ctx y = true ∧ isChecked s y = false ∧
        lineOf (coreOf s s.g.core) y.pa = none) ∧ slotWith s.g 0x1000 = none ∧
      slotWith { s.g with ren := [none, some ⟨0x1000, []⟩] } 0x1000 = some 1) ∧
    melded oneMeld = true ∧ QuietSplit oneMeld ∧ activeLanes s fme.pred = 0 ∧ activeLanes s 0 ≠ 0) :=
  ⟨⟨quiet_of (by decide +kernel), by decide +kernel, by decide +kernel, canIssue_of (by decide +kernel), by decide +kernel,
    ok_of (by decide +kernel), by decide +kernel⟩, by decide +kernel, quiet_of (by decide +kernel), by decide +kernel⟩

/-- Two lanes with tasks, in a deterministic context or not; the first, or neither, has a wait frame whose continuation's
entry is the lane descriptor at 0x400. -/
def oneTask (frame : Bool) (det : Bool) : State :=
  let s := setMem (setMem (lane 3 [(12, 0x400)]) 0x400 (descBytes 1 0 false)) 0x8008 (leBytes 8 0x400)
  let s := setX s (fun c => { c with det := det })
  setG s (fun g => { writeK g 1 3 with
    tasks := [(0, 1), (1, 1)], wframes := if frame then [(0, 0x8000)] else [] })

theorem witness_LaneTasksSpawnAwaitAndEnd :
    (let s := oneTask true true
     let f : LaneWord := { fd 0 with d := 0 }
     QuietSplit s ∧ s.stores = [] ∧ s.props = [] ∧
     CanIssue s (activeLanes s f.pred) [src 0 f.a .any, src 1 f.b .any, src 2 f.c .any] [] ∧
     (laneReadS s (f.a.toNat - 0x400)).toNat % 64 = 0 ∧
     readDescriptor s (laneReadS s (f.a.toNat - 0x400)) = .ok (some (descRead 1 0 false)) ∧ (curSplit s).done = 0 ∧
     lostDescriptor? s (laneReadS s (f.a.toNat - 0x400)) = none ∧
     activeLanes s 2 = 0 ∧ (ctxOf s s.g.ctx).det = true ∧
     (∀ l ∈ lanesOf (activeLanes (setMask s 1) f.pred), waitFrame s.g l ≠ 0) ∧
     (ctxOf (oneTask true false) 0).det = false ∧ (ctxOf s s.g.ctx).excess = [] ∧
     (ctxOf s s.g.ctx).pool.length + (lanesOf (activeLanes s f.pred)).length ≤ (ctxOf s s.g.ctx).records) ∧
    (let s := oneTask true false
     melded s = false ∧ (curSplit s).state = .ready ∧ otherSplits s = false ∧ (curSplit s).mask ≠ 0 ∧
     (∀ l ∈ lanesOf (curSplit s).mask, laneTask s.g l ≠ 0) ∧ waitFrame s.g 0 ≠ 0 ∧ waitFrame s.g 1 = 0 ∧
     readDescriptor s (frame64 s s.g.ctx (waitFrame s.g 0) 8 &&& ~~~63) = .ok (some (descRead 1 0 false))) ∧
    ∀ l ∈ lanesOf (curSplit (oneTask false false)).mask, waitFrame (oneTask false false).g l = 0 :=
  ⟨⟨quiet_of (by decide +kernel), by decide +kernel, by decide +kernel, canIssue_of (by decide +kernel), by decide +kernel,
    ok_of (by decide +kernel), by decide +kernel⟩, ⟨by decide +kernel, by decide +kernel, by decide +kernel, by decide +kernel,
    by decide +kernel, by decide +kernel, by decide +kernel, ok_of (by decide +kernel)⟩, by decide +kernel⟩

/-! ### Premises met: the matrix array, tiles, geometry, pairs -/

/-- A group with all four tiles, S44 and S20 set. -/
def oneT : State := setG (setMask (lane 1 [(44, 1), (5, 0x1000), (20, 0x1000)]) 1) (fun g => { g with tiles := 4 })
/-- MMA into T3 with A from V64, scales from V96 and S44, B at 80 × 256. -/
def fmma (mod : BitVec 5) : LaneWord :=
  ⟨.f82, 0, 0, mod, 0x303, 64, if mod = 0 then 96 else 0, if mod = 0 then 0x42C else 0, 80⟩

theorem witness_MatrixMultiplyResults :
    (QuietSplit oneT ∧ 0x300 ≤ (fmma 0).d.toNat ∧ oneT.ops = [] ∧ (coreOf oneT oneT.g.core).poison = [] ∧
      CanIssue oneT (activeLanes oneT (fmma 0).pred) (mmaReads (fmma 0)) [dst (fmma 0).d 1] ∧
      CanIssue oneT (activeLanes oneT (fmma 3).pred) (mmaReads (fmma 3)) [dst (fmma 3).d 1] ∧
      ((fmma 3).mod.extractLsb' 0 3).toNat = 3 ∧ (fmma 3).mod.getLsbD 3 = false) ∧
    (let m : MmaRun := ⟨3, 0, 3, [(0, 5), (4095, 6)], none⟩
     (coreOf (setC one (fun c => { c with mma := some m })) 0).mma = some m ∧ (groupOf? one m.gid).isSome = true ∧
     (m.writes.map (·.1)).Nodup ∧ ∀ w ∈ m.writes, w.1 < 4096) :=
  ⟨⟨quiet_of (by decide +kernel), by decide +kernel, by decide +kernel, by decide +kernel, canIssue_of (by decide +kernel),
    canIssue_of (by decide +kernel), by decide +kernel⟩, by decide +kernel⟩

/-- TLD or TST of T3 at base S5, in global memory or in scratchpad. -/
def ft (mod : BitVec 5) (a b : BitVec 11) (imm : BitVec 31) : LaneWord := ⟨.f82, 0, 0, mod, 0x303, a, b, 0, imm⟩
/-- Scratchpad for those rows. -/
def onePadT : State :=
  let s := setG (lane 1 [(5, 0x1000)]) (fun g => { g with tiles := 4 })
  { s with grids := [{ oneGrid with desc := { oneDescriptor with scratch := 1 } }], teams := [{ oneTeam with banks := [20] }] }

theorem witness_TileInstructionResults : (let f := ft 0 0x405 0x244 0xEE00
    let g := ft 1 0x405 0x244 0x1EE00
    let rows (f : LaneWord) : List Opnd := [src 0 f.a acceptAddr, src 1 f.b acceptAddr]
    let at' : List Access := (List.range 8).map (fun i => at0 (0xFE00 + 64 * i))
    QuietSplit oneT ∧ CanIssue oneT (activeLanes oneT 0) [] [dst f.d 1] ∧
    CanIssue oneT (activeLanes oneT 0) [src 0 6 .any, src 1 7 .any] [dst f.d 1] ∧
    CanIssue oneT (activeLanes oneT 0) [tileOpnd 0 0x302 acceptF32, src 1 7 acceptF32] [dst f.d 1] ∧
    CanIssue oneT (activeLanes oneT 0) [tileOpnd 0 0x302 .any, src 1 7 .any] [dst 5 1] ∧
    CanIssue oneT (activeLanes oneT 0) (rows f) [dst f.d 1] ∧ CanIssue oneT (activeLanes oneT 0) (rows f ++ [tileOpnd 3 f.d .any]) [] ∧
    lanesOf (activeLanes oneT 0) = [0] ∧ oneT.stores = [] ∧ oneT.poison = [] ∧ activeLanes oneT 0 ≠ 0 ∧
    globalRow oneT .read f 0 = .ok at' ∧ globalRow oneT .write f 0 = .ok at' ∧
    (∀ x ∈ at', x.peer = false ∧ Sys2Proof.Machine.oneCopy oneT oneT.g.ctx x = true ∧ isChecked oneT x = false ∧
      lineOf (coreOf oneT oneT.g.core) x.pa = none) ∧ ordStr oneT oneT.g.ctx = false ∧ oneT.g.unacked < 255 ∧
    f.mod.getLsbD 0 = false ∧ g.mod.getLsbD 0 = true ∧ (ctxOf onePadT onePadT.g.ctx).spchk = false ∧
    spadRow onePadT g 0 = .ok ((List.range 128).map (fun j => (0, 20, 0x1FE00 + 4 * j))) ∧
    CanIssue onePadT (activeLanes onePadT 0) (rows g) [dst g.d 1] ∧
    CanIssue onePadT (activeLanes onePadT 0) (rows g ++ [tileOpnd 3 g.d .any]) []) :=
  ⟨quiet_of (by decide +kernel), canIssue_of (by decide +kernel), canIssue_of (by decide +kernel), canIssue_of (by decide +kernel),
    canIssue_of (by decide +kernel), canIssue_of (by decide +kernel), canIssue_of (by decide +kernel), by decide +kernel,
    by decide +kernel, by decide +kernel, by decide +kernel, ok_of (by decide +kernel), ok_of (by decide +kernel),
    by decide +kernel, by decide +kernel, by decide +kernel, by decide +kernel, by decide +kernel, by decide +kernel,
    ok_of (by decide +kernel), canIssue_of (by decide +kernel), canIssue_of (by decide +kernel)⟩

theorem witness_RayEdgeVerdicts :
    (let e : V3 → V3 → V3 → V3 → Int := fun o d p q => d.dot ((p.sub o).cross (q.sub o))
     let g : V3 → V3 → V3 → V3 := fun d p q => (q.sub p).cross d
     -- an edge that no ray grazes, and a degenerate one
     ¬(e ⟨0, 0, 0⟩ ⟨0, 0, 1⟩ ⟨1, 0, 0⟩ ⟨0, 1, 0⟩ = 0 ∧ g ⟨0, 0, 1⟩ ⟨1, 0, 0⟩ ⟨0, 1, 0⟩ = ⟨0, 0, 0⟩) ∧
     e ⟨0, 0, 0⟩ ⟨0, 0, 1⟩ ⟨1, 0, 0⟩ ⟨1, 0, 0⟩ = 0 ∧ g ⟨0, 0, 1⟩ ⟨1, 0, 0⟩ ⟨1, 0, 0⟩ = ⟨0, 0, 0⟩) := by
  decide +kernel

/-- Lane 0 with a box of one vertex and one triangle at 0x1000: its vertices at 0x2000, its triangles at 0x3000; V32 to V35
and V4 to V7 refer to its triangle or vertex 0. -/
def oneBox : State :=
  let box := List.replicate 24 0 ++ leBytes 8 0x2000 ++ leBytes 8 0x3000 ++ leBytes 4 0x10001
  let s := setMem (lane 1 [(20, 0x1000), (13, 0)]) 0x1000 box
  let ref (s : State) (r : Nat) : State := setL (setL (setL s r 10 [(0, 0x1000)]) (r + 1) 10 []) (r + 2) 2 [(0, 0)]
  ref (ref s 32) 4

/-- The words of that box's record. -/
def boxRecord : List W32 := [0, 0, 0, 0, 0, 0, 0x2000, 0, 0x3000, 0, 0x10001]

/-- Words that lie in memory at an address, each a plain access. -/
def hasB (s : State) (va : Nat) (ws : List W32) : Bool :=
  (List.range ws.length).all (fun i => plainB s [0] .read 4 (BitVec.ofNat 64 va + BitVec.ofNat 64 (4 * i)) (at0 (va + 4 * i)) &&
    ws.getD i 0 == word32 (readBytes s (at0 (va + 4 * i)).pa 4))

theorem has_of {s : State} {va : Nat} {ws : List W32} (h : hasB s va ws = true) : ∀ i, i < ws.length → ∃ a,
    PlainAccess s [0] .read 4 (BitVec.ofNat 64 va + BitVec.ofNat 64 (4 * i)) a ∧ ws.getD i 0 = word32 (readBytes s a.pa 4) := by
  intro i hi
  have := List.all_eq_true.mp h i (List.mem_range.mpr hi)
  rw [Bool.and_eq_true] at this
  exact ⟨_, plain_of this.1, eq_of_beq this.2⟩

theorem witness_GeometryResults : (let s := oneBox
    let has (va : Nat) (ws : List W32) : Prop := ∀ i, i < ws.length → ∃ a,
      PlainAccess s [0] .read 4 (BitVec.ofNat 64 va + BitVec.ofNat 64 (4 * i)) a ∧ ws.getD i 0 = word32 (readBytes s a.pa 4)
    QuietSplit s ∧ lanesOf (activeLanes s 0) = [0] ∧
    CanIssue s (activeLanes s 0) [srcs 0 16 3 acceptF32] [dst 60 2] ∧
    CanIssue s (activeLanes s 0) ([srcs 0 16 3 acceptF32, ⟨0, 19, 3, acceptInt⟩] ++ [srcs 1 40 3 acceptF32, ⟨1, 43, 3, acceptInt⟩]) [dst 60 6] ∧
    CanIssue s (activeLanes s 0) [srcs 0 16 16 acceptGeo, addrOpnd 1 0x414] [dst 48 17] ∧
    CanIssue s (activeLanes s 0) [srcs 0 16 16 acceptGeo, addrOpnd 1 0x414] [dst 60 4] ∧
    CanIssue s (activeLanes s 0) (srcs 0 16 16 acceptGeo :: refOpnds 1 32) [dst 60 6] ∧
    CanIssue s (activeLanes s 0) ([srcs 0 16 16 acceptGeo, srcs 1 64 9 acceptGeo] ++ refOpnds 2 32) [dst 60 3] ∧
    CanIssue onePad (activeLanes onePad 0) [srcs 0 16 3 acceptF32, src 1 40 acceptAddr] [dst 60 3] ∧
    (laneBase s 0x414 0).toNat % 64 = 0 ∧ vaOk (laneBase s 0x414 0) = true ∧ laneBase s 0x414 0 = 0x1000 ∧
    has 0x1000 boxRecord ∧ has 0x1000 (boxRecord.take 3) ∧ boxRecord.length = 11 ∧ (boxRecord.take 3).length = 3 ∧
    childCount (boxRecord.getD 0 0) = 0 ∧
    readOpnd s 33 0 ++ readOpnd s 32 0 = (0x1000 : W64) ∧ pointerOk 0x3000 8 = true ∧ pointerOk 0x2000 4 = true ∧
    (readOpnd s 34 0).toNat < (boxRecord.getD 10 0).toNat / 65536 ∧ 0 < (boxRecord.getD 10 0).toNat % 65536 ∧
    has 0x3000 [0, 0] ∧ has 0x2000 [0] ∧ (ctxOf onePad onePad.g.ctx).spchk = false ∧
    deskewPlace onePad (readOpnd onePad 40 0).toNat = .ok (0, 20, 0)) :=
  ⟨quiet_of (by decide +kernel), by decide +kernel, canIssue_of (by decide +kernel), canIssue_of (by decide +kernel),
    canIssue_of (by decide +kernel), canIssue_of (by decide +kernel), canIssue_of (by decide +kernel),
    canIssue_of (by decide +kernel), canIssue_of (by decide +kernel), by decide +kernel, by decide +kernel, by decide +kernel,
    has_of (by decide +kernel), has_of (by decide +kernel), by decide +kernel, by decide +kernel, by decide +kernel,
    by decide +kernel, by decide +kernel, by decide +kernel, by decide +kernel, by decide +kernel, has_of (by decide +kernel),
    has_of (by decide +kernel), by decide +kernel, ok_of (by decide +kernel)⟩

/-- A box of eight children whose records begin at 0x4000, for GBOX. -/
def oneKids : State := setMem (setMem oneBox 0x1000 (leBytes 4 0x80000000)) 0x1010 (leBytes 8 0x4000)

theorem witness_GeometryResults_children :
    (∀ i, i < 11 → ∃ a, PlainAccess oneKids [0] .read 4 (BitVec.ofNat 64 0x1000 + BitVec.ofNat 64 (4 * i)) a ∧
      ((0x80000000 :: 0 :: 0 :: 0 :: 0x4000 :: boxRecord.drop 5) : List W32).getD i 0 = word32 (readBytes oneKids a.pa 4)) ∧
    childCount 0x80000000 = 8 ∧ pointerOk 0x4000 64 = true ∧
    ∀ i, i < 3 → ∃ a, PlainAccess oneKids [0] .read 4 (BitVec.ofNat 64 (0x4000 + 64 * 7) + BitVec.ofNat 64 (4 * i)) a ∧
      ([0, 0, 0] : List W32).getD i 0 = word32 (readBytes oneKids a.pa 4) :=
  ⟨has_of (ws := 0x80000000 :: 0 :: 0 :: 0 :: 0x4000 :: boxRecord.drop 5) (by decide +kernel), by decide +kernel, by decide +kernel,
    has_of (ws := [0, 0, 0]) (by decide +kernel)⟩

theorem witness_BoxUpdateResults : (let s := oneBox
    QuietSplit s ∧ lanesOf (activeLanes s 0) = [0] ∧ ordStr s s.g.ctx = false ∧ s.g.unacked < 255 ∧
    (boxRecord.getD 0 0).toNat / 2 ^ 28 ≤ 8 ∧ (boxRecord.getD 1 0).toNat / 2 ^ 24 ≤ 47 ∧ pointerOk 0x2000 4 = true ∧
    CanIssue s (activeLanes s 0) (refOpnds 0 4 ++ [srcs 1 8 3 acceptInt, src 2 0x40D acceptInt]) [dst 60 1] ∧
    CanIssue s (activeLanes s 0) [baseOpnd 0x414] [dst 60 1] ∧
    readOpnd s 5 0 ++ readOpnd s 4 0 = (0x1000 : W64) ∧ (readOpnd s 6 0).toNat < (boxRecord.getD 10 0).toNat % 65536 ∧
    PlainAccess s [0] .write 4 0x2000 (at0 0x2000) ∧ PlainAccess s [0] .write 4 0x1004 (at0 0x1004) ∧
    PlainAccess s [0] .write 4 0x1008 (at0 0x1008)) :=
  ⟨quiet_of (by decide +kernel), by decide +kernel, by decide +kernel, by decide +kernel, by decide +kernel, by decide +kernel,
    by decide +kernel, canIssue_of (by decide +kernel), canIssue_of (by decide +kernel), by decide +kernel, by decide +kernel,
    plain_of (by decide +kernel), plain_of (by decide +kernel), plain_of (by decide +kernel)⟩

theorem witness_BoxUpdateResults_cases :
    -- exponent 1: the shift 48 is too large, a step of 1/2 inexact, a step to 256 does not fit, a step to 255 fits outside
    -- the bounds 0 to 0, and a step of 0 stays within them
    47 < (48 : W32).toNat ∧ ((1 : Int) * 2 ^ 0) % 2 ^ 1 ≠ 0 ∧ ((512 : Int) * 2 ^ 0) % 2 ^ 1 = 0 ∧ ¬(512 : Int) / 2 ^ 1 ≤ 255 ∧
    (510 : Int) / 2 ^ 1 ≤ 255 ∧ ¬(510 : Int) / 2 ^ 1 ≤ 0 ∧ (0 : Int) / 2 ^ 1 ≤ 0 := by
  decide

theorem witness_PairsActAsTheirHalves : (let h0 : PairHalf := ⟨0x01, 0, 8, 1, 2⟩
    let h1 : PairHalf := ⟨0x0A, 0, 13, 1, 5⟩
    QuietSplit oneL ∧ pairLegal h0 h1 = true ∧ (pairElem h0.op.toNat (halfSingle h0)).isSome = true ∧
    laneLegal h0.op.toNat (halfSingle h0) = true ∧
    CanIssue oneL (activeLanes oneL 0) ((elemVadd (halfSingle h0)).reads (halfSingle h0) ++ (elemVxor (halfSingle h1)).reads (halfSingle h1))
      [dst (halfSingle h0).d 1, dst (halfSingle h1).d 1]) :=
  ⟨quiet_of (by decide +kernel), by decide +kernel, by decide +kernel, by decide +kernel, canIssue_of (by decide +kernel)⟩

/-! ### Premises met: steps of memory, engines and links -/

/-- An event class in an open window past its threshold, its window 100 clocks from 0. -/
def oneEvent : State :=
  setG (setX one (fun c => { c with evctl := [0x0000006400000103] })) (fun g => { g with events := [(0, ⟨2, 0, true⟩)] })

theorem witness_MemoryAndFabricSteps :
    (let s := setEv { one with props := [⟨3, [], 1, 0x40000, [5, 6]⟩] } { n := 0 }
     s.props = [⟨3, [], 1, 0x40000, [5, 6]⟩] ∧ s.ev.n = 0) ∧
    (coreOf (setC one (fun c => { c with stamp := 255 })) one.ev.core).stamp = 255 ∧
    ((1 : Nat) ∉ one.unreach ∧ oneContext ∈ one.ctxs ∧ namesDevice { one with comms := [(0, [0, 1])] } oneContext 1 = true) ∧
    (coreExists one.ev.core = true ∧ vaOk one.ev.va = true ∧
      walk one (ctxOf one one.ev.ctx) one.ev.va = .ok ⟨0, 0, 65536, 0x4008F⟩) ∧
    ((setEv one { gid := 3 }).g.gid = (setEv one { gid := 3 }).ev.gid ∧ one.g.run = .resident ∧
      (scalarTrap one 0x09).lane = false ∧ (laneTrap one 0x09).lane = true) ∧
    ((setG one (fun g => { g with run := .failing })).g.run = .failing ∧ one.g.counters = []) ∧
    ((groupOf? one 3).map (·.gid) = some 3 ∧ 511 < 512 ∧ (∀ p ∈ [((31 : Nat), (5 : W32))], p.1 < 32) ∧
      ([((31 : Nat), (5 : W32))].map (·.1)).Nodup ∧ (setG one (fun g => { g with wait := some .suspended })).g.isSuspended = true) ∧
    (let e := (ctxOf oneEvent oneEvent.g.ctx).evctl.getD 0 0
     evWindow e ≠ 0 ∧ (mapGet EventCount.zero 0 oneEvent.g.events).isOpen = true ∧
     evThresh e < (mapGet EventCount.zero 0 oneEvent.g.events).count ∧ 2 ≤ evAction e ∧ evAction e % 2 = 1 ∧
     (mapGet EventCount.zero 0 oneEvent.g.events).start + evWindow e ≤ ({ oneEvent with clock := 100 } : State).clock.toNat) ∧
    (one.ev.n = 0 ∧ one.ev.req = 0) ∧
    -- a store on the path that fails, with another link left
    (let s := { one with stores := [newStore one false [.write 0x40000 [5] false 0] 0 0] }
     (linksTo (PendWord.write 0x40000 [5] false 0).isPeer).any (fun l => !s.links.contains l) = true) := by
  refine ⟨by decide +kernel, by decide +kernel, by decide +kernel, ⟨by decide +kernel, by decide +kernel, ok_of (by decide +kernel)⟩,
    by decide +kernel, by decide +kernel, by decide +kernel, by decide +kernel, by decide +kernel, by decide +kernel⟩

/-- One operation of the group, outstanding, the subject of the step. -/
def oneOp (kind : EngineKind) : State :=
  setEv { setG one (fun g => { writeH g 2 .pending with counters := [(0, 1)] }) with
    ops := [⟨9, 3, 0, 0, 0, 2, kind, 0, [], [], [], false, false, 0, 0, false, 0, 0, none, 0, []⟩] } { n := 9 }

theorem witness_EngineSteps :
    (let s := oneOp (.cpy 0x2000 0x1000 64)
     (s.ops.find? (fun p => p.id == s.ev.n)).map (·.gid) = some s.g.gid ∧ NoEvents s ∧ s.poison = [] ∧ s.unreach = [] ∧
     (∀ o ∈ s.ops, oldestOp s o = true ∧ o.finished = false ∧ o.cancelled = false ∧ o.done = 0 ∧ o.err = 0 ∧
       o.held = [] ∧ o.ahead = [] ∧ copyTurn s o = true ∧ o.kind = .cpy 0x2000 0x1000 64) ∧ vaOk 0x2000 = true ∧ vaOk 0x1000 = true ∧
     readGlobal s 0x1000 64 = .ok (List.replicate 64 0) ∧
     checkRange s s.g.ctx s.g.core [0] .write 0x2000 64 = .ok [at0 0x2000] ∧ (at0 0x2000).peer = false ∧
     engineLag s (at0 0x2000) = false ∧ (at0 0x2000).pa % 64 + 64 ≤ 64) :=
  ⟨by decide +kernel, noEvents_of (by decide +kernel), by decide +kernel, by decide +kernel, by decide +kernel, by decide +kernel,
    by decide +kernel, ok_of (by decide +kernel), ok_of (by decide +kernel), by decide +kernel, by decide +kernel⟩

/-- The 64 bytes of a transform request: operation and flags, AUX, SRC, DST, LEN, CAP, FUT, VALUE. -/
def reqBytes (op aux : Nat) (src dst len cap fut value : Nat) : List Byte :=
  leBytes 4 op ++ leBytes 4 aux ++ leBytes 8 src ++ leBytes 8 dst ++ leBytes 8 len ++ leBytes 8 cap ++ leBytes 8 fut ++
    leBytes 8 value ++ leBytes 8 0

/-- That request taken by a kick. -/
def oneReq (block : List Byte) : State :=
  setEv { oneOp (.xkick 0 0 1) with xreqs := [⟨9, 0, 0, 0, 0, 0x800, false, 0, block, false, false, false, 0, 0, [], []⟩] } { n := 9, req := 0 }

/-- A request's premises: its operation, its form, its source read, its output within its capacity and stored. -/
def requestB (block out : List Byte) (op : Nat) (bytes : List Byte) : Bool :=
  let s := oneReq block
  let b := parseRequest block
  b.op == op && b.ok && !b.phys && okB (readOn s (ringDie s 0 0) b.src b.srcBytes) bytes && decide (out.length ≤ b.cap) &&
    (writeUnits b.dst out (unitsOf 0 out.length) ⟨s, 0, none, none⟩).fault.isNone

theorem witness_EngineSteps_requests :
    (let s := oneReq (reqBytes 5 0 0 0x2000 8 8 0 7)
     (reqOf? s s.ev.n s.ev.req).isSome = true ∧ (∀ y ∈ s.xreqs, y.block ≠ [] ∧ y.performed = false ∧ y.posted = false ∧ y.units = 0 ∧ y.read = [] ∧ y.wrote = []) ∧
     (∀ o ∈ s.ops, o.cancelled = false) ∧ s.stores = []) ∧
    -- LZ4D of one literal, REPACK of one empty row, CONVERT of two elements from FP32 to FP16, DIGEST, FILL, FILL.SET, FLUSH
    requestB (reqBytes 2 0 0x1000 0x2000 1 64 0 0) (lz4Decode 2 [0x00] []).1 2 [0x00] = true ∧
    requestB (reqBytes 3 0 0x1000 0x2000 1 1024 0 0) (repack 1 0 []).1 3 [] = true ∧
    requestB (reqBytes 4 0x42 0x1000 0x2000 2 64 0 0) (convertAll 0x42 2 0 (List.replicate 8 0)).1 4 (List.replicate 8 0) = true ∧
    requestB (reqBytes 7 0 0x1000 0x2000 0 32 0 0) (shake256 [] 32) 7 [] = true ∧
    requestB (reqBytes 5 0 0 0x2000 8 8 0 7) ((List.range 8).map (fun j => (7 : W64).extractLsb' (8 * (j % 8)) 8)) 5 [] = true ∧
    (let b := parseRequest (reqBytes 0x105 0 0 0x42000 64 64 0 7)
     b.op = 5 ∧ b.set = true ∧ b.ok = true ∧ b.phys = true ∧ physRange b.dst.toNat b.len = true ∧ b.len ≤ b.cap) ∧
    (let b := parseRequest (reqBytes 6 0 0 0x40000 65536 0 0 0)
     b.op = 6 ∧ b.ok = true ∧ physRange b.dst.toNat b.len = true ∧ b.fut = 0) := by
  decide +kernel

/-- The compressor is free (log 9): where its block of a byte takes at most 64 bytes, the premises of LZ4C are met. -/
theorem witness_EngineSteps_compress (h : (lz4Block [0]).length ≤ 64) :
    okB (readOn (oneReq []) (ringDie (oneReq []) 0 0) 0x1000 1) [0] = true ∧
    (parseRequest (reqBytes 1 0 0x1000 0x2000 1 64 0 0)).ok = true ∧
    (lz4Block [0]).length ≤ (parseRequest (reqBytes 1 0 0x1000 0x2000 1 64 0 0)).cap :=
  ⟨by decide +kernel, by decide +kernel, Nat.le_trans h (by decide +kernel)⟩

/-- The 64 bytes of a collective descriptor of kind `kind` on two ranks: one element at 0x1000, its result at 0x2000. -/
def collBytes (kind : Nat) : List Byte :=
  leBytes 4 kind ++ leBytes 4 0 ++ leBytes 8 0x1000 ++ leBytes 8 0x2000 ++ leBytes 8 1 ++ List.replicate 32 0

/-- A collective operation whose other participant's part has come. -/
def oneColl (kind : Nat) : State :=
  setEv { setMem (oneOp (.coll 0x400)) 0x400 (collBytes kind) with comms := [(0, [0, 7])] }
    { n := 9, parts := [⟨1, collBytes kind, List.replicate 8 1⟩] }

theorem witness_EngineSteps_collectives : ∀ kind ∈ [0, 1, 2, 3], (let s := oneColl kind
    let d := parseColl (collBytes kind)
    (s.ops.map (·.kind)) = [.coll 0x400] ∧ readGlobal s 0x400 64 = .ok (collBytes kind) ∧ d.kind = kind ∧
    (commOf s d.comm)[0]? = some s.device.toNat ∧ (commOf s d.comm).Nodup ∧ d.ok 2 = true ∧
    readGlobal s d.src (d.input 2) = .ok (List.replicate (d.input 2) 0) ∧ (∀ x ∈ s.ev.parts, x.rank = 1 ∧ (parseColl x.desc).shared = d.shared) ∧
    collData s.ev.parts 0 2 (List.replicate (d.input 2) 0) = some [List.replicate (d.input 2) 0, List.replicate 8 1] ∧
    (s.ops.map (fun o => (o.seed, o.held, o.block))) = [(0, [], [])] ∧
    (let out := collResult { s with frees := 0 } d 0 [List.replicate (d.input 2) 0, List.replicate 8 1];
      (writeUnits d.dst out.1 (unitsOf 0 out.1.length) ⟨s, 0, none, none⟩).fault.isNone = true)) := by
  intro kind hk
  simp only [List.mem_cons, List.mem_nil_iff, or_false] at hk
  rcases hk with rfl | rfl | rfl | rfl <;>
    exact ⟨by decide +kernel, ok_of (by decide +kernel), by decide +kernel, by decide +kernel, by decide +kernel,
      by decide +kernel, ok_of (by decide +kernel), by decide +kernel, by decide +kernel, by decide +kernel, by decide +kernel⟩

/-! ### Premises met: scheduling, the host, boot, the whole machine -/

/-- A task group of the one core: the group's end stands in the list, with children to report to at 0x8000. -/
def oneEnd (task : Bool) : State :=
  { setEv (setMem (setG one (fun g => { g with run := .exited })) 0x8010 (leBytes 4 2)) { n := 0 } with
    ends := [⟨3, task, 0, if task then 0x8000 else 0⟩] }

/-- A bin of `n` records for the lane descriptor at 0x400. -/
def oneBin (n : Nat) (waiting : Bool) : State :=
  let r : TaskRecord := { TaskRecord.zero with entry := 0x400 }
  { setMem one 0x400 (descBytes 1 0 false) with
    teams := [], clock := 70000
    cores := [(0, { oneCore with bins := ⟨0x400, List.replicate n r, 0, waiting, 0⟩ :: List.replicate 15 Bin.none })] }

/-- The same record in the pool at 0x50000, no bin waiting. -/
def onePool : State :=
  let r : TaskRecord := { TaskRecord.zero with entry := 0x400 }
  { oneBin 0 false with
    ctxs := [{ oneContext with pool := [(0, r)], poolPa := 0x50000 }]
    mem := memWrite (oneBin 0 false).mem 0x50000 r.bytes }

/-- The one team in another state; ready since clock 0, its group waiting for it. -/
def oneWaits (st : TeamState) : State :=
  setEv { setG one (fun g => { g with run := if st = .parked then .parked else .waiting }) with
    teams := [{ oneTeam with state := st, ready := true }], clock := 65536 } { team := 2 }

/-- The one team resident and blocked at AWAITG, another admitted and ready. -/
def oneBlocked : State :=
  setEv { setG one (fun g => { g with wait := some .awaitg }) with
    teams := [oneTeam, { oneTeam with id := 8, groups := [], state := .admitted, ready := true }] } { team := 2 }

theorem witness_SchedulingSteps :
    (∀ task : Bool, (oneEnd task).ends[(oneEnd task).ev.n]? = some ⟨3, task, 0, if task then 0x8000 else 0⟩ ∧
      (groupOf? (oneEnd task) 3).map (·.gid) = some 3 ∧ endReady (oneEnd task) ⟨3, task, 0, if task then 0x8000 else 0⟩ = true) ∧
    1 < frameJoin (oneEnd true) 0 0x8000 ∧
    (let s := oneBin 32 false
     s.ev.bin < (coreOf s 0).bins.length ∧ (binOf s 0 0).records.length = 32 ∧ (binOf s 0 0).waiting = false ∧
     binExpired s 0 (binOf s 0 0) = true ∧ descriptorFor s 0 0 0x400 = some (descRead 1 0 false) ∧
     canAdmit s 0 0 (descRead 1 0 false) = true ∧ tablePending s 0 0 = false ∧ (ctxOf s 0).halted = false) ∧
    (let s := oneBin 32 true
     (binOf s 0 0).waiting = true ∧ binExpired s 0 (binOf s 0 0) = true ∧ (ctxOf? s 0).isSome = true ∧
     poolRoom s 0 (binOf s 0 0).records.length = true) ∧
    ((coreOf onePool 0).ctx = some 0 ∧ (∀ x ∈ (coreOf onePool 0).bins, x.waiting = false) ∧ (ctxOf onePool 0).excess = [] ∧
      (poolRecords onePool 0).map (·.2.entry) = [0x400] ∧
      descriptorFor onePool 0 0 0x400 = some (descRead 1 0 false) ∧ canAdmit onePool 0 0 (descRead 1 0 false) = true) := by
  decide +kernel

theorem witness_SchedulingSteps_teams :
    (let s := { one with teams := [], grids := [{ oneGrid with placed := 0 }] }
     (gridOf? s 1).isSome = true ∧ oneGrid.desc.clustered = false ∧ mayAdmit s { oneGrid with placed := 0 } 0 = true ∧
     ∀ y ∈ s.grids, gridBefore y { oneGrid with placed := 0 } = false) ∧
    (∀ st ∈ [TeamState.admitted, .parked], (teamOf? (oneWaits st) 2).map (·.state) = some st ∧
      (teamOf? (oneWaits st) 2).map (firstReady (oneWaits st)) = some true ∧
      (teamOf? (oneWaits st) 2).map (teamFits (oneWaits st)) = some true ∧
      (teamOf? (oneWaits st) 2).map (fun u => (u.spill, (slotGroups (oneWaits st) u).any badImage)) = some ([], false)) := by
  decide +kernel

theorem witness_SchedulingSteps_parks :
    (teamOf? oneBlocked 2).map (teamParkable oneBlocked) = some true ∧
    (∃ v ∈ oneBlocked.teams, v.core = oneTeam.core ∧ v.ready = true ∧ v.state = .admitted) ∧
    (∀ v ∈ oneBlocked.teams, teamParkable oneBlocked v = true → ¬v.prio < oneTeam.prio ∧
      ¬(v.prio = oneTeam.prio ∧ blockedSince oneBlocked v < blockedSince oneBlocked oneTeam)) ∧
    (let s := { setG one (fun g => { g with wait := some (.handle 3) }) with clock := 4097 }
     s.parkt < s.clock.toNat - s.g.since ∧ s.g.wait = some (.handle 3)) ∧
    (let s := { one with teams := [], grids := [] }
     servingCores s s.ev.ctx = [0] ∧ workedOut s s.ev.ctx (servingCores s s.ev.ctx) = true) ∧
    (servingCores one one.ev.ctx = [0] ∧ ∀ k ∈ servingCores one one.ev.ctx,
      (coreOf one k).since + (ctxOf one one.ev.ctx).slice ≤ ({ one with clock := 65536 } : State).clock.toNat) := by
  decide +kernel

/-- The 64 bytes of a launch packet of one team of the descriptor at 0x400, and a queue with it. -/
def oneQueue (op : Nat) (written : Nat) : State :=
  let packet := leBytes 4 op ++ leBytes 4 1 ++ leBytes 4 1 ++ leBytes 4 1 ++ leBytes 8 0x400 ++ List.replicate 40 0
  setEv { setMem (setMem one 0x400 (descBytes 0 3 false)) 0x1000 packet with queues := [⟨5, 0, 0, 0x41000, 4, written, 0, false⟩] }
    { queue := 5, count := 16, host := .barWrite 0x10028 16 }

/-- The boot ROM verifying an image, offered or stored. -/
def verifyOf (i : Image) (offered : Bool) : State :=
  { State.reset with booted := .verifying, offer := if offered then some (.management, i) else none, store := some i }

/-- A host grid whose teams have all ended, with its completion record in the word at 0x20. -/
def oneDone : State := { oneF false with grids := [{ oneGrid with origin := .host 0 1 0x20, ended := 1 }] }

theorem witness_HostAndBootSteps :
    (let s := oneQueue 1 1
     (queueOf? s s.ev.queue).isSome = true ∧ (ctxOf s 0).halted = false ∧ (∀ q ∈ s.queues, q.stopped = false ∧
       q.written ≤ s.ev.count.toNat ∧ s.ev.count.toNat ≤ q.consumed + 2 ^ q.log2 ∧ q.consumed < q.written ∧
       q.id < 256 ∧ s.ev.host = .barWrite (0x10000 + 8 * s.ev.queue) 16 ∧ (∀ r ∈ s.queues, queueRank s q ≤ queueRank s r) ∧
       packetDescriptor s q (packetOf s q q.consumed) = some (descRead 0 3 false)) ∧
     ∀ q ∈ (oneQueue 2 1).queues, packetDescriptor (oneQueue 2 1) q (packetOf (oneQueue 2 1) q q.consumed) = none) ∧
    ((gridOf? oneDone 1).map (fun x => (x.done, x.nteams, x.ended)) = some (false, 1, 1) ∧ (0x20 : Nat) ≠ 0 ∧ (0x20 : Nat) < 2 ^ 64) ∧
    (one.booted = .running ∧ (List.range 64).find? (fun n => (ctxOf? one n).isNone) = some 1 ∧ contextOk one one.ev.context = true) ∧
    (ctxOf? one one.ev.ctx = some oneContext ∧ headerOk oneContext (parseHeader one.ev.object.bytes) = false) ∧
    (let c : Core := { oneCore with tables := [⟨0, [], 0⟩] }
     c.ctx = some 0 ∧ ∀ u ∈ admittedTeams { one with teams := [], cores := [(0, c)] } 0, u.ctx ≠ 0) ∧
    (∀ t ∈ (oneWaits .admitted).teams, t.state ≠ .resident) ∧
    (State.reset.booted = .rom ∧ State.reset.store = none ∧ (verifyOf ⟨false, [], [], [], []⟩ false).store ≠ none) ∧
    (∀ offered : Bool, let s := verifyOf ⟨true, [], [], [], []⟩ offered
     s.booted = .verifying ∧ imageFailure s ⟨true, [], [], [], []⟩ ≠ 0 ∧ (s.offer = none ↔ offered = false)) ∧
    (({ one with booted := .waiting } : State).booted = .waiting ∧ one.booted ≠ .waiting) ∧
    (List.replicate 32 (0 : Byte)).length = 32 ∧ physRange (0xC000000000 - 8) 8 = true ∧ linesOf one 0 64 0 false = true ∧
    one.poison = [] :=
  by decide +kernel

theorem witness_HostAndBootSteps_completion :
    checkAccess oneDone 0 ((ctxOf oneDone 0).cores.headD 0) [3] .write 8 0x20 = .ok ⟨0x20, 0x40020, 0x4188F⟩ :=
  ok_of (by decide +kernel)

/-- The header of an empty code object: magic, version, OREV 1, no sections. -/
def headBytes : List Byte := leBytes 4 0x3947464E ++ leBytes 2 1 ++ [1, 0] ++ List.replicate 56 0

theorem witness_HostAndBootSteps_load :
    headerOk oneContext (parseHeader headBytes) = true ∧
    (layObject one 0 ⟨headBytes, 0x50000⟩ 0x10000).isSome = true ∧
    (layObject one 0 ⟨headBytes, 0x50000⟩ 0x10000).all (fun s => tableOk s 0 0 (bankWords (parseHeader headBytes) headBytes)) = true := by
  decide +kernel

/-- An image's header: magic, version, length, security version. -/
def imageHeader : List Byte := bytes32 Config.imageMagic ++ bytes32 Config.imageVersion ++ leBytes 8 20 ++ leBytes 4 0

/-- Four bytes of a word are that word again. -/
theorem field_bytes32 (w : W32) (pre rest : List Byte) (n : Nat) (h : pre.length = n) :
    BitVec.ofNat 32 (field (pre ++ (bytes32 w ++ rest)) n 4) = w := by
  subst h
  have : ((pre ++ (bytes32 w ++ rest)).drop pre.length).take 4 = bytes32 w := by
    rw [List.drop_left]
    exact List.take_left' (leBytes_length _ _)
  rw [field, this]
  exact word32_bytes32 w

/-- The signature check is a constant of the model (log 9): where it accepts an image whose key has the fused digest, the
premises of a successful start are met. -/
theorem witness_HostAndBootSteps_image (key sig : List Byte) (hk : key.length = 64) (hl : sig.length = 29792)
    (hs : Config.slhDsaVerify key imageHeader sig = true) :
    imageFailure { State.reset with fuse := shake256 key 32 } ⟨true, imageHeader, [], key, sig⟩ = 0 := by
  have hm : Image.magic ⟨true, imageHeader, [], key, sig⟩ = Config.imageMagic := field_bytes32 _ [] _ 0 rfl
  have hv : Image.version ⟨true, imageHeader, [], key, sig⟩ = Config.imageVersion :=
    field_bytes32 _ (bytes32 Config.imageMagic) _ 4 (leBytes_length _ _)
  have hn : imageHeader.length = 20 := by decide +kernel
  have hf : Image.length ⟨true, imageHeader, [], key, sig⟩ = 20 := by
    have h : imageHeader.drop 8 = leBytes 8 20 ++ leBytes 4 0 := by
      rw [imageHeader, List.append_assoc]
      exact List.drop_left' rfl
    unfold Image.length field
    rw [h]
    decide +kernel
  simp [imageFailure, Image.formed, Image.signed, hm, hv, hn, hf, hk, hl, hs, State.reset]

theorem witness_ResetAndStartingState : oneGrid.origin = .host 0 1 0 ∧
    ({ oneGrid with origin := .spawn 0x8000 3 } : Grid).origin = .spawn 0x8000 3 ∧
    -- a task group of 32 records, two of them continuations: with one tag, and with two
    (let rs (f g : Nat) : List TaskRecord := [{ TaskRecord.zero with cont := true, frame := f }, { TaskRecord.zero with cont := true, frame := g }] ++
        List.replicate 30 TaskRecord.zero
     let s := setMem one 0x8014 [5]
     ({ oneGrid with origin := .tasks (rs 0x8000 0x8000) } : Grid).origin = .tasks (rs 0x8000 0x8000) ∧
     (rs 0x8000 0x8000).length ≤ 32 ∧ (rs 0x8000 0x8000).filter (·.cont) ≠ [] ∧ ([TaskRecord.zero].filter (·.cont)) = [] ∧
     (∀ f ∈ (rs 0x8000 0x8000).filter (·.cont), savedTag s 0 f.frame 0 = 5) ∧
     savedTag s 0 0x8000 0 ≠ savedTag s 0 0x8080 0) := by
  refine ⟨by decide +kernel, by decide +kernel, by decide +kernel, by decide +kernel, by decide +kernel, by decide +kernel,
    by decide +kernel, by decide +kernel⟩

theorem witness_DecodeOfEncode : (Instr.sadd 201 138 77).wf = true ∧ encodeScalar (.sadd 201 138 77) = some [0x07262934] ∧
    (Instr.vadd ⟨.f80, 0, 3, 0, 300, 3, 0x702, 0, 0⟩).wf = true ∧
    encodeLane (.vadd ⟨.f80, 0, 3, 0, 300, 3, 0x702, 0, 0⟩) = some [0x80, 0x01, 0x03, 0x01, 0x2C, 0x00, 0x7C, 0x08] := by
  decide +kernel

/-- The machine about to run a scalar word, and lane bytes. -/
def runS (w : Nat) : State := State.reset.withFetchWord 32 w
def runL (bs : List Byte) : State := placeCode State.reset true bs

theorem witness_StepRunsTheDecodedInstruction :
    (let s := runS 0x04300C10
     let s1 := { s with clock := s.clock + 1, frees := s.frees + 1, agenda := [] }
     s.agenda = [.scalar 3] ∧ (beginScalar s1 3).any (fun t => !trapDue t.g && okB (fetchWord t t.g.spc) 0x04300C10) = true ∧
     moreWords 0x04300C10 = 0 ∧ moreWords 0x45240000 ≠ 0 ∧
     (beginScalar s1 3).any (fun t => okB (fetchBytes t false t.g.spc 8) [0x10, 0x0C, 0x30, 0x04, 0, 0, 0, 0]) = true) ∧
    (let s := runL [0x01, 0x07, 0x03, 0x04]
     let s1 := { s with clock := s.clock + 1, frees := s.frees + 1, agenda := [] }
     s.agenda = [.lane 3 0] ∧ (beginLane s1 3 0).any (fun t => !trapDue t.g && okB (fetchBytes t true (laneVa t) 1) [0x01] &&
       okB (fetchBytes t true (laneVa t) (prefixLength 0x01)) [0x01, 0x07, 0x03, 0x04]) = true ∧
     decodeLane [0x01, 0x07, 0x03, 0x04] = some (.vadd ⟨.short, 0, 0, 0, 7, 3, 4, 0, 0⟩)) ∧
    eventAllowed one .doorbell {} = true := by
  decide +kernel

theorem witness_EveryInstructionGoes : clearOfFault (.sadd 1 2 3) one = true ∧
    clearOfFault .hostMemoryAccess (setEv one { host := .read 0 8 }) = true ∧
    clearOfFault .peerPageAccess (setEv one { peer := .get 0xBFFFFFFFF8 }) = true := by
  decide +kernel

theorem witness_StepKeepsMemoryCanonical : memoryWf (runS 0x04300C10).mem = true ∧
    nextB (step (runS 0x04300C10)) (fun _ => true) = true := by
  decide +kernel

/-! ### Single instructions

Expected values are worked by hand from the rule named. -/

/-- The result of a scalar instruction in a register. -/
def scalarB (i : Instr) (s : State) (r : Nat) (v : W64) : Bool := nextB (exec i s) (fun t => readS t r == v && t.g.spc == s.g.spc + 4)
/-- The result of a lane instruction in lane 0 of V5, and its flags. -/
def laneB (i : Instr) (s : State) (v : W32) (fl : BitVec 8) : Bool := nextB (exec i s) (fun t => readV t.g 5 0 == v && t.g.flags == fl)
/-- S2 and S3 set. -/
def ab (a b : W64) : State := setS one [(2, a), (3, b)]
/-- V6, V7 and V8 of lanes 0 to 3 set, with a tag; a split of lane 0. -/
def vabc (t : BitVec 4) (a b c : W32) : State :=
  let all (w : W32) : List (Nat × W32) := [(0, w), (1, w), (2, w), (3, w)]
  setMask (setL (setL (setL oneL 6 t (all a)) 7 t (all b)) 8 t (all c)) 1

-- R86, R33
theorem test_sadd_wraps : scalarB (.sadd 1 2 3) (ab 0xFFFFFFFFFFFFFFFF 2) 1 1 = true := by decide +kernel
theorem test_sadd_zero : scalarB (.sadd 0 2 3) (ab 5 2) 0 0 = true := by decide +kernel
theorem test_smulh : scalarB (.smulh 1 2 3) (ab 0xFFFFFFFFFFFFFFFF 2) 1 0xFFFFFFFFFFFFFFFF = true := by decide +kernel
theorem test_sdiv_wraps : scalarB (.sdiv 1 2 3) (ab 0x8000000000000000 0xFFFFFFFFFFFFFFFF) 1 0x8000000000000000 = true := by decide +kernel
theorem test_sdiv_zero : nextB (exec (.sdiv 1 2 3) (ab 5 0)) (fun t => readS t 1 == 0xFFFFFFFFFFFFFFFF && t.g.flags == 0x02) = true := by
  decide +kernel
theorem test_srem_sign : scalarB (.srem 1 2 3) (ab 0xFFFFFFFFFFFFFFF9 2) 1 0xFFFFFFFFFFFFFFFF = true := by decide +kernel
theorem test_sandn : scalarB (.sandn 1 2 3) (ab 0xFF 0x0F) 1 0xF0 = true := by decide +kernel
theorem test_ssra : scalarB (.ssra 1 2 3) (ab 0x8000000000000000 65) 1 0xC000000000000000 = true := by decide +kernel
theorem test_sror : scalarB (.sror 1 2 3) (ab 1 1) 1 0x8000000000000000 = true := by decide +kernel
theorem test_sslt : scalarB (.sslt 1 2 3) (ab 0xFFFFFFFFFFFFFFFF 0) 1 1 = true := by decide +kernel
theorem test_ssltu : scalarB (.ssltu 1 2 3) (ab 0xFFFFFFFFFFFFFFFF 0) 1 0 = true := by decide +kernel
theorem test_smax : scalarB (.smax 1 2 3) (ab 0xFFFFFFFFFFFFFFFF 0) 1 0 = true := by decide +kernel
theorem test_sclz : scalarB (.sclz 1 2) (ab 0 0) 1 64 = true := by decide +kernel
theorem test_sctz : scalarB (.sctz 1 2) (ab 0x50 0) 1 4 = true := by decide +kernel
theorem test_sbrev : scalarB (.sbrev 1 2) (ab 3 0) 1 0xC000000000000000 = true := by decide +kernel
-- R87 to R89
theorem test_saddi_negative : scalarB (.saddi 1 2 0x3FF) (ab 5 0) 1 4 = true := by decide +kernel
theorem test_sori_zero_extends : scalarB (.sori 1 2 0x3FF) (ab 0 0) 1 0x3FF = true := by decide +kernel
theorem test_sli : scalarB (.sli 1 0x3FFFF) one 1 0xFFFFFFFFFFFFFFFF = true := by decide +kernel
theorem test_slit : nextB (exec (.slit 1 (.full 1 2)) one) (fun t => readS t 1 == 0x200000001 && t.g.spc == 12) = true := by decide +kernel
theorem test_scmovz : scalarB (.scmovz 1 2 3) (ab 7 0) 1 7 = true := by decide +kernel
-- R91 to R93: a negative 32-bit word, an offset in units of the size
theorem test_slw : scalarB (.slw 1 2 2) (setMem (ab 0x100 0) 0x108 [0xFE, 0xFF, 0xFF, 0xFF]) 1 0xFFFFFFFFFFFFFFFE = true := by decide +kernel
theorem test_sld_misaligned : nextB (exec (.sld 1 2 0) (ab 0x104 0)) (fun t => t.g.run == .failing && readS t 1 == 0) = true := by
  decide +kernel
theorem test_sst_then_ack : nextB (exec (.sst 2 3 0) (ab 0x1122334455667788 0x200)) (fun t =>
    readByte t 0x40200 == 0 && nextB (exec .storeAck t) (fun u => readByte u 0x40200 == 0x88 && readByte u 0x40207 == 0x11)) = true := by
  decide +kernel
theorem test_sacas : nextB (exec (.sacas 1 2 3) (setMem (setS (ab 0x100 9) [(1, 4)]) 0x100 [4])) (fun t =>
    readS t 1 == 4 && readByte t 0x40100 == 9) = true := by decide +kernel
-- R94, R95
theorem test_sbne_back : nextB (exec (.sbne 2 0 (-3)) (setG (ab 5 0) (fun g => { g with spc := 100 }))) (fun t => t.g.spc == 88) = true := by
  decide +kernel
theorem test_scall_links : nextB (exec (.scall 16) one) (fun t => t.g.spc == 64 && readS t 255 == 4) = true := by decide +kernel
theorem test_sjr_misaligned : nextB (exec (.sjr 2) (ab 6 0)) (fun t => t.g.run == .failing) = true := by decide +kernel
-- R96, R97
theorem test_lcall : nextB (exec (.lcall 0x40) one) (fun t => t.g.call.isSome && (splitAt t.g 0).lpc == 0x40 && (splitAt t.g 0).mask == 0xFFFFFFFF) = true := by
  decide +kernel
theorem test_ljoin_publishes : nextB (exec .ljoin oneStopped) (fun t => readS t 800 == 7 && t.g.call.isNone) = true := by decide +kernel
-- R90, R104, R112, R115
theorem test_srd_none : nextB (exec (.srd 1 38) one) (fun t => t.g.run == .failing) = true := by decide +kernel
theorem test_fget_full : scalarB (.fget 1 5) (setMem (oneF true) 0x20 [42]) 1 42 = true := by decide +kernel
theorem test_fget_empty : nextB (exec (.fget 1 5) (oneF false)) (fun t => t.g.wait == some .future && t.g.spc == 0) = true := by decide +kernel
theorem test_vacq : nextB (exec (.vacq 3) one) (fun t => t.g.blocks == 3 && t.g.spc == 4) = true := by decide +kernel
theorem test_sysc_enters_handler : nextB (exec (.sysc 9) oneVec) (fun t =>
    t.g.spc == 0x800 && t.g.priv && t.g.depth == 1 && readS t 1 == 0xF000 && readByte t 0x4F000 == 0x0B && readByte t 0x4F001 == 9 &&
    read64 t 0x4F018 == 4) = true := by decide +kernel
theorem test_sysc_then_eret : nextB (exec (.sysc 9) (setS oneVec [(1, 77)])) (fun t =>
    nextB (exec .eret t) (fun u => u.g.spc == 4 && u.g.depth == 0 && !u.g.priv && readS u 1 == 77)) = true := by decide +kernel
theorem test_waitc_waits : nextB (exec (.waitc 1 4) (oneH .free 5)) (fun t => t.g.wait == some (.counter 1 4) && t.g.spc == 0) = true := by
  decide +kernel
theorem test_testh_error : scalarB (.testh 1 3) (oneH (.error 0x04 0 0) 0) 1 0x403 = true := by decide +kernel
-- R122, R123
theorem test_vadd_saturates : laneB (.vadd (fw 1)) (vabc 1 0x7FFFFFFF 1 0) 0x7FFFFFFF 0x04 = true := by decide +kernel
theorem test_vadd_predicated_off : laneB (.vadd (fk 1)) (vabc 1 0x7FFFFFFF 1 0) 0 0 = true := by decide +kernel
theorem test_vmulh : laneB (.vmulh (fw 0)) (vabc 1 0xFFFFFFFF 2 0) 0xFFFFFFFF 0 = true := by decide +kernel
theorem test_vrem_zero : laneB (.vrem (fw 0)) (vabc 1 9 0 0) 9 0x02 = true := by decide +kernel
theorem test_vcmp_leu : laneB (.vcmp (fw 7)) (vabc 1 5 0xFFFFFFFF 0) 1 0 = true := by decide +kernel
theorem test_vbfx_signed : laneB (.vbfx { fw 1 with b := 0, c := 0, imm := 0x64 }) (vabc 1 0x80 0 0) 0xFFFFFFF8 0 = true := by decide +kernel
-- R34, R125: 1.0 + 2^−24 ties to even; 0 × ∞; 1 ÷ 0; the smaller of a NaN and 2
theorem test_fadd_rne : laneB (.fadd (fw 0)) (vabc 3 0x3F800000 0x33800000 0) 0x3F800000 0 = true := by decide +kernel
theorem test_fadd_up : laneB (.fadd (fw 3)) (vabc 3 0x3F800000 0x33800000 0) 0x3F800001 0 = true := by decide +kernel
theorem test_fmul_invalid : laneB (.fmul (fw 0)) (vabc 3 0 0x7F800000 0) 0x7FC00000 0x01 = true := by decide +kernel
theorem test_fdiv_zero : laneB (.fdiv (fw 0)) (vabc 3 0x3F800000 0x80000000 0) 0xFF800000 0x02 = true := by decide +kernel
theorem test_fmin_nan : laneB (.fmin (fw 0)) (vabc 3 0x7FC00000 0x40000000 0) 0x40000000 0 = true := by decide +kernel
theorem test_ffma_fused : laneB (.ffma (fw 0)) (vabc 3 0x3F800001 0x3F800001 0xBF800002) 0x28800000 0 = true := by decide +kernel
theorem test_fsqrt : laneB (.fsqrt (fw 0)) (vabc 3 0x40800000 0 0) 0x40000000 0 = true := by decide +kernel
theorem test_wrong_tag_traps : nextB (exec (.fadd (fw 0)) (vabc 1 0 0 0)) (fun t => t.g.run == .failing) = true := by decide +kernel
theorem test_cvt_e4m3 : laneB (.cvt { fw 0 with b := 0, c := 0, imm := 0x52 }) (vabc 3 0x43E00000 0 0) 0x7E 0 = true := by decide +kernel
-- R136 to R141, in the two lanes 1 and 3
theorem test_vvote_ballot : nextB (exec (.vvote (fw 2)) (setMask (vabc 2 1 0 0) 0xA)) (fun t => readV t.g 5 1 == 0xA && readV t.g 5 0 == 0) = true := by
  decide +kernel
theorem test_vred_add : nextB (exec (.vred (fw 0)) (setMask (vabc 1 7 0 0) 0xA)) (fun t => readV t.g 5 3 == 14 && readV t.g 5 0 == 0) = true := by
  decide +kernel
theorem test_vscan_exclusive : nextB (exec (.vscan (fw 16)) (setMask (vabc 1 7 0 0) 0xA)) (fun t => readV t.g 5 1 == 0 && readV t.g 5 3 == 7) = true := by
  decide +kernel
theorem test_vshup : nextB (exec (.vshup { fw 0 with a := 0x240 }) (setMask (vabc 2 0 1 0) 0x5)) (fun t => readV t.g 5 0 == 0 && readV t.g 5 2 == 1) = true := by
  decide +kernel
theorem test_knot_k0 : nextB (exec (.knot { fw 0 with d := 0, a := 1, b := 0, c := 0 }) oneL) (fun t => readK t.g 0 == 0xFFFFFFFF) = true := by
  decide +kernel
-- R142 to R151
theorem test_vld : nextB (exec (.vld (fm 3 8)) (setMem oneM 0xFFFC [1, 2, 3, 4])) (fun t => readV t.g 5 1 == 0x04030201 && tagV t.g 5 == 3) = true := by
  decide +kernel
theorem test_vsts_last_lane : nextB (exec (.vsts (fm 0 8)) (setL (setL onePad 7 2 [(0, 0), (1, 0)]) 8 0 [(0, 5), (1, 6)])) (fun t =>
    bankWord t 0 20 0x1FFF8 == 6) = true := by decide +kernel
theorem test_vatom_ascending : nextB (exec (.vatom (fm 0 8)) (setL (setL oneM 7 2 [(0, 0), (1, 0)]) 8 1 [(0, 5), (1, 6)])) (fun t =>
    readV t.g 5 0 == 0 && readV t.g 5 1 == 5 && read32 t 0x4FFF8 == 11) = true := by decide +kernel
-- R154 to R161
theorem test_lbr_diverges : nextB (exec (.lbr { fw 0 with a := 0x240, b := 0, c := 9, imm := 64 }) oneL) (fun t =>
    t.g.splits.any (fun x => x.mask == 1 && x.lpc == 12) && t.g.splits.any (fun x => x.mask == 0xFFFFFFFE && x.lpc == 64)) = true := by
  decide +kernel
theorem test_lbr_uniform_claim : nextB (exec (.lbr { fw 1 with a := 0x240, b := 0, c := 9, imm := 64 }) oneL) (fun t => t.g.flags == 0x40) = true := by
  decide +kernel
-- R180, R181, R194, R201
theorem test_tzero : nextB (exec (.tzero { ft 1 0 0 0 with d := 0x301 }) (setG oneT (fun g => setTagT g 1 3))) (fun t => tagT t.g 1 == 1) = true := by
  decide +kernel
theorem test_edge_tie : edgePasses (rayEdge ⟨0, 0, 1⟩ ⟨1, 0, 0⟩ ⟨2, 0, 0⟩ ⟨1, 0, 0⟩ ⟨2, 0, 0⟩) =
    !edgePasses (rayEdge ⟨0, 0, 1⟩ ⟨2, 0, 0⟩ ⟨1, 0, 0⟩ ⟨2, 0, 0⟩ ⟨1, 0, 0⟩) := by decide +kernel
-- R59: both halves read the old V8
theorem test_pair_reads_before_writes : nextB (exec (.pairWord false ⟨0x01, 0, 8, 6, 7⟩ ⟨0x1B, 0, 5, 8, 0⟩) (vabc 1 1 2 9)) (fun t =>
    readV t.g 8 0 == 3 && readV t.g 5 0 == 9) = true := by decide +kernel

/-! ### The machine steps what it fetches -/

theorem test_step_scalar : nextB (step (setS (runS 0x04300C10) [(3, 5), (4, 6)])) (fun t => readS t 12 == 11 && t.g.spc == 4) = true := by
  decide +kernel
theorem test_step_lane : nextB (step (runL [0xFF, 0x1C, 0x07, 0x00, 0x00])) (fun t => (splitAt t.g 0).lpc == 5) = true := by
  decide +kernel
theorem test_step_illegal_word : nextB (step (runS 0)) (fun t => t.g.run == .failing && t.errors.length == 1) = true := by decide +kernel
theorem test_boot_rom : nextB (step State.reset) (fun t => t.booted == .waiting) = true := by decide +kernel

end Sys2Proof.Tests
end

section
/-! PROOF. The scalar stream's immediates, constants, moves and branches (06 R87 to R89, R94): what each shared operation
of the model leaves, and what the decoder answers for each format of their words. -/

namespace Sys2Proof.Proofs

open Sys2Proof Sys2Proof.Machine

/-! ### Results on words -/

/-- An arithmetic shift right is a division by a power of two, rounded down. -/
theorem sshiftRight_eq_ofInt_div (a : W64) (n : Nat) : a.sshiftRight n = BitVec.ofInt 64 (a.toInt / 2 ^ n) := by
  rw [BitVec.sshiftRight_eq, Int.shiftRight_eq_div_pow, Int.natCast_pow, Int.cast_ofNat_Int]

/-- A signed comparison with a sign-extended immediate is one with the immediate's value. -/
theorem boolWord_slt_signExtend (a : W64) (imm : BitVec 10) :
    boolWord (a.slt (imm.signExtend 64)) = if a.toInt < imm.toInt then 1 else 0 := by
  have hv : (imm.signExtend 64).toInt = imm.toInt := BitVec.toInt_signExtend_of_le (by decide)
  simp only [boolWord, BitVec.slt, hv, decide_eq_true_eq]

/-- The test for inequality decides it. -/
theorem bne_eq_decide_ne (a b : W64) : (a != b) = decide (a ≠ b) := by
  rw [decide_not]
  rfl

/-- The negation of a signed comparison is the comparison the other way round. -/
theorem not_slt_eq_decide_le (a b : W64) : (!a.slt b) = decide (b.toInt ≤ a.toInt) := by
  rw [BitVec.slt, ← decide_not, decide_eq_decide, Int.not_lt]

/-- The negation of an unsigned comparison is the comparison the other way round. -/
theorem not_ult_eq_decide_le (a b : W64) : (!a.ult b) = decide (b.toNat ≤ a.toNat) := by
  rw [BitVec.ult, ← decide_not, decide_eq_decide, Nat.not_lt]

/-! ### The operations that the instructions share -/

/-- A register–immediate operation writes its value to S[sd] and moves the PC on (06 R87). -/
theorem aluImm_eq_next {f : W64 → W64} {sd sa : BitVec 8} {s : State} {v : W64} (hv : f (readS s sa.toNat) = v) :
    aluImm f sd sa s = .next (nextSpc (writeS s sd.toNat v)) := by
  rw [aluImm, hv]

/-- A branch changes the scalar PC alone: to its target when its comparison holds, to the next word when not (06 R94). -/
theorem branch_eq_next {cmp : W64 → W64 → Bool} {sa sb : BitVec 8} {off : BitVec 10} {s : State} {taken : Bool}
    (ht : cmp (readS s sa.toNat) (readS s sb.toNat) = taken) :
    branch cmp sa sb off s = .next (setSpc s (if taken then s.g.spc + 4 * off.signExtend 64 else s.g.spc + 4)) := by
  rw [branch, ht]
  cases taken <;> rfl

/-- SSRAI is an immediate operation (06 R87). -/
theorem exec_ssrai (sd sa : BitVec 8) (sh : BitVec 6) (s : State) :
    exec (.ssrai sd sa sh) s = aluImm (fun a => a.sshiftRight sh.toNat) sd sa s := rfl

/-- SSLTI is an immediate operation (06 R87). -/
theorem exec_sslti (sd sa : BitVec 8) (imm : BitVec 10) (s : State) :
    exec (.sslti sd sa imm) s = aluImm (fun a => boolWord (a.slt (imm.signExtend 64))) sd sa s := rfl

/-! Each branch of format SB is a `branch` on its own comparison (06 R94). -/

section Branches
variable (sa sb : BitVec 8) (off : BitVec 10) (s : State)

theorem exec_sbeq : exec (.sbeq sa sb off) s = branch (fun a b => a == b) sa sb off s := rfl
theorem exec_sbne : exec (.sbne sa sb off) s = branch (fun a b => a != b) sa sb off s := rfl
theorem exec_sblt : exec (.sblt sa sb off) s = branch (fun a b => a.slt b) sa sb off s := rfl
theorem exec_sbge : exec (.sbge sa sb off) s = branch (fun a b => !a.slt b) sa sb off s := rfl
theorem exec_sbltu : exec (.sbltu sa sb off) s = branch (fun a b => a.ult b) sa sb off s := rfl
theorem exec_sbgeu : exec (.sbgeu sa sb off) s = branch (fun a b => !a.ult b) sa sb off s := rfl

end Branches

/-- SCMOVN moves when S[sb] is not zero (06 R89). -/
theorem exec_scmovn (sd sa sb : BitVec 8) (s : State) : exec (.scmovn sd sa sb) s =
    .next (nextSpc (if readS s sb.toNat = 0 then s else writeS s sd.toNat (readS s sa.toNat))) := rfl

/-- SCMOVZ moves when S[sb] is zero (06 R89). -/
theorem exec_scmovz (sd sa sb : BitVec 8) (s : State) : exec (.scmovz sd sa sb) s =
    .next (nextSpc (if readS s sb.toNat = 0 then writeS s sd.toNat (readS s sa.toNat) else s)) := rfl

/-! ### The formats of the words -/

/-- The instructions of formats SI and SB whose three fields take any value, by major (05 R73). -/
def plainImmOp : Nat → Option (BitVec 8 → BitVec 8 → BitVec 10 → Instr)
  | 0x08 => some .saddi
  | 0x09 => some .sandi
  | 0x0A => some .sori
  | 0x0B => some .sxori
  | 0x0F => some .sslti
  | 0x19 => some .sbeq
  | 0x1A => some .sbne
  | 0x1B => some .sblt
  | 0x1C => some .sbge
  | 0x1D => some .sbltu
  | 0x1E => some .sbgeu
  | _ => none

/-- The shifts by an immediate, by major (06 R87). -/
def shiftImmOp : Nat → Option (BitVec 8 → BitVec 8 → BitVec 6 → Instr)
  | 0x0C => some .sshli
  | 0x0D => some .sshri
  | 0x0E => some .ssrai
  | _ => none

/-- A word of a plain major decodes to its instruction on the word's three fields. -/
theorem decodeScalar_of_plainImmOp {w w1 w2 : W32} {op : BitVec 8 → BitVec 8 → BitVec 10 → Instr}
    {m : BitVec 6} (hw : w.extractLsb' 26 6 = m) (h : plainImmOp m.toNat = some op) :
    decodeScalar w w1 w2 = op (w.extractLsb' 18 8) (w.extractLsb' 10 8) (w.extractLsb' 0 10) := by
  unfold plainImmOp at h
  split at h <;> cases h <;> rename_i hm <;> simp only [decodeScalar, hw, hm]

/-- The immediate of a shift is below 64 exactly when its bits [9:6] are zero. -/
theorem shiftAmount_lt_iff (w : W32) : (w.extractLsb' 0 10).toNat < 64 ↔ w.extractLsb' 6 4 = 0 := by
  simp only [← BitVec.toNat_inj, BitVec.extractLsb'_toNat, Nat.shiftRight_eq_div_pow,
    BitVec.ofNat_eq_ofNat, BitVec.toNat_ofNat]
  omega

/-- A word of a shift's major decodes to the shift by imm10[5:0] when imm10[9:6] is zero, and is illegal when not. -/
theorem decodeScalar_of_shiftImmOp {w w1 w2 : W32} {op : BitVec 8 → BitVec 8 → BitVec 6 → Instr}
    {m : BitVec 6} (hw : w.extractLsb' 26 6 = m) (h : shiftImmOp m.toNat = some op) :
    if w.extractLsb' 6 4 = 0 then
      decodeScalar w w1 w2 = op (w.extractLsb' 18 8) (w.extractLsb' 10 8) (w.extractLsb' 0 6)
    else decodeScalar w w1 w2 = .illegalScalarWord w := by
  have hsh : (w.extractLsb' 0 10).setWidth 6 = w.extractLsb' 0 6 := by
    ext i hi
    simp [show i < 10 by omega]
  have hd : decodeScalar w w1 w2 = if w.extractLsb' 6 4 = 0 then
      op (w.extractLsb' 18 8) (w.extractLsb' 10 8) (w.extractLsb' 0 6) else .illegalScalarWord w := by
    unfold shiftImmOp at h
    split at h <;> cases h <;> rename_i hm <;> simp only [decodeScalar, hw, hm, shiftAmount_lt_iff, hsh]
  by_cases hz : w.extractLsb' 6 4 = 0
  · simp only [hd, hz, if_true]
  · simp only [hd, hz, if_false]

/-- A word of SLI's major decodes to SLI on its 18-bit immediate (06 R88). -/
theorem decodeScalar_sli {w w1 w2 : W32} (h : w.extractLsb' 26 6 = 0x10) :
    decodeScalar w w1 w2 = .sli (w.extractLsb' 18 8) (w.extractLsb' 0 18) := by
  rw [decodeScalar, h]
  rfl

/-- A word of SLIT's major decodes by its kind, bits [17:16]; it is illegal with kind 3 or a bit of [15:0] set (06
R88). -/
theorem decodeScalar_slit {w w1 w2 : W32} (h : w.extractLsb' 26 6 = 0x11) :
    if w.extractLsb' 0 16 ≠ 0 then decodeScalar w w1 w2 = .illegalScalarWord w
    else if w.extractLsb' 16 2 = 0 then decodeScalar w w1 w2 = .slit (w.extractLsb' 18 8) (.signed w1)
    else if w.extractLsb' 16 2 = 1 then decodeScalar w w1 w2 = .slit (w.extractLsb' 18 8) (.unsigned w1)
    else if w.extractLsb' 16 2 = 2 then decodeScalar w w1 w2 = .slit (w.extractLsb' 18 8) (.full w1 w2)
    else decodeScalar w w1 w2 = .illegalScalarWord w := by
  have hm : (w.extractLsb' 26 6).toNat = 0x11 := by rw [h]; rfl
  simp only [decodeScalar, hm, bne_iff_ne]
  generalize w.extractLsb' 16 2 = kind
  by_cases hz : w.extractLsb' 0 16 = 0
  · simp only [hz, ne_eq, not_true, if_false]
    have hk : kind = 0 ∨ kind = 1 ∨ kind = 2 ∨ kind = 3 := by decide +revert
    rcases hk with rfl | rfl | rfl | rfl <;> simp
  · simp only [hz, ne_eq, not_false_eq_true, if_true]

/-! ### The obligations -/

/-- Settles O4: each immediate operation is an `aluImm`, the constants and moves are their equations, and the words go by
the decoding of their formats. -/
theorem scalarImmediatesConstantsAndMoves : Obligations.ScalarImmediatesConstantsAndMoves := by
  refine ⟨fun sd sa imm sh s => ?operations, fun sd sa sb xd xa imm w0 w1 s => ?constants, fun w w1 w2 => ?words⟩
  case operations =>
    refine ⟨rfl, rfl, rfl, rfl, rfl, rfl, ?ssrai, ?sslti⟩
    case ssrai => exact (exec_ssrai ..).trans (aluImm_eq_next (sshiftRight_eq_ofInt_div ..))
    case sslti => exact (exec_sslti ..).trans (aluImm_eq_next (boolWord_slt_signExtend ..))
  case constants =>
    refine ⟨rfl, rfl, rfl, rfl, rfl, fun hb => ⟨?_, ?_⟩, fun hb => ⟨?_, ?_⟩⟩
    · rw [exec_scmovn, if_neg hb]
    · rw [exec_scmovz, if_neg hb]
    · rw [exec_scmovz, if_pos hb]
    · rw [exec_scmovn, if_pos hb]
  case words =>
    exact ⟨fun h => decodeScalar_of_plainImmOp h rfl, fun h => decodeScalar_of_plainImmOp h rfl,
      fun h => decodeScalar_of_plainImmOp h rfl, fun h => decodeScalar_of_plainImmOp h rfl,
      fun h => decodeScalar_of_shiftImmOp h rfl, fun h => decodeScalar_of_shiftImmOp h rfl,
      fun h => decodeScalar_of_shiftImmOp h rfl, fun h => decodeScalar_of_plainImmOp h rfl,
      decodeScalar_sli, decodeScalar_slit, rfl⟩

/-- Settles O11: each branch is a `branch` on its comparison, and the words go by the decoding of their format. -/
theorem branchesFollowTheirComparison : Obligations.BranchesFollowTheirComparison := by
  refine ⟨fun sa sb off s => ?comparisons, fun w w1 w2 => ?words, rfl⟩
  case comparisons =>
    exact ⟨(exec_sbeq ..).trans (branch_eq_next rfl),
      (exec_sbne ..).trans (branch_eq_next (bne_eq_decide_ne ..)),
      (exec_sblt ..).trans (branch_eq_next rfl),
      (exec_sbge ..).trans (branch_eq_next (not_slt_eq_decide_le ..)),
      (exec_sbltu ..).trans (branch_eq_next rfl),
      (exec_sbgeu ..).trans (branch_eq_next (not_ult_eq_decide_le ..))⟩
  case words =>
    exact ⟨fun h => decodeScalar_of_plainImmOp h rfl, fun h => decodeScalar_of_plainImmOp h rfl,
      fun h => decodeScalar_of_plainImmOp h rfl, fun h => decodeScalar_of_plainImmOp h rfl,
      fun h => decodeScalar_of_plainImmOp h rfl, fun h => decodeScalar_of_plainImmOp h rfl⟩

end Sys2Proof.Proofs
end

section
/-!
The edge test of a ray (10 R194) and its verdict in a child's frame (10 R197).

The order of the argument is the spec's: swapping an edge's ends negates E and G, which complements the verdict unless
both are zero; then one lemma for each fact of R197's proof, translation, scaling, re-anchoring and the ties.
-/
namespace Sys2Proof.Proofs

open Sys2Proof Sys2Proof.Machine

/-! ### The verdict on E and G -/

/-- A vector is zero when its axes are. -/
theorem v3_eq_zero_iff (v : V3) : v = ⟨0, 0, 0⟩ ↔ v.x = 0 ∧ v.y = 0 ∧ v.z = 0 := by
  cases v
  simp only [V3.mk.injEq]

/-- The tie of R194: the first axis that is not zero is positive. -/
theorem leadsPositive_iff (g : V3) :
    leadsPositive g = true ↔ 0 < g.x ∨ (g.x = 0 ∧ (0 < g.y ∨ (g.y = 0 ∧ 0 < g.z))) := by
  by_cases hx : g.x = 0
  · by_cases hy : g.y = 0
    · by_cases hz : g.z = 0 <;> simp [leadsPositive, V3.list, hx, hy, hz]
    · simp [leadsPositive, V3.list, hx, hy]
  · simp [leadsPositive, V3.list, hx]

/-- R194's condition for an edge to pass. -/
theorem edgePasses_iff (e : Int × V3) : edgePasses e = true ↔ 0 < e.1 ∨ (e.1 = 0 ∧ leadsPositive e.2 = true) := by
  simp [edgePasses]

/-- A vector that is not zero leads positive or its opposite does, and not both. -/
theorem leadsPositive_neg_iff {g : V3} (hg : g ≠ ⟨0, 0, 0⟩) :
    leadsPositive (g.scale (-1)) = true ↔ ¬leadsPositive g = true := by
  rw [ne_eq, v3_eq_zero_iff] at hg
  simp only [leadsPositive_iff, V3.scale]
  omega

/-- The reversed edge passes exactly when the edge does not, unless the edge is degenerate. -/
theorem edgePasses_reversed_iff {e : Int × V3} (he : ¬(e.1 = 0 ∧ e.2 = ⟨0, 0, 0⟩)) :
    edgePasses (reversed e) = true ↔ edgePasses e = false := by
  rw [← Bool.not_eq_true, edgePasses_iff, edgePasses_iff, reversed]
  by_cases hz : e.1 = 0
  · have hg := leadsPositive_neg_iff (fun hg => he ⟨hz, hg⟩)
    simp [hz, hg]
  · simp only [Int.neg_eq_zero, hz, false_and, or_false]
    omega

/-- A degenerate edge does not pass. -/
theorem edgePasses_degenerate : edgePasses (0, ⟨0, 0, 0⟩) = false := rfl

/-- The reverse of a degenerate edge is degenerate. -/
theorem reversed_degenerate : reversed (0, ⟨0, 0, 0⟩) = (0, ⟨0, 0, 0⟩) := rfl

/-- A positive factor keeps what is positive. -/
theorem pos_mul_iff_of_pos {k : Int} (hk : 0 < k) (x : Int) : 0 < k * x ↔ 0 < x :=
  ⟨fun h => Int.pos_of_mul_pos_right h hk, Int.mul_pos hk⟩

/-- A positive factor keeps what is zero. -/
theorem mul_eq_zero_iff_of_pos {k : Int} (hk : 0 < k) (x : Int) : k * x = 0 ↔ x = 0 := by
  rw [Int.mul_eq_zero, or_iff_right (Int.ne_of_gt hk)]

/-- A positive factor does not change the tie. -/
theorem leadsPositive_scale {k : Int} (hk : 0 < k) (g : V3) : leadsPositive (g.scale k) = leadsPositive g := by
  rw [Bool.eq_iff_iff, leadsPositive_iff, leadsPositive_iff]
  simp only [V3.scale, pos_mul_iff_of_pos hk, mul_eq_zero_iff_of_pos hk]

/-- Positive factors of E and of G do not change the verdict. -/
theorem edgePasses_scale {k m : Int} (hk : 0 < k) (hm : 0 < m) (e : Int × V3) :
    edgePasses (k * e.1, e.2.scale m) = edgePasses e := by
  rw [Bool.eq_iff_iff, edgePasses_iff, edgePasses_iff, leadsPositive_scale hm]
  rw [pos_mul_iff_of_pos hk, mul_eq_zero_iff_of_pos hk]

/-! ### The edge under the operations of a frame -/

/-- The edge from vb to va has the opposite E and G of the edge from va to vb. -/
theorem rayEdge_swap (d a b va vb : V3) : rayEdge d b a vb va = reversed (rayEdge d a b va vb) := by
  simp only [rayEdge, reversed, V3.dot, V3.cross, V3.sub, V3.scale, Prod.mk.injEq, V3.mk.injEq]
  refine ⟨?_, ?_, ?_, ?_⟩ <;> grind

/-- Translation: a common offset cancels in the difference of two points. -/
theorem v3_sub_offset_cancel (p q off : V3) : (p.sub off).sub (q.sub off) = p.sub q := by
  simp only [V3.sub, V3.mk.injEq]
  omega

/-- The difference of two scaled points is their scaled difference. -/
theorem v3_scale_sub_scale (k : Int) (p q : V3) : (p.scale k).sub (q.scale k) = (p.sub q).scale k := by
  simp only [V3.sub, V3.scale, Int.mul_sub]

/-- The difference from a sum, one term at a time. -/
theorem v3_sub_add (p o v : V3) : p.sub (o.add v) = (p.sub o).sub v := by
  simp only [V3.sub, V3.add, Int.sub_sub]

/-- G reads the two ends by their difference only. -/
theorem rayEdge_offset (d a b va vb off : V3) :
    rayEdge d a b (va.sub off) (vb.sub off) = rayEdge d a b va vb := by
  rw [rayEdge, rayEdge, v3_sub_offset_cancel]

/-- Scaling: E grows by the square of the factor, G by the factor. -/
theorem rayEdge_scale (k : Int) (d a b va vb : V3) :
    rayEdge d (a.scale k) (b.scale k) (va.scale k) (vb.scale k) =
      (k * k * (rayEdge d a b va vb).1, (rayEdge d a b va vb).2.scale k) := by
  simp only [rayEdge, V3.dot, V3.cross, V3.sub, V3.scale, Prod.mk.injEq, V3.mk.injEq]
  refine ⟨?_, ?_, ?_, ?_⟩ <;> grind

/-- Re-anchoring: an origin moved along the ray adds to W only terms that are orthogonal to d. -/
theorem rayEdge_reanchor (d a b va vb : V3) (n : Int) :
    rayEdge d (a.sub (d.scale n)) (b.sub (d.scale n)) va vb = rayEdge d a b va vb := by
  simp only [rayEdge, V3.dot, V3.cross, V3.sub, V3.scale, Prod.mk.injEq, and_true]
  grind

/-- A point in the frame of a child with the offset `off` and the scale `k`. -/
def toChild (off : V3) (k : Int) (v : V3) : V3 := (v.sub off).scale k

/-- A point of the child's frame, from an origin that is carried to the child and moved on by `v`. -/
theorem toChild_sub_origin (off p o v : V3) (k : Int) :
    (toChild off k p).sub ((toChild off k o).add v) = ((p.sub o).scale k).sub v := by
  rw [v3_sub_add, toChild, toChild, v3_scale_sub_scale, v3_sub_offset_cancel]

/-- In the frame of a child, re-anchored along the ray, an edge has the E of the old frame times the scale's square,
and its G times the scale. -/
theorem rayEdge_child (d o va vb off : V3) (k n : Int) :
    rayEdge d ((toChild off k va).sub ((toChild off k o).add (d.scale n)))
        ((toChild off k vb).sub ((toChild off k o).add (d.scale n))) (toChild off k va) (toChild off k vb) =
      (k * k * (rayEdge d (va.sub o) (vb.sub o) va vb).1, (rayEdge d (va.sub o) (vb.sub o) va vb).2.scale k) := by
  rw [toChild_sub_origin, toChild_sub_origin, rayEdge_reanchor, toChild, toChild, rayEdge_scale, rayEdge_offset]

/-! ### The obligation -/

/-- Settles O47: R194 by the equations of the verdict and of its reverse, R197 by the edge in the frame of a child. -/
theorem rayEdgeVerdicts : Obligations.RayEdgeVerdicts := by
  intro o d va vb verdict e g positive
  have hv : verdict o va vb = (e, g) := rfl
  have hr : verdict o vb va = reversed (e, g) := rayEdge_swap ..
  refine ⟨hv, ?passes, ?reverse, ?complement, ?degenerate, fun off s n => ?child⟩
  case passes => rw [hv, edgePasses_iff, leadsPositive_iff]
  case reverse => simp only [hr, reversed, V3.scale, Int.neg_one_mul]
  case complement =>
    intro h
    rw [hr, hv]
    exact edgePasses_reversed_iff h
  case degenerate =>
    rintro ⟨he, hg⟩
    rw [hr, hv, he, hg, reversed_degenerate]
    exact ⟨edgePasses_degenerate, edgePasses_degenerate⟩
  case child =>
    have hk : (0 : Int) < ((2 ^ s : Nat) : Int) := Int.natCast_pos.mpr (Nat.two_pow_pos s)
    exact (congrArg edgePasses (rayEdge_child ..)).trans (edgePasses_scale (Int.mul_pos hk hk) hk _)

end Sys2Proof.Proofs
end
